-- ==== Sys2Proof/Word.lean ====
section
/-! DEFINITION. The plain types of the model: bytes, 16-bit words, strings, and the unit of time. -/

namespace Sys2Proof

abbrev Byte := BitVec 8

/-- A 16-bit word: sequence numbers, checks, the scan number (10). -/
abbrev Half := BitVec 16

/-- A string number 0..23 (01, R1). -/
abbrev Str := Fin 24

/-- The 24 strings in string-number order. -/
def allStrings : List Str := List.finRange 24

/-- Instants and times are counted in microseconds (DESIGN CHOICE, log 1). -/
def ms (n : Nat) : Nat := n * 1000

def minutes (n : Nat) : Nat := n * 60000000

end Sys2Proof
end

