-- ==== Sys2Proof/Syntax.lean ====
section
/-! DEFINITION. The commands of the block: one constructor per row of spec/opcode_table.json.

Every command carries `dt`, the microseconds since the command before it (DESIGN CHOICE, log 1).
CHIP_SELECT_ASSERT carries the command byte with the byte the memory sends in it, if it completes. A bus row carries the
bytes exchanged after it and, if the box controller releases its chip select in it, the release (DESIGN CHOICE, log 4): a
transaction is CHIP_SELECT_ASSERT and then one or more commands of its class, the last with its release, so that other
events can fall inside a transaction (R158, R116). POWER_ON and RESET_INPUT carry the bits of the byte they cut. -/

namespace Sys2Proof

/-- One byte time on the bus: the byte the box controller sends and the byte the memory sends in it (R103). -/
structure Xfer where
  mosi : Byte
  miso : Byte
  deriving DecidableEq, Repr

/-- The release of the controller's chip select, or a reset that cuts a transaction, after `bits` bits of an incomplete last
byte: 0 after a whole number of bytes. Only the leading `bits` bits of `x` were on the lines. -/
structure Release where
  bits : Fin 8
  x    : Xfer
  deriving DecidableEq, Repr

/-- The assertion of a reset, at power-on or by the reset input: its time, and the bits of the byte that it cuts (R105). -/
structure ResetEdge where
  dt  : Nat
  cut : Release
  deriving DecidableEq, Repr

/-- What a scan converts for one string (R23): the signed current code (±2048 is full scale, R24), the unipolar voltage
code (4095 is full scale, R26), and the position feedback sample (true: the contact shows closed, R27). -/
structure Sample where
  current : Int
  voltage : Int
  closed  : Bool
  deriving DecidableEq, Repr

/-- The commands. `xs` are the bytes exchanged after the command byte, `rel` the release if the command ends with it. -/
inductive Instr where
  | chipSelectAssert (dt : Nat) (code : Option Xfer)
  | read (dt : Nat) (xs : List Xfer) (rel : Option Release)
  | readFast (dt : Nat) (xs : List Xfer) (rel : Option Release)
  | status (dt : Nat) (xs : List Xfer) (rel : Option Release)
  | wren (dt : Nat) (xs : List Xfer) (rel : Option Release)
  | wrdi (dt : Nat) (xs : List Xfer) (rel : Option Release)
  | program (dt : Nat) (xs : List Xfer) (rel : Option Release)
  | erase4k (dt : Nat) (xs : List Xfer) (rel : Option Release)
  | erase64k (dt : Nat) (xs : List Xfer) (rel : Option Release)
  | eraseAll (dt : Nat) (xs : List Xfer) (rel : Option Release)
  | suspend (dt : Nat) (xs : List Xfer) (rel : Option Release)
  | resume (dt : Nat) (xs : List Xfer) (rel : Option Release)
  | pass (dt : Nat) (xs : List Xfer) (rel : Option Release)
  | block (dt : Nat) (xs : List Xfer) (rel : Option Release)
  | powerOn (edge : ResetEdge)
  | resetInput (edge : ResetEdge)
  | resetDriveEnd (dt : Nat) (str : Str)
  | resetRelease (dt : Nat) (sel1 : Bool) (sel0 : Bool)
  | scanStart (dt : Nat)
  | scanCompletion (dt : Nat) (samples : Vector Sample 24) (bus : Int)
  | insulationCompletion (dt : Nat) (kohm : Nat) (inBand : Bool)
  | searchSettleExpiry (dt : Nat)
  | searchTimeout (dt : Nat)
  | rearmTimerExpiry (dt : Nat)
  | shdnLevelChange (dt : Nat) (asserted : Bool)
  | shutdownActivation (dt : Nat)
  | shutdownRelease (dt : Nat)
  | maintLevelChange (dt : Nat) (asserted : Bool)
  | maintActivation (dt : Nat)
  | maintRelease (dt : Nat)
  | closeSettleEnd (dt : Nat) (str : Str)
  | openSettleEnd (dt : Nat) (str : Str)
  | coilPulseEnd (dt : Nat) (str : Str)
  | feedbackLineChange (dt : Nat) (str : Str) (closed : Bool)
  | closeTravelExpiry (dt : Nat) (str : Str)
  | openTravelExpiry (dt : Nat) (str : Str)
  | retryWaitEnd (dt : Nat) (str : Str)
  | grantReturn (dt : Nat) (str : Str)
  | programCommitTimeout (dt : Nat)
  | eraseCommitTimeout (dt : Nat)
  deriving DecidableEq, Repr

end Sys2Proof
end

