-- ==== Sys2Proof/Decode.lean ====
section
/-! DEFINITION. The commands that words spell: none. No row of spec/opcode_table.json gives bits, since a command of this block is a
transaction or an event and not a word. -/

namespace Sys2Proof

/-- The command that the word `w` of `nbits` bits spells. -/
def decodeTableWord (_nbits _w : Nat) : Option Instr := none

end Sys2Proof
end

