-- ==== Sys2Proof/Config.lean ====
section
/-! DEFINITION. The configuration of the part (10, section 10.3), its built-in defaults (R169), and the free values. -/

namespace Sys2Proof

/-- The classes of the command table (R107); `none` is an unused entry. The order is that of the class codes (10.3). -/
inductive CmdClass where
  | none | read | readFast | status | wren | wrdi | program | erase4k | erase64k | eraseAll
  | suspend | resume | pass | block
  deriving DecidableEq, Repr

/-- The kinds of the region map (R111), codes as in 10.3; `pass` is unlisted space. -/
inductive RegionKind where
  | pass | journal | window | guarded | config
  deriving DecidableEq, Repr

/-- One entry of the command table (R107). -/
structure CmdEntry where
  code  : Byte
  cls   : CmdClass
  dummy : Nat
  deriving DecidableEq, Repr

/-- One configured entry of the region map (R111); base and count in sectors of 4096 bytes. -/
structure Region where
  kind  : RegionKind
  base  : Nat
  count : Nat
  deriving DecidableEq, Repr

/-- The active configuration, every field of 10.3 in the unit its chapter uses
(ms for times, minutes for T_stmo and T_rearm, mA, 0.1 V, kΩ). -/
structure Config where
  stringCount : Nat
  memSize     : Nat
  busyBit     : Nat
  welBit      : Nat
  suspBit     : Nat
  errBit      : Nat
  commands    : List CmdEntry
  regions     : List Region
  tScan       : Nat
  iFs         : Nat
  vFs         : Nat
  tIso        : Nat
  iRev        : Nat
  cRev        : Nat
  iMax        : Nat
  cOvc        : Nat
  iDevMin     : Nat
  devFrac     : Nat
  devWindow   : Nat
  nDev        : Nat
  enRev       : Bool
  enOvc       : Bool
  enDev       : Bool
  enPrb       : Bool
  enSrch      : Bool
  optSweep    : Bool
  optBtrip    : Bool
  optSdl      : Bool
  tSettle     : Nat
  tPulse      : Nat
  tTravel     : Nat
  tRch        : Nat
  iZero       : Nat
  vMatch      : Nat
  qualCount   : Nat
  probation   : Nat
  grants      : Nat
  rMin        : Nat
  rOk         : Nat
  cIso        : Nat
  tSs         : Nat
  tStmo       : Nat
  tRearm      : Nat
  tPc         : Nat
  tEc         : Nat
  deriving DecidableEq, Repr

/-- The built-in command table of R107. The remaining four entries have class NONE; their codes play no part (R182). -/
def builtinCommands : List CmdEntry :=
  [⟨0x41, .read, 0⟩, ⟨0x42, .readFast, 1⟩, ⟨0x57, .status, 0⟩, ⟨0x51, .wren, 0⟩, ⟨0x50, .wrdi, 0⟩,
   ⟨0x62, .program, 0⟩, ⟨0x71, .erase4k, 0⟩, ⟨0x74, .erase64k, 0⟩, ⟨0x7F, .eraseAll, 0⟩,
   ⟨0x6A, .suspend, 0⟩, ⟨0x6B, .resume, 0⟩, ⟨0x5F, .pass, 0⟩,
   ⟨0, .none, 0⟩, ⟨0, .none, 0⟩, ⟨0, .none, 0⟩, ⟨0, .none, 0⟩]

/-- The built-in defaults (R169 and the parameter tables of 02 to 07). -/
def Config.builtin : Config where
  stringCount := 24
  memSize := 16 * 1048576
  busyBit := 0
  welBit := 1
  suspBit := 4
  errBit := 5
  commands := builtinCommands
  regions := []
  tScan := 50
  iFs := 32000
  vFs := 15000
  tIso := 2000
  iRev := 1500
  cRev := 3
  iMax := 18000
  cOvc := 5
  iDevMin := 1000
  devFrac := 64
  devWindow := 200
  nDev := 30
  enRev := true
  enOvc := true
  enDev := false
  enPrb := true
  enSrch := false
  optSweep := true
  optBtrip := true
  optSdl := false
  tSettle := 2
  tPulse := 20
  tTravel := 40
  tRch := 10
  iZero := 100
  vMatch := 300
  qualCount := 10
  probation := 40
  grants := 2
  rMin := 100
  rOk := 200
  cIso := 2
  tSs := 500
  tStmo := 20
  tRearm := 60
  tPc := 10
  tEc := 500

/-- FREE VALUE (log 7): the byte the box controller reads, after a reset release, in a transaction whose chip select was
asserted before the release and is therefore not forwarded (R105 does not state what it reads). -/
opaque Config.freeByte : Nat → Byte

/-- FREE VALUE (log 12): where one event ends the pending program and the pending erase, whether the last commit
outcome shows the erase (true) or the program (false); R155 says "the commit that ended last". -/
opaque Config.freeEraseLast : Nat → Bool

end Sys2Proof
end

