-- ==== Sys2Proof/Machine/State.lean ====
section
/-! DEFINITION. The state of the BD2440: one structure per block of 00 ("Block overview"), all plain data, and its reset
value. Names follow the manual. Instants and times are in microseconds (log 1). -/

namespace Sys2Proof.Machine

/-- The part has no event that stops it (log 26): no command faults. -/
inductive Fault where
  deriving DecidableEq, Repr

/-- Why a step has no meaning. -/
inductive Refusal where
  /-- Raised by `exec` for a command that has no meaning yet (none is left). Safe: nothing follows from a refusal. -/
  | notModelled (mnemonic : String)
  deriving DecidableEq, Repr

/-! ## String table (01) -/

inductive Disposition where
  | none | connect | isolate | lockout
  deriving DecidableEq, Repr

inductive Target where
  | connected | isolated
  deriving DecidableEq, Repr

inductive Coherence where
  | coherent | unrecorded | pending
  deriving DecidableEq, Repr

inductive Role where
  | none | suspect | held
  deriving DecidableEq, Repr

/-- The refusal codes of 10.7. -/
inductive RefusalCode where
  | blockedCommand | memoryStateUnknown | welNotSet | commitPending | chipErase | windowWrite | eraseSpan | configWrite
  | guarded | misaligned | notAdopted | doubtfulSlots | journalInconsistent | notHead | sectorNotErased | suspendedSector
  | badMarker | badString | badDisposition | badCheck | badSequence | causePresent | maintRequired | causeLatched
  | lockoutHeld | journalFull | eraseNotTail | eraseLive
  deriving DecidableEq, Repr

/-- One entry of the string table (01, section 1.1). Presence is computed from the string count (R1). -/
structure Entry where
  recorded    : Disposition
  liveSlot    : Option Nat
  damaged     : Bool
  target      : Target
  coherence   : Coherence
  role        : Role
  lastRefusal : Option RefusalCode
  deriving DecidableEq, Repr

/-- R21. -/
def Entry.reset : Entry := ⟨.none, none, false, .connected, .coherent, .none, none⟩

/-! ## Evidence unit (03) -/

inductive Cause where
  | reverse | overcurrent | deviation | probation | ground | held | weld
  deriving DecidableEq, Repr

/-- A cause set or a release mask, in the bit numbering of 10.2. -/
abbrev CauseSet := Byte

/-- The origin of a latched HELD (R50). -/
inductive Origin where
  | foundOpen | other
  deriving DecidableEq, Repr

/-- The evidence unit's flags and counters for one string (R38, R42, R45, R50). -/
structure Evidence where
  present    : CauseSet
  noted      : CauseSet
  latched    : CauseSet
  heldOrigin : Option Origin
  revCount   : Nat
  ovcCount   : Nat
  winScans   : Nat
  winDeviant : Nat
  devWindows : Nat
  deriving DecidableEq, Repr

/-- R60. -/
def Evidence.reset : Evidence := ⟨0, 0, 0, none, 0, 0, 0, 0, 0⟩

/-- SHDN, MAINT and the shutdown snapshot (R55 to R58). A raw level is true while the input is asserted (held low);
a timing is the instant at which the debounce time of the standing raw level has run. -/
structure Inputs where
  shdnRaw     : Bool
  shdnActive  : Bool
  shdnTiming  : Option Nat
  maintRaw    : Bool
  maintActive : Bool
  maintTiming : Option Nat
  snapshot    : List Str
  deriving DecidableEq, Repr

/-! ## Scan unit and insulation monitor (02) -/

/-- A string's measurement record (R28, R30); the feedback sample is true for CLOSED. -/
structure Meas where
  valid     : Bool
  current   : Int
  saturated : Bool
  voltage   : Nat
  feedback  : Option Bool
  scan      : Half
  deriving DecidableEq, Repr

/-- The invalid record of R30. -/
def Meas.invalid : Meas := ⟨false, 0, false, 0, none, 0⟩

/-- A scan in progress: its start, the instant of its completion, and what it took at its start (R22). -/
structure ScanJob where
  start  : Nat
  doneAt : Nat
  count  : Nat
  iFs    : Nat
  vFs    : Nat
  deriving DecidableEq, Repr

/-- The scan unit's own state and the box measurement record (R22, R28, R29). `median` is none when invalid. -/
structure Scan where
  timer     : Option Nat
  job       : Option ScanJob
  number    : Half
  found     : Bool
  boxValid  : Bool
  boxScan   : Half
  bus       : Nat
  median    : Option Int
  deriving DecidableEq, Repr

/-- R22, R28, R30, R41: no scan runs before the reset release. -/
def Scan.reset : Scan := ⟨none, none, 0, false, false, 0, 0, none⟩

inductive IsoStatus where
  | none | valid | disturbed | invalid
  deriving DecidableEq, Repr

/-- The insulation measurement in progress (R32, R34). -/
structure IsoJob where
  start     : Nat
  doneAt    : Nat
  disturbed : Bool
  deriving DecidableEq, Repr

/-- The insulation monitor (R32 to R37): the measurement in progress, the last result with its start time, MONITOR_FAULT. -/
structure Iso where
  job    : Option IsoJob
  value  : Nat
  status : IsoStatus
  start  : Nat
  fault  : Bool
  deriving DecidableEq, Repr

/-- R37. It gives the last result no start time: 0 is the model's choice (DESIGN CHOICE, log 1), and no rule reads it before a
result. -/
def Iso.reset : Iso := ⟨none, 0, .none, 0, false⟩

/-! ## Disconnect sequencers and arbiter (04) -/

/-- The switch states of 4.2, and UNFOUND (R61); `opened` is OPEN. -/
inductive SwitchState where
  | unfound | opened | qualify | closeQueued | closing | closed | openQueued | opening | failed
  deriving DecidableEq, Repr

/-- A coil, and the kind of a request, a sequence or a queue entry. -/
inductive Coil where
  | open_ | close_
  deriving DecidableEq, Repr

/-- The sub-phases during which the bypass is on. -/
inductive ActPhase where
  | settle | pulse | travel | retryWait
  deriving DecidableEq, Repr

/-- An actuation in progress on a string's switch. Its bypass is on as long as it stands; its coil pulse runs in phase
`pulse`. `until_` ends the settle, the pulse or the retry wait; `travelEnd` closes the travel window; `seen` records that the
line has shown the pulse's position; the times are those taken at the grant (R82). -/
structure Act where
  coil      : Coil
  phase     : ActPhase
  seen      : Bool
  until_    : Nat
  travelEnd : Nat
  tPulse    : Nat
  tTravel   : Nat
  tRch      : Nat
  deriving DecidableEq, Repr

/-- A grant (R77): held by the running sequence, or recharging until its return. -/
inductive Grant where
  | none | held | recharging (returnAt : Nat)
  deriving DecidableEq, Repr

/-- One sequencer. OPENING without an actuation is its sub-phase ZERO_CHECK. UNFOUND with an actuation is a drive carried to
its end on a string that left presence (R81) or during a reset input (R83). -/
structure Seq where
  state        : SwitchState
  act          : Option Act
  retry        : Bool
  probation    : Nat
  qual         : Nat
  mismatch     : Nat
  bypassOffAt  : Nat
  pulseEndedAt : Nat
  grant        : Grant
  deriving DecidableEq, Repr

/-- R61, R83: the state is dropped, the switch is UNFOUND and no line is driven. R79 leaves no grants. No rule gives the retry mark and
the counts: clear and 0 are the model's choice (log 40; for the time stamps log 1). -/
def Seq.reset : Seq := ⟨.unfound, none, false, 0, 0, 0, 0, 0, .none⟩

/-- One entry of the actuation queue (R78). -/
structure QEntry where
  str  : Str
  kind : Coil
  deriving DecidableEq, Repr

/-- The arbiter (R78, R79). The grants in use are counted from the sequencers. -/
structure Arb where
  queue    : List QEntry
  k        : Nat
  kPending : Option Nat
  deriving DecidableEq, Repr

/-- R79. -/
def Arb.reset : Arb := ⟨[], 2, none⟩

/-! ## Localisation search unit (05) -/

inductive SearchPhase where
  | idle | baseline | halving | confirm | sweep
  deriving DecidableEq, Repr

/-- The stage state; `hold` is the hold stage of a sweep (R96), which waits like SWITCH_WAIT. -/
inductive Stage where
  | none | hold | switchWait | settle | measure
  deriving DecidableEq, Repr

inductive SearchResult where
  | none | cleared | found | swept | unlocated | abortedSwitch | abortedShutdown | abortedMonitor | abortedTimeout
  | abortedConfig
  deriving DecidableEq, Repr

/-- What the search unit holds (05, section 5.2; R86, R87, R101). -/
structure Search where
  phase     : SearchPhase
  suspects  : List Str
  originals : List Str
  stage     : Stage
  settleAt  : Nat
  measureAt : Nat
  disturbed : Nat
  steps     : Nat
  timer     : Option Nat
  trigger   : Nat
  rearmMet  : Bool
  rearmAt   : Option Nat
  result    : SearchResult
  found     : Option Str
  attn      : Bool
  underTest : Option Str
  swept     : List Str
  deriving DecidableEq, Repr

/-- R102. Its list leaves out the disturbed count (held by section 5.2), the stage, the search timer, and the instants and strings that a stage
holds: 0, stopped, none and empty are the model's choice (log 40). -/
def Search.reset : Search :=
  ⟨.idle, [], [], .none, 0, 0, 0, 0, none, 0, true, none, .none, none, false, none, []⟩

/-! ## Bus passage (06) -/

/-- How the last transaction ended at the memory port: not yet (it goes on, or there was none), as the controller released it, or with
a partial byte whose data line stood at `level` (R104, R167). -/
inductive MemEnd where
  | none | asSent | partialByte (level : Bool)
  deriving DecidableEq, Repr

/-- The controller port and the memory port. The lists are newest first. -/
structure Ports where
  ctlSelected  : Bool
  returned     : List Byte
  returnedTail : Option Release
  memSelected  : Bool
  memReceived  : List Byte
  memEnd       : MemEnd
  deriving DecidableEq, Repr

/-- The memory port is deselected (R105). The controller's chip select (log 6) and that no bytes and no end of a transaction stand (log 40)
are the model's choice. -/
def Ports.reset : Ports := ⟨false, [], none, false, [], .none⟩

/-- The capture condition of R113, as it stood at the chip-select assertion. -/
inductive CaptureCond where
  | never | always | outside (base : Nat) (size : Nat)
  deriving DecidableEq, Repr

/-- The transaction record (R107): command, settings in force, address phase, data image of a program (R115), and the
data bytes of a read, newest first, each none where it was not captured (R113). -/
structure Txn where
  code      : Option Byte
  cls       : Option CmdClass
  dummy     : Nat
  cfg       : Config
  cond      : CaptureCond
  count     : Nat
  addrBytes : List Byte
  start     : Nat
  addr      : Nat
  image     : List (Option Byte)
  stream    : List (Option Byte)
  deriving DecidableEq, Repr

inductive MirrorState where
  | unknown | idle | busyProgram | busyErase | eraseSuspended | busyProgramInSuspend
  deriving DecidableEq, Repr

inductive Wel where
  | unknown | clear | set
  deriving DecidableEq, Repr

/-- The last-refusal record (R126). -/
structure LastRefusal where
  code : Option RefusalCode
  str  : Option Str
  cls  : CmdClass
  addr : Nat
  deriving DecidableEq, Repr

/-- The memory mirror, the refusal flag and the last-refusal record (R116, R126, R127). -/
structure Mirror where
  state       : MirrorState
  wel         : Wel
  refusalFlag : Bool
  lastRefusal : LastRefusal
  deriving DecidableEq, Repr

def Mirror.reset : Mirror := ⟨.unknown, .unknown, false, ⟨none, none, .none, 0⟩⟩

/-! ## Capture unit (09) -/

inductive CfgState where
  | default | adopted | bad
  deriving DecidableEq, Repr

/-- One segment buffer with its valid mark (R170). -/
structure Segment where
  valid : Bool
  bytes : List Byte
  deriving DecidableEq, Repr

/-- The capture unit. `adopted`: a configuration has been adopted since reset. The coverage map has one mark per page of
the largest ring (R176). -/
structure Capture where
  segments : Vector Segment 8
  state    : CfgState
  deferred : Bool
  adopted  : Bool
  coverage : List Bool
  deriving DecidableEq, Repr

/-- R171, R174, R175: every mark and the deferred flag clear, DEFAULT. The bytes of the segments (log 6) and the coverage map before the first
adoption empties it (R176; log 40) are the model's choice. -/
def Capture.reset : Capture := ⟨Vector.replicate 8 ⟨false, []⟩, .default, false, false, List.replicate 128 false⟩

/-! ## Journal tracker (07) -/

inductive JournalState where
  | notAdopted | adopted | doubtful | inconsistent
  deriving DecidableEq, Repr

inductive SectorState where
  | unseen | erased | head | full | erasing | unknown
  deriving DecidableEq, Repr

/-- An entry of the journal sector table (R130). Its live count is computed (R131). -/
structure Sector where
  state : SectorState
  count : Nat
  deriving DecidableEq, Repr

/-- The contents of a valid record (10.2); marker and check follow from them. -/
structure Record where
  str  : Byte
  disp : Byte
  mask : Byte
  seq  : Half
  deriving DecidableEq, Repr

/-- A slot summary (R129). RECORD keeps the whole record, since R151 compares byte for byte (log 13). -/
inductive Summary where
  | unseen | erased | record (r : Record) | corrupt | doubtful
  deriving DecidableEq, Repr

/-- The pending program commit (R141, R154). `first` is the first slot of a journal range. -/
structure ProgCommit where
  kind    : RegionKind
  addr    : Nat
  first   : Nat
  records : List Record
  expiry  : Nat
  deriving DecidableEq, Repr

/-- The erase timer: running to an instant, or paused with its remaining time (R148). -/
inductive EraseTimer where
  | running (expiry : Nat) | paused (remaining : Nat)
  deriving DecidableEq, Repr

/-- The pending erase commit (R148, R153, R154). `sector` is the journal sector of a journal erase. -/
structure EraseCommit where
  kind     : RegionKind
  base     : Nat
  size     : Nat
  sector   : Option Nat
  recovery : Bool
  timer    : EraseTimer
  deriving DecidableEq, Repr

inductive CommitKind where
  | program | erase
  deriving DecidableEq, Repr

inductive CommitResult where
  | none | confirmed | commitFailed | commitTimeout | unresolved | resolved
  deriving DecidableEq, Repr

/-- The last commit outcome (R155). -/
structure CommitOutcome where
  kind   : CommitKind
  result : CommitResult
  addr   : Nat
  deriving DecidableEq, Repr

/-- The doubtful slots: the first slot of the range and the expected records (R145). -/
structure Doubt where
  first   : Nat
  records : List Record
  deriving DecidableEq, Repr

/-- The journal tracker. The tail is computed (R133), but while the journal is INCONSISTENT `heldTail` keeps the value it had at the event
that made it so (R152). -/
structure Journal where
  state       : JournalState
  everAdopted : Bool
  sectors     : List Sector
  slots       : List Summary
  head        : Nat
  heldTail    : Option Nat
  nextSeq     : Half
  prog        : Option ProgCommit
  erase       : Option EraseCommit
  doubt       : Option Doubt
  outcome     : CommitOutcome
  deriving DecidableEq, Repr

/-- R156, R130, R155. It names no range of doubtful slots and no tail held from an INCONSISTENT journal: that none stands is the model's
choice (log 40). -/
def Journal.reset : Journal where
  state := .notAdopted
  everAdopted := false
  sectors := List.replicate 8 ⟨.unseen, 0⟩
  slots := List.replicate 4096 .unseen
  head := 0
  heldTail := none
  nextSeq := 0
  prog := none
  erase := none
  doubt := none
  outcome := ⟨.program, .none, 0⟩

/-! ## Status window unit and pins (08) -/

/-- A record latch with its mark (R158): index 0 is the box record, s + 1 the record of string s. -/
structure Latch where
  filled : Bool
  bytes  : List Byte
  deriving DecidableEq, Repr

/-- ATTN (true while driven low, R166) and BTRIP (true while asserted, R80). -/
structure Pins where
  attnLow : Bool
  btrip   : Bool
  deriving DecidableEq, Repr

/-- The whole machine. -/
structure State where
  now     : Nat
  inReset : Bool
  cfg     : Config
  cfgBase : Nat
  ports   : Ports
  txn     : Option Txn
  mirror  : Mirror
  capture : Capture
  journal : Journal
  table   : Vector Entry 24
  evid    : Vector Evidence 24
  inputs  : Inputs
  meas    : Vector Meas 24
  scan    : Scan
  iso     : Iso
  search  : Search
  seqs    : Vector Seq 24
  lines   : Vector Bool 24
  arb     : Arb
  window  : Vector Latch 25
  pins    : Pins
  free    : Nat
  pending : List Instr
  deriving DecidableEq, Repr

/-- The part held in reset after power-on, no input asserted and every feedback line open (R167; DESIGN CHOICE for the
pins, log 6): every block at its reset value. RESET_RELEASE ends the reset. -/
def State.reset : State where
  now := 0
  inReset := true
  cfg := Config.builtin
  cfgBase := 0
  ports := Ports.reset
  txn := none
  mirror := Mirror.reset
  capture := Capture.reset
  journal := Journal.reset
  table := Vector.replicate 24 Entry.reset
  evid := Vector.replicate 24 Evidence.reset
  inputs := ⟨false, false, none, false, false, none, []⟩
  meas := Vector.replicate 24 Meas.invalid
  scan := Scan.reset
  iso := Iso.reset
  search := Search.reset
  seqs := Vector.replicate 24 Seq.reset
  lines := Vector.replicate 24 false
  arb := Arb.reset
  window := Vector.replicate 25 ⟨false, []⟩
  pins := ⟨false, false⟩
  free := 0
  pending := []

end Sys2Proof.Machine
end

