-- ==== Sys2Proof/Machine/Ops.lean ====
section
/-! DEFINITION. The shared operations over the state: time, presence, the per-string tables, cause sets, and the lists that hold
slots, marks and images. Every block reads and writes State through these. -/

namespace Sys2Proof.Machine

/-! ## Tables of 24 strings, and lists -/

/-- Every entry of a table, rewritten from its string number and itself. -/
def mapAll {α : Type} (f : Str → α → α) (v : Vector α 24) : Vector α 24 := Vector.ofFn fun i => f i v[i]

/-- `n` entries from index `lo` on take the value `x`. -/
def setRange {α : Type} (lo n : Nat) (x : α) : List α → List α
  | [] => []
  | y :: ys =>
    match lo, n with
    | _, 0 => y :: ys
    | 0, n + 1 => x :: setRange 0 n x ys
    | lo + 1, n => y :: setRange lo n x ys

/-- Consecutive entries from index `lo` on take the values `xs`. -/
def setMany {α : Type} (lo : Nat) (xs : List α) : List α → List α
  | [] => []
  | y :: ys =>
    match lo, xs with
    | _, [] => y :: ys
    | 0, x :: xs => x :: setMany 0 xs ys
    | lo + 1, xs => y :: setMany lo xs ys

/-- All entries, if none is missing. -/
def allSome {α : Type} : List (Option α) → Option (List α)
  | [] => some []
  | none :: _ => none
  | some x :: rest => (allSome rest).map (x :: ·)

/-- 0, 1, …, n − 1. -/
def upTo (n : Nat) : List Nat := List.range n

/-- Has the instant of a running timer been reached? A stopped timer never expires. -/
def due (timer : Option Nat) (now : Nat) : Bool :=
  match timer with
  | some t => decide (t ≤ now)
  | none => false

/-! ## Time and presence -/

/-- `dt` microseconds pass (log 1). -/
def State.advance (s : State) (dt : Nat) : State := { s with now := s.now + dt }

/-- R1: an entry is present when its number is below the active string count. -/
def isPresent (s : State) (i : Str) : Bool := decide (i.val < s.cfg.stringCount)

def presentStrings (s : State) : List Str := allStrings.filter (isPresent s)

/-- The string a record's string field names, whether present or not (10.2: 24 and above name none). -/
def strOfByte (b : Byte) : Option Str := if h : b.toNat < 24 then some ⟨b.toNat, h⟩ else none

/-- The present string a record's string field names. -/
def presentOfByte (s : State) (b : Byte) : Option Str := (strOfByte b).filter (isPresent s)

/-! ## Cause sets (10.2) -/

def Cause.bit : Cause → CauseSet
  | .reverse => 0x01
  | .overcurrent => 0x02
  | .deviation => 0x04
  | .probation => 0x08
  | .ground => 0x10
  | .held => 0x20
  | .weld => 0x40

/-- LOCKOUT_CLEAR of a release mask (R38). -/
def lockoutClear : Byte := 0x80

def CauseSet.has (cs : CauseSet) (c : Cause) : Bool := cs &&& c.bit != 0

def CauseSet.add (cs : CauseSet) (c : Cause) : CauseSet := cs ||| c.bit

def CauseSet.remove (cs : CauseSet) (c : Cause) : CauseSet := cs &&& ~~~c.bit

/-- The set with cause `c` in it exactly if `b`. -/
def CauseSet.put (cs : CauseSet) (c : Cause) (b : Bool) : CauseSet := if b then CauseSet.add cs c else CauseSet.remove cs c

/-- A latch (R39, R40): the cause is latched and no longer noted. -/
def Evidence.latch (e : Evidence) (c : Cause) : Evidence :=
  { e with latched := CauseSet.add e.latched c, noted := CauseSet.remove e.noted c }

/-- A latch of HELD sets its origin (R50). -/
def Evidence.latchHeld (e : Evidence) (o : Origin) : Evidence :=
  { e.latch .held with heldOrigin := some o }

/-- The release mask of a confirmed record (R53): each released cause that is latched and not present clears. -/
def Evidence.release (e : Evidence) (mask : Byte) : Evidence :=
  let gone := e.latched &&& mask &&& ~~~e.present &&& 0x7F
  { e with
    latched := e.latched &&& ~~~gone
    heldOrigin := if CauseSet.has gone .held then none else e.heldOrigin }

/-! ## One entry of a table -/

def State.setEntry (s : State) (i : Str) (e : Entry) : State := { s with table := s.table.set i e }

def State.setEvid (s : State) (i : Str) (e : Evidence) : State := { s with evid := s.evid.set i e }

def State.setSeq (s : State) (i : Str) (q : Seq) : State := { s with seqs := s.seqs.set i q }

/-- A string's latched set gains a cause (R49, R51). -/
def State.latch (s : State) (i : Str) (c : Cause) : State := s.setEvid i (s.evid[i].latch c)

/-- A string's latched set gains HELD (R50). -/
def State.latchHeld (s : State) (i : Str) (o : Origin) : State := s.setEvid i (s.evid[i].latchHeld o)

/-- A report of a bypass or a coil pulse to the insulation monitor disturbs the measurement that runs (R34, R76). -/
def State.disturb (s : State) : State :=
  { s with iso := { s.iso with job := s.iso.job.map fun j => { j with disturbed := true } } }

/-- A string's actuation starts, changes phase or ends, and the change is reported (R76). -/
def State.actuate (s : State) (i : Str) (q : Seq) : State := (s.setSeq i q).disturb

/-! ## Free values -/

/-- A use of a free value takes the next one (log 7, log 12). -/
def State.spendFree (s : State) (n : Nat) : State := { s with free := s.free + n }

/-! ## Lines driven (4.2) -/

/-- The bypass of a string is on as long as its actuation stands. -/
def Seq.bypassOn (q : Seq) : Bool := q.act.isSome

/-- The coil of a string that is being pulsed. -/
def Seq.coilOn (q : Seq) : Option Coil := q.act.bind fun a => if a.phase = .pulse then some a.coil else none

/-- A bypass is on or a pulse runs on some string (R34). -/
def anyDrive (s : State) : Bool := allStrings.any fun i => s.seqs[i].act.isSome

end Sys2Proof.Machine
end

