-- ==== Sys2Proof/Machine/Operands.lean ====
section
/-! DEFINITION. The forms of the operands: conversions (R24 to R26), the check word (R180), journal records and slots (R128, 10.2),
and the configuration block with its checks (R172, R181 to R183). Multi-byte fields are big-endian. -/

namespace Sys2Proof.Machine

/-! ## Conversions -/

/-- The current of a conversion code in mA (R24, R25): full scale gives ±32767; other codes c × I_fs / 2048 rounded toward zero. -/
def currentOf (iFs : Nat) (c : Int) : Int :=
  if 2048 ≤ c then 32767 else if c ≤ -2048 then -32767 else Int.tdiv (c * iFs) 2048

/-- A full-scale reading saturates (R25). -/
def saturatedOf (c : Int) : Bool := decide (2048 ≤ c) || decide (c ≤ -2048)

/-- The voltage of a conversion code in 0.1 V (R26): code 4095 gives V_fs, any other k × V_fs / 4096 rounded down. -/
def voltageOf (vFs : Nat) (k : Int) : Nat := if 4095 ≤ k then vFs else k.toNat * vFs / 4096

/-! ## Bytes -/

def hi (w : Half) : Byte := (w >>> 8).setWidth 8

def lo (w : Half) : Byte := w.setWidth 8

/-- Two bytes, the more significant first. -/
def be16 (n : Nat) : List Byte := [hi (BitVec.ofNat 16 n), lo (BitVec.ofNat 16 n)]

/-- Three bytes, the most significant first. -/
def be24 (n : Nat) : List Byte := [BitVec.ofNat 8 (n / 65536), BitVec.ofNat 8 (n / 256), BitVec.ofNat 8 n]

/-- The number that bytes spell big-endian. -/
def beNat (bs : List Byte) : Nat := bs.foldl (fun n b => n * 256 + b.toNat) 0

def halfOf (a b : Byte) : Half := BitVec.ofNat 16 (a.toNat * 256 + b.toNat)

/-- Byte `k` of a block; a block is always long enough where this is used. -/
def byteAt (bs : List Byte) (k : Nat) : Byte := bs.getD k 0

/-! ## The check word (R180) -/

/-- One bit into the register. -/
def crcBit (r : Half) (bit : Bool) : Half :=
  if xor bit r.msb then (r <<< 1) ^^^ 0x8005 else r <<< 1

/-- One byte, from bit 7 down to bit 0. -/
def crcByte (r : Half) (b : Byte) : Half :=
  [7, 6, 5, 4, 3, 2, 1, 0].foldl (fun r k => crcBit r (b.getLsbD k)) r

/-- The CRC-16 of a run of bytes. -/
def crc16 (bs : List Byte) : Half := bs.foldl crcByte 0xFFFF

/-! ## Journal records and slots -/

/-- The disposition codes of 10.2. -/
def Disposition.ofByte (b : Byte) : Option Disposition :=
  if b = 0x01 then some .connect else if b = 0x02 then some .isolate else if b = 0x03 then some .lockout else none

def Disposition.code : Disposition → Byte
  | .none => 0x00
  | .connect => 0x01
  | .isolate => 0x02
  | .lockout => 0x03

/-- Bytes 0..5 of a record. -/
def Record.body (r : Record) : List Byte := [0xA5, r.str, r.disp, r.mask, hi r.seq, lo r.seq]

/-- The eight bytes of a record. -/
def Record.bytes (r : Record) : List Byte := r.body ++ [hi (crc16 r.body), lo (crc16 r.body)]

/-- The fields of eight bytes read as a record, whatever its marker and check. -/
def recordFields (bs : List Byte) : Record :=
  ⟨byteAt bs 1, byteAt bs 2, byteAt bs 3, halfOf (byteAt bs 4) (byteAt bs 5)⟩

/-- The check of eight bytes is correct over the first six (R180). -/
def checkOk (bs : List Byte) : Bool := decide (halfOf (byteAt bs 6) (byteAt bs 7) = crc16 (bs.take 6))

/-- A slot judged by its eight bytes alone (R128): ERASED, RECORD or CORRUPT. -/
def judgeSlot (bs : List Byte) : Summary :=
  if bs.all (· == 0xFF) then .erased
  else if byteAt bs 0 == 0xA5 && checkOk bs then .record (recordFields bs)
  else .corrupt

/-- R129: a slot is occupied when its summary is RECORD, CORRUPT or DOUBTFUL. -/
def Summary.occupied : Summary → Bool
  | .record _ => true
  | .corrupt => true
  | .doubtful => true
  | .unseen => false
  | .erased => false

/-! ## The configuration block -/

def CmdClass.ofCode (n : Nat) : Option CmdClass :=
  match n with
  | 0 => some .none
  | 1 => some .read
  | 2 => some .readFast
  | 3 => some .status
  | 4 => some .wren
  | 5 => some .wrdi
  | 6 => some .program
  | 7 => some .erase4k
  | 8 => some .erase64k
  | 9 => some .eraseAll
  | 10 => some .suspend
  | 11 => some .resume
  | 12 => some .pass
  | 13 => some .block
  | _ => none

/-- The class codes of 10.3. -/
def CmdClass.code : CmdClass → Byte
  | .none => 0x00
  | .read => 0x01
  | .readFast => 0x02
  | .status => 0x03
  | .wren => 0x04
  | .wrdi => 0x05
  | .program => 0x06
  | .erase4k => 0x07
  | .erase64k => 0x08
  | .eraseAll => 0x09
  | .suspend => 0x0A
  | .resume => 0x0B
  | .pass => 0x0C
  | .block => 0x0D

/-- The kind codes a region map entry may carry (R182): 0x04 and above are out of range. -/
def RegionKind.ofCode (n : Nat) : Option RegionKind :=
  match n with
  | 0 => some .pass
  | 1 => some .journal
  | 2 => some .window
  | 3 => some .guarded
  | _ => none

/-- The region kind codes of 10.3. -/
def RegionKind.code : RegionKind → Byte
  | .pass => 0x00
  | .journal => 0x01
  | .window => 0x02
  | .guarded => 0x03
  | .config => 0x04

/-- One field of 10.3: its offset, its size in bytes, and its stored range. -/
structure Field where
  offset : Nat
  size   : Nat
  least  : Nat
  most   : Nat
  deriving DecidableEq, Repr

/-- The stored value of a field. -/
def fieldOf (bs : List Byte) (offset size : Nat) : Nat := beNat ((upTo size).map fun k => byteAt bs (offset + k))

/-- Every field of 10.3 that has a stored range (R181). -/
def rangedFields : List Field :=
  [⟨3, 1, 1, 24⟩, ⟨4, 1, 0, 4⟩, ⟨5, 1, 0, 7⟩, ⟨6, 1, 0, 7⟩, ⟨7, 1, 0, 7⟩, ⟨8, 1, 0, 7⟩,
   ⟨96, 1, 2, 50⟩, ⟨97, 1, 4, 32⟩, ⟨98, 1, 10, 150⟩, ⟨99, 1, 5, 100⟩, ⟨100, 2, 100, 20000⟩, ⟨102, 1, 1, 255⟩,
   ⟨103, 2, 1000, 32000⟩, ⟨105, 1, 1, 255⟩, ⟨106, 2, 100, 20000⟩, ⟨108, 1, 1, 255⟩, ⟨109, 2, 1, 65535⟩, ⟨111, 1, 1, 255⟩,
   ⟨114, 1, 1, 20⟩, ⟨115, 1, 5, 60⟩, ⟨116, 1, 10, 200⟩, ⟨117, 1, 0, 100⟩, ⟨118, 2, 10, 1000⟩, ⟨120, 2, 10, 3000⟩,
   ⟨122, 1, 1, 255⟩, ⟨123, 1, 0, 255⟩, ⟨124, 1, 1, 4⟩,
   ⟨128, 2, 1, 65533⟩, ⟨130, 2, 2, 65534⟩, ⟨132, 1, 1, 255⟩, ⟨133, 1, 1, 100⟩, ⟨134, 1, 1, 255⟩, ⟨135, 1, 1, 255⟩,
   ⟨136, 1, 1, 255⟩, ⟨137, 2, 10, 5000⟩]

def Field.ok (bs : List Byte) (f : Field) : Bool :=
  decide (f.least ≤ fieldOf bs f.offset f.size) && decide (fieldOf bs f.offset f.size ≤ f.most)

/-- Command table entry `e` of a block (R182): none if its class or dummy count is out of range. -/
def commandAt (bs : List Byte) (e : Nat) : Option CmdEntry :=
  match CmdClass.ofCode (fieldOf bs (17 + 3 * e) 1) with
  | none => none
  | some .none => some ⟨byteAt bs (16 + 3 * e), .none, 0⟩
  | some c =>
    if fieldOf bs (18 + 3 * e) 1 ≤ 4 then some ⟨byteAt bs (16 + 3 * e), c, fieldOf bs (18 + 3 * e) 1⟩ else none

/-- Region map entry `r` of a block (R182): none if its kind or base sector is out of range. -/
def regionAt (bs : List Byte) (r : Nat) : Option Region :=
  match RegionKind.ofCode (fieldOf bs (64 + 4 * r) 1) with
  | none => none
  | some .pass => some ⟨.pass, 0, 0⟩
  | some k =>
    if fieldOf bs (65 + 4 * r) 2 ≤ 4095 then some ⟨k, fieldOf bs (65 + 4 * r) 2, fieldOf bs (67 + 4 * r) 1⟩ else none

/-- The used entries of the region map. -/
def blockRegions (bs : List Byte) : List Region :=
  (upTo 7).filterMap fun r => (regionAt bs r).filter fun x => x.kind != .pass

/-- The command table of a block. -/
def blockCommands (bs : List Byte) : List CmdEntry := (upTo 16).filterMap (commandAt bs)

/-- The configured memory size in bytes (10.3). -/
def blockMemSize (bs : List Byte) : Nat := 1048576 * 2 ^ fieldOf bs 4 1

/-- Do two runs of sectors share one? -/
def overlap (b₁ n₁ b₂ n₂ : Nat) : Bool := decide (b₁ < b₂ + n₂) && decide (b₂ < b₁ + n₁)

/-- No region of the list overlaps a later one. -/
def noOverlap : List Region → Bool
  | [] => true
  | r :: rest => (rest.all fun q => !overlap r.base r.count q.base q.count) && noOverlap rest

/-- No code stands twice in the list. -/
def codesUnique : List Byte → Bool
  | [] => true
  | c :: rest => !rest.contains c && codesUnique rest

/-- The checks of R172 in their order. `cfgSector` is the CONFIG sector the straps fix. -/
def blockChecks (cfgSector : Nat) (bs : List Byte) : List Bool :=
  let used := (blockCommands bs).filter fun e => e.cls != .none
  let regions := blockRegions bs
  let ofKind := fun k => regions.filter fun r => r.kind == k
  [ -- 1, 2: format tag and version
    byteAt bs 0 == 0xB2 && byteAt bs 1 == 0x44,
    byteAt bs 2 == 1,
    -- 3: check word
    decide (halfOf (byteAt bs 254) (byteAt bs 255) = crc16 (bs.take 254)),
    -- 4: ranges and pairs (R181, R182)
    rangedFields.all (Field.ok bs) && ((upTo 16).all fun e => (commandAt bs e).isSome)
      && ((upTo 7).all fun r => (regionAt bs r).isSome)
      && decide (fieldOf bs 115 1 < fieldOf bs 116 1) && decide (fieldOf bs 128 2 < fieldOf bs 130 2),
    -- 5: repeated codes
    codesUnique (used.map (·.code)),
    -- 6: distinct status bits
    codesUnique [byteAt bs 5, byteAt bs 6, byteAt bs 7, byteAt bs 8],
    -- 7: counts of the region map
    decide ((ofKind .journal).length = 1) && ((ofKind .journal).all fun r => decide (2 ≤ r.count) && decide (r.count ≤ 8))
      && decide ((ofKind .window).length = 1) && ((ofKind .window).all fun r => r.count == 1)
      && decide ((ofKind .guarded).length ≤ 5) && ((ofKind .guarded).all fun r => decide (1 ≤ r.count)),
    -- 8: overlaps and the memory size
    noOverlap (⟨.config, cfgSector, 1⟩ :: regions)
      && ((⟨.config, cfgSector, 1⟩ :: regions).all fun r => decide ((r.base + r.count) * 4096 ≤ blockMemSize bs)) ]

def blockOk (cfgSector : Nat) (bs : List Byte) : Bool := (blockChecks cfgSector bs).all id

/-- The configuration that a block holds (10.3), each field scaled to its unit. -/
def parseBlock (bs : List Byte) : Config :=
  let f := fieldOf bs
  let enables := byteAt bs 112
  let options := byteAt bs 113
  { stringCount := f 3 1
    memSize := blockMemSize bs
    busyBit := f 5 1
    welBit := f 6 1
    suspBit := f 7 1
    errBit := f 8 1
    commands := blockCommands bs
    regions := blockRegions bs
    tScan := 10 * f 96 1
    iFs := 1000 * f 97 1
    vFs := 100 * f 98 1
    tIso := 100 * f 99 1
    iRev := f 100 2
    cRev := f 102 1
    iMax := f 103 2
    cOvc := f 105 1
    iDevMin := f 106 2
    devFrac := f 108 1
    devWindow := f 109 2
    nDev := f 111 1
    enRev := enables.getLsbD 0
    enOvc := enables.getLsbD 1
    enDev := enables.getLsbD 2
    enPrb := enables.getLsbD 3
    enSrch := options.getLsbD 0
    optSweep := options.getLsbD 1
    optBtrip := options.getLsbD 2
    optSdl := options.getLsbD 3
    tSettle := f 114 1
    tPulse := f 115 1
    tTravel := f 116 1
    tRch := f 117 1
    iZero := f 118 2
    vMatch := f 120 2
    qualCount := f 122 1
    probation := f 123 1
    grants := f 124 1
    rMin := f 128 2
    rOk := f 130 2
    cIso := f 132 1
    tSs := 100 * f 133 1
    tStmo := f 134 1
    tRearm := f 135 1
    tPc := f 136 1
    tEc := f 137 2 }

end Sys2Proof.Machine
end

