-- ==== Sys2Proof/Machine/Sequencer.lean ====
section
/-! DEFINITION. The disconnect sequencers (04): the found state, target changes, the two sequences, failure, the scan work, and the
endings of R81. A change of a bypass or a pulse goes through `State.actuate`, which reports it (R76). -/

namespace Sys2Proof.Machine

/-- The state in which a string waits for a grant of a kind. -/
def Coil.queuedState : Coil → SwitchState
  | .open_ => .openQueued
  | .close_ => .closeQueued

/-- The state in which a sequence of a kind runs. -/
def Coil.runState : Coil → SwitchState
  | .open_ => .opening
  | .close_ => .closing

/-- The line level (true for closed) that shows the position a coil drives to. -/
def Coil.goal : Coil → Bool
  | .open_ => false
  | .close_ => true

/-- A change of switch state; the feedback mismatch count returns to 0 (R74). -/
def Seq.enter (q : Seq) (x : SwitchState) : Seq := { q with state := x, mismatch := 0 }

/-- The grant of a sequence whose last pulse has ended is returned `tRch` after that end, or at once if that time has
passed (R73, R77). -/
def rechargeGrant (now pulseEndedAt tRch : Nat) : Grant :=
  if pulseEndedAt + tRch ≤ now then .none else .recharging (pulseEndedAt + tRch)

/-- A grant still held is left to its recharge; one that recharges or has been returned stays so. -/
def Seq.recharge (q : Seq) (now tRch : Nat) : Grant :=
  match q.grant with
  | .held => rechargeGrant now q.pulseEndedAt tRch
  | .recharging t => .recharging t
  | .none => .none

/-- The bypass goes off and the grant is left to its recharge. -/
def Seq.endAct (q : Seq) (now : Nat) : Seq :=
  match q.act with
  | none => q
  | some a => { q with act := none, bypassOffAt := now, grant := q.recharge now a.tRch }

/-- The bypass goes off before any pulse, and the grant is returned at once (R62, R77, R81). -/
def Seq.cancelSettle (q : Seq) (now : Nat) : Seq := { q with act := none, bypassOffAt := now, grant := .none }

/-! ## Targets (R62) -/

/-- What a sequencer at rest does about the target that stands (R61, R62, R66, R70, R75). A sequence past its settle takes
the target at its end. -/
def Seq.takeTarget (q : Seq) (t : Target) (now : Nat) : Seq :=
  match q.state, t with
  | .opened, .connected => { q.enter .qualify with qual := 0 }
  | .qualify, .isolated => { q.enter .opened with qual := 0 }
  | .closeQueued, .isolated => q.enter .opened
  | .closing, .isolated =>
    match q.act with
    | some a => if a.phase = .settle then (q.cancelSettle now).enter .opened else q
    | none => q
  | .closed, .isolated => q.enter .openQueued
  | .openQueued, .connected => q.enter .closed
  | _, _ => q

/-- Did the bypass of a sequencer go off between two of its values? -/
def bypassDropped (q₀ q₁ : Seq) : Bool := q₀.act.isSome && q₁.act.isNone

/-- Every present string's sequencer takes its target; a settle cut short reports its bypass off (R76). -/
def reconcile (s : State) : State :=
  let seqs := mapAll (fun i q => if isPresent s i then q.takeTarget s.table[i].target s.now else q) s.seqs
  let s' := { s with seqs := seqs }
  if allStrings.any fun i => bypassDropped s.seqs[i] seqs[i] then s'.disturb else s'

/-! ## Sequences -/

/-- The start of a sequence at a grant (R64, R69, R82). -/
def Seq.start (q : Seq) (c : Coil) (cfg : Config) (now : Nat) : Seq :=
  { q.enter c.runState with
    act := some ⟨c, .settle, false, now + ms cfg.tSettle, 0, ms cfg.tPulse, ms cfg.tTravel, ms cfg.tRch⟩
    retry := false
    grant := .held }

/-- The start of a coil pulse and of its travel window (R64, R69, R72). -/
def Act.startPulse (a : Act) (line : Bool) (now : Nat) : Act :=
  { a with phase := .pulse, seen := line == a.coil.goal, until_ := now + a.tPulse, travelEnd := now + a.tTravel }

/-- A sequence's travel has succeeded and its bypass goes off: a close ends in CLOSED on probation (R65), an open goes on
to its zero check (R69). -/
def Seq.finishTravel (q : Seq) (c : Coil) (cfg : Config) (now : Nat) : Seq :=
  match c with
  | .close_ => { (q.endAct now).enter .closed with probation := cfg.probation }
  | .open_ => q.endAct now

/-- A drive carried to its end on a string without a sequence (R81): it ends and nothing follows. -/
def Seq.endWind (q : Seq) (now : Nat) : Seq := { q with act := none, bypassOffAt := now }

/-- An actuation on a string that holds no switch state is a drive carried to its end (R81, R83). -/
def Seq.winding (q : Seq) : Bool := q.state == .unfound && q.act.isSome

/-- The pulse that ends is known to be the last of its sequence: a close's, the second of an open, or one that is carried to its
end (R77, R81). The first pulse of an open is the last only if its travel succeeds (R72; log 9). -/
def Seq.lastPulse (q : Seq) (a : Act) : Bool := q.winding || a.coil == .close_ || q.retry

/-- The travel of a pulse has succeeded, in a sequence or in a drive carried to its end. -/
def Seq.travelled (q : Seq) (c : Coil) (cfg : Config) (now : Nat) : Seq :=
  if q.winding then q.endWind now else q.finishTravel c cfg now

/-- R67: a failed close. -/
def failClose (s : State) (i : Str) : State :=
  ((s.actuate i ((s.seqs[i].endAct s.now).enter .opened)).latchHeld i .other)

/-- R73: a switch becomes FAILED. The line decides the WELD present flag (R51); probation and qualification are not kept
(log 18). -/
def failSwitch (s : State) (i : Str) : State :=
  let q := s.seqs[i]
  let q' := { (q.endAct s.now).enter .failed with probation := 0, qual := 0 }
  let s' := if q.act.isSome then s.actuate i q' else s.setSeq i q'
  let e := s'.evid[i].latch .weld
  s'.setEvid i { e with present := CauseSet.put e.present .weld s.lines[i] }

/-- R75: a cleared WELD takes a FAILED switch to the position its line shows. -/
def weldCleared (s : State) (i : Str) : State :=
  let q := s.seqs[i]
  if q.state = .failed then
    s.setSeq i (if s.lines[i] then { q.enter .closed with probation := s.cfg.probation } else q.enter .opened)
  else s

/-! ## Leaving presence (R81) -/

/-- The sequencer of a string that leaves presence. -/
def Seq.leave (q : Seq) (now : Nat) : Seq :=
  match q.act with
  | none => q.enter .unfound
  | some a =>
    match a.phase with
    | .settle => (q.cancelSettle now).enter .unfound
    | .retryWait => (q.endAct now).enter .unfound
    | .pulse => q.enter .unfound
    | .travel => { q.enter .unfound with grant := q.recharge now a.tRch }

/-! ## Scan work -/

/-- What one scan completion gives a sequencer: its sample, the two voltages, the current, and the scan's start. -/
structure ScanView where
  closed    : Bool
  current   : Int
  saturated : Bool
  voltage   : Nat
  bus       : Nat
  scanStart : Nat
  deriving DecidableEq, Repr

/-- What a sequencer's scan work reports besides its own new value. -/
inductive ScanReport where
  | none | heldFoundOpen | heldOther | failed
  deriving DecidableEq, Repr

/-- R63: |v_s − v_b| ≤ V_match. -/
def voltageMatch (vMatch vs vb : Nat) : Bool := decide (vs - vb ≤ vMatch) && decide (vb - vs ≤ vMatch)

/-- R63: one completion in QUALIFY. -/
def Seq.qualifyStep (q : Seq) (cfg : Config) (v : ScanView) : Seq :=
  if voltageMatch cfg.vMatch v.voltage v.bus then
    let n := min 255 (q.qual + 1)
    if cfg.qualCount ≤ n then { q.enter .closeQueued with qual := n } else { q with qual := n }
  else { q with qual := 0 }

/-- R74: the mismatch count after a sample in a state that expects `expected`. -/
def Seq.countMismatch (q : Seq) (expected : Bool) (v : ScanView) : Seq :=
  { q with mismatch := if v.closed = expected then 0 else q.mismatch + 1 }

/-- A sequencer's own work at a scan completion: found state (R61), qualification (R63), probation (R68), zero check (R70) and
feedback check (R74). A second mismatch in QUALIFY counts for the qualification and goes before the request that it would bring
(log 10). -/
def Seq.scanStep (q : Seq) (cfg : Config) (v : ScanView) : Seq × ScanReport :=
  match q.state with
  | .unfound =>
    if v.closed then
      ({ q with state := .closed, probation := 0, qual := 0, mismatch := 0, retry := false }, .none)
    else ({ q with state := .opened, probation := 0, qual := 0, mismatch := 0, retry := false }, .heldFoundOpen)
  | .opened =>
    let q' := q.countMismatch false v
    if 2 ≤ q'.mismatch then (q.enter .openQueued, .heldOther) else (q', .none)
  | .qualify =>
    let q' := q.countMismatch false v
    let r := q'.qualifyStep cfg v
    if 2 ≤ q'.mismatch then (r.enter .openQueued, .heldOther) else (r, .none)
  | .closeQueued =>
    let q' := q.countMismatch false v
    if 2 ≤ q'.mismatch then (q.enter .openQueued, .heldOther) else (q', .none)
  | .closed =>
    let q' := { q.countMismatch true v with probation := q.probation - 1 }
    if 2 ≤ q'.mismatch then (q'.enter .opened, .heldOther) else (q', .none)
  | .openQueued =>
    let q' := q.countMismatch true v
    if 2 ≤ q'.mismatch then (q.enter .opened, .none) else (q', .none)
  | .opening =>
    if q.act.isNone && decide (q.bypassOffAt < v.scanStart) then
      if decide (v.current.natAbs < cfg.iZero) && !v.saturated then
        ({ q.enter .opened with mismatch := if v.closed then 1 else 0 }, .none)
      else (q, .failed)
    else (q, .none)
  | .closing => (q, .none)
  | .failed => (q, .none)

end Sys2Proof.Machine
end

