-- ==== Sys2Proof/Machine/Journal.lean ====
section
/-! DEFINITION. The journal tracker (07): the ring and its sector table, head, tail and reserve, the pending commits and their ends,
adoption (R177 to R179), and the event that makes the journal INCONSISTENT. -/

namespace Sys2Proof.Machine

/-! ## The ring (R128 to R134) -/

/-- The JOURNAL entry of a region map. -/
def journalRegion (cfg : Config) : Option Region := cfg.regions.find? fun r => r.kind == .journal

/-- S, the number of sectors of the ring; 0 before a configuration is adopted. -/
def ringSectors (s : State) : Nat := ((journalRegion s.cfg).map (·.count)).getD 0

/-- The address of slot 0. -/
def ringBase (s : State) : Nat := ((journalRegion s.cfg).map fun r => r.base * 4096).getD 0

def ringSlots (s : State) : Nat := ringSectors s * 512

/-- The address of slot `k`. -/
def slotAddr (s : State) (k : Nat) : Nat := ringBase s + 8 * k

def sectorAt (s : State) (j : Nat) : Sector := s.journal.sectors.getD j ⟨.unseen, 0⟩

def slotAt (s : State) (k : Nat) : Summary := s.journal.slots.getD k .unseen

def State.setJournal (s : State) (j : Journal) : State := { s with journal := j }

def State.setSector (s : State) (j : Nat) (x : Sector) : State :=
  s.setJournal { s.journal with sectors := s.journal.sectors.set j x }

/-- Consecutive slot summaries take the values `xs`. -/
def State.setSlots (s : State) (first : Nat) (xs : List Summary) : State :=
  s.setJournal { s.journal with slots := setMany first xs s.journal.slots }

/-- All slot summaries of a sector take one value. -/
def State.fillSector (s : State) (j : Nat) (x : Summary) : State :=
  s.setJournal { s.journal with slots := setRange (512 * j) 512 x s.journal.slots }

/-- The sector that holds the head slot. -/
def headSector (s : State) : Nat := s.journal.head / 512

/-- Is that sector HEAD? While it is not, no sector is (R132). -/
def headOpen (s : State) : Bool := (sectorAt s (headSector s)).state == .head

/-- The tail of the sector table (R133): from the sector after the HEAD sector, or from the sector that holds the head while none is
HEAD, the first in ring order that is not ERASED. -/
def findTail (s : State) : Nat :=
  let n := ringSectors s
  let from_ := if headOpen s then headSector s + 1 else headSector s
  ((upTo n).map fun d => (from_ + d) % n).find? (fun j => (sectorAt s j).state != .erased) |>.getD (headSector s)

/-- The tail (R133); while the journal is INCONSISTENT, as it was held at the event that made it so (R152). -/
def tailSector (s : State) : Nat := s.journal.heldTail.getD (findTail s)

/-- The number of ERASED sectors. -/
def erasedSectors (s : State) : Nat := ((upTo (ringSectors s)).filter fun j => (sectorAt s j).state == .erased).length

/-- The reserve (R140). -/
def reserve (s : State) : Nat := (if headOpen s then 512 - s.journal.head % 512 else 0) + 512 * erasedSectors s

/-- The strings whose live slot lies in a sector. -/
def liveStrings (s : State) (j : Nat) : List Str :=
  (presentStrings s).filter fun i => (s.table[i].liveSlot.map (· / 512)) == some j

/-- The live count of a sector (R131). -/
def liveCount (s : State) (j : Nat) : Nat := (liveStrings s j).length

/-- A sector that has become ERASED and holds the head slot becomes HEAD at the same event (R132). -/
def State.openHead (s : State) : State :=
  let j := headSector s
  if (sectorAt s j).state == .erased && decide (j < ringSectors s) then s.setSector j { sectorAt s j with state := .head } else s

/-! ## Applying confirmed records (R14, R53, R142) -/

/-- One confirmed record: live slot, disposition, damaged mark, release mask, and a cleared WELD. -/
def applyRecord (s : State) (slot : Nat) (r : Record) : State :=
  match strOfByte r.str with
  | none => s
  | some i =>
    let s₁ := s.setEntry i { s.table[i] with
      liveSlot := some slot, recorded := (Disposition.ofByte r.disp).getD .none, damaged := false }
    let s₂ := s₁.setEvid i (s.evid[i].release r.mask)
    if CauseSet.has s.evid[i].latched .weld && !CauseSet.has s₂.evid[i].latched .weld then weldCleared s₂ i else s₂

/-- Records of slots, in slot order. -/
def applyRecords (s : State) (rs : List (Nat × Record)) : State := rs.foldl (fun s x => applyRecord s x.1 x.2) s

/-- Records numbered by slot from `first` on. -/
def numbered (first : Nat) : List Record → List (Nat × Record)
  | [] => []
  | r :: rs => (first, r) :: numbered (first + 1) rs

/-! ## Ends of commits -/

def State.setOutcome (s : State) (k : CommitKind) (r : CommitResult) (addr : Nat) : State :=
  s.setJournal { s.journal with outcome := ⟨k, r, addr⟩ }

def State.dropProg (s : State) : State := s.setJournal { s.journal with prog := none }

def State.dropErase (s : State) : State := s.setJournal { s.journal with erase := none }

/-- The slots of a program that ended without confirmation (R143, R144): DOUBTFUL, or UNSEEN while INCONSISTENT. -/
def doubtRange (s : State) (c : ProgCommit) : State :=
  match s.journal.state with
  | .inconsistent => s.setSlots c.first (c.records.map fun _ => .unseen)
  | .adopted =>
    let s := s.setSlots c.first (c.records.map fun _ => .doubtful)
    s.setJournal { s.journal with state := .doubtful, doubt := some ⟨c.first, c.records⟩ }
  | .doubtful | .notAdopted => s.setSlots c.first (c.records.map fun _ => .doubtful)

/-- The pending program commit is resolved by a status observation with error bit `err` (R142, R143, R154). -/
def resolveProgram (s : State) (err : Bool) : State :=
  match s.journal.prog with
  | none => s
  | some c =>
    let s := s.dropProg
    if err then
      let s := if c.kind = .journal then doubtRange s c else s
      s.setOutcome .program .commitFailed c.addr
    else (applyRecords s (numbered c.first c.records)).setOutcome .program .confirmed c.addr

/-- An ISOLATE or LOCKOUT record. -/
def Record.isolates (r : Record) : Bool := r.disp == 0x02 || r.disp == 0x03

/-- HELD is latched against the string of each ISOLATE or LOCKOUT record (R15, R144). -/
def holdRecords (s : State) (rs : List Record) : State :=
  rs.foldl (fun s r =>
    match strOfByte r.str with
    | some i => if r.isolates then s.latchHeld i .other else s
    | none => s) s

/-- The program commit timer expires (R144, R154). -/
def expireProgram (s : State) : State :=
  match s.journal.prog with
  | none => s
  | some c =>
    let s := s.dropProg
    let s := if c.kind = .journal then holdRecords (doubtRange s c) c.records else s
    s.setOutcome .program .commitTimeout c.addr

/-- A sector is ERASED in the sector table, with every slot ERASED (R149, R152). -/
def State.eraseSector (s : State) (j : Nat) : State := (s.setSector j ⟨.erased, 0⟩).fillSector j .erased

/-- A sector of the ring becomes ERASED, or HEAD if it holds the head slot (R149, R150). -/
def sectorErased (s : State) (j : Nat) : State := (s.eraseSector j).openHead

/-- The coverage marks of a sector's pages take the value `b` (R153, R176). -/
def State.coverSector (s : State) (j : Nat) (b : Bool) : State :=
  { s with capture := { s.capture with coverage := setRange (16 * j) 16 b s.capture.coverage } }

/-- A pending erase that ends without confirmation (R150, R152, R153, R154). -/
def failErase (s : State) (r : CommitResult) : State :=
  match s.journal.erase with
  | none => s
  | some c =>
    let s := s.dropErase
    let s := match c.sector with
      | some j => if c.recovery then s else (s.setSector j ⟨.unknown, 0⟩).fillSector j .unseen
      | none => s
    s.setOutcome .erase r c.base

/-! ## INCONSISTENT (R152) -/

def becomeInconsistent (s : State) : State :=
  let s := s.setJournal { s.journal with
    state := .inconsistent, slots := s.journal.slots.map fun _ => .unseen, doubt := none, heldTail := some (tailSector s) }
  { s with capture := { s.capture with coverage := s.capture.coverage.map fun _ => false } }

/-! ## Adoption (R177 to R179) -/

/-- What a good ring shows: its head, and its run of occupied slots, oldest first, each with its slot. -/
structure Ring where
  head : Nat
  run  : List (Nat × Summary)
  deriving DecidableEq, Repr

/-- The slots in ring order from slot `h` on, each with its index. -/
def ringFrom (ring : List Summary) (h : Nat) : List (Nat × Summary) :=
  (upTo ring.length).map fun d => ((h + d) % ring.length, ring.getD ((h + d) % ring.length) .unseen)

/-- The head (R177, 2): the first ERASED slot after an occupied one, or slot 0 if no slot is occupied. -/
def findHead (ring : List Summary) : Nat :=
  let n := ring.length
  ((upTo n).find? fun k => ring.getD k .unseen == .erased && (ring.getD ((k + n - 1) % n) .unseen).occupied).getD 0

/-- Is sector `j` as check 3 asks, with the head at slot `h`? -/
def sectorFits (ring : List Summary) (h j : Nat) : Bool :=
  let slots := (ring.drop (512 * j)).take 512
  if j = h / 512 then (slots.take (h % 512)).all Summary.occupied && (slots.drop (h % 512)).all (· == .erased)
  else slots.all Summary.occupied || slots.all (· == .erased)

/-- The RECORD slots of a run, each with its place in the run and its sequence. -/
def runSeqs : Nat → List (Nat × Summary) → List (Nat × Half)
  | _, [] => []
  | k, (_, .record r) :: rest => (k, r.seq) :: runSeqs (k + 1) rest
  | k, _ :: rest => runSeqs (k + 1) rest

/-- Check 5: the sequences agree with the positions. -/
def seqsFit (xs : List (Nat × Half)) : Bool :=
  match xs with
  | [] => true
  | (k₀, q₀) :: rest => rest.all fun x => x.2 == q₀ + BitVec.ofNat 16 (x.1 - k₀)

/-- R177: the checks in their order; none if the ring is broken. -/
def judgeRing (ring : List Summary) : Option Ring :=
  let h := findHead ring
  let run := (ringFrom ring h).dropWhile fun x => x.2 == .erased
  if ring.any (· == .erased) && run.all (fun x => x.2.occupied)
      && (upTo (ring.length / 512)).all (sectorFits ring h)
      && (run.isEmpty || !(runSeqs 0 run).isEmpty) && seqsFit (runSeqs 0 run)
  then some ⟨h, run⟩ else none

/-- The next sequence of R178: the last RECORD's sequence plus the slots from it to the head; 0 for an empty ring. -/
def ringNextSeq (r : Ring) : Half :=
  match (runSeqs 0 r.run).getLast? with
  | some (k, q) => q + BitVec.ofNat 16 (r.run.length - k)
  | none => 0

/-- A string's newest RECORD in the run (R178). -/
def newestRecord (r : Ring) (i : Str) : Option (Nat × Record) :=
  (r.run.reverse.filterMap fun x => match x.2 with
    | .record q => if strOfByte q.str == some i then some (x.1, q) else none
    | _ => none).head?

/-- The live slot and recorded disposition that adoption gives a string (R16, R178). -/
def adoptedLive (r : Ring) (i : Str) : Option (Nat × Disposition) :=
  match newestRecord r i with
  | some (slot, q) => (Disposition.ofByte q.disp).map fun d => (slot, d)
  | none => none

/-- A sector's state and record count at adoption (R178). -/
def adoptedSector (ring : List Summary) (h j : Nat) : Sector :=
  let n := (((ring.drop (512 * j)).take 512).filter Summary.occupied).length
  ⟨if j = h / 512 then .head else if n = 0 then .erased else .full, n⟩

/-- R54: HELD of origin FOUND_OPEN clears where the journal explains the open switch. -/
def Evidence.adopt (e : Evidence) (d : Disposition) : Evidence :=
  if (d = .isolate ∨ d = .lockout) ∧ e.heldOrigin = some .foundOpen then
    { e with latched := CauseSet.remove e.latched .held, heldOrigin := none }
  else e

/-- R178, R16: a successful adoption. -/
def adoptRing (s : State) (r : Ring) : State :=
  let ring := s.journal.slots.take (ringSlots s)
  let live := fun i => adoptedLive r i
  let disp := fun i => ((live i).map (·.2)).getD .none
  let sectors := (upTo 8).map fun j =>
    if j < ringSectors s then adoptedSector ring r.head j else sectorAt s j
  { s with
    journal := { s.journal with
      state := .adopted, everAdopted := true, sectors := sectors, head := r.head, nextSeq := ringNextSeq r, heldTail := none }
    table := mapAll (fun i e =>
      if isPresent s i then { e with liveSlot := (live i).map (·.1), recorded := disp i, damaged := false } else e) s.table
    evid := mapAll (fun i e => if isPresent s i then e.adopt (disp i) else e) s.evid }

/-- Adoption is attempted at the event that covers the last uncovered page (R176 to R179). -/
def attemptAdoption (s : State) : State :=
  let unadopted := s.journal.state = .notAdopted ∨ s.journal.state = .inconsistent
  if unadopted ∧ ringSectors s ≠ 0 ∧ (s.capture.coverage.take (16 * ringSectors s)).all id = true then
    match judgeRing (s.journal.slots.take (ringSlots s)) with
    | some r => adoptRing s r
    | none => becomeInconsistent s
  else s

/-- A pending erase is confirmed (R149, R152, R153, R154). While the journal is INCONSISTENT its pages are covered as well (R152), and the
sector that holds the head slot becomes HEAD then too (R132, R149; log 39). -/
def confirmErase (s : State) : State :=
  match s.journal.erase with
  | none => s
  | some c =>
    let s := (s.dropErase).setOutcome .erase .confirmed c.base
    match c.sector with
    | none => s
    | some j =>
      if c.recovery then attemptAdoption ((s.fillSector j .erased).coverSector j true)
      else if s.journal.state = .inconsistent then attemptAdoption ((sectorErased s j).coverSector j true)
      else sectorErased s j

/-- The pending erase commit is resolved by a status observation (R149, R150). -/
def resolveErase (s : State) (err : Bool) : State := if err then failErase s .commitFailed else confirmErase s

/-- The erase timer pauses with its remaining time (R148). -/
def pauseErase (s : State) : State :=
  match s.journal.erase with
  | some c =>
    match c.timer with
    | .running t => s.setJournal { s.journal with erase := some { c with timer := .paused (t - s.now) } }
    | .paused _ => s
  | none => s

/-- The erase timer runs again with its remaining time (R116, R117, R148). -/
def resumeErase (s : State) : State :=
  match s.journal.erase with
  | some c =>
    match c.timer with
    | .paused r => s.setJournal { s.journal with erase := some { c with timer := .running (s.now + r) } }
    | .running _ => s
  | none => s

end Sys2Proof.Machine
end

