-- ==== Sys2Proof/Machine/Append.lean ====
section
/-! DEFINITION. The journal tracker's verdicts: append acceptance (R136 to R141) and journal erase acceptance (R147, R148, R153). -/

namespace Sys2Proof.Machine

/-- A verdict on a protected program or erase: accepted, or refused with a code and the string it names (R19). -/
inductive Verdict where
  | accepted
  | refused (code : RefusalCode) (str : Option Str)
  deriving DecidableEq, Repr

/-! ## The projected range (R136) -/

/-- The 32 slots of a page's image. -/
def imageSlots (image : List (Option Byte)) : List (Nat × List (Option Byte)) :=
  (upTo 32).map fun k => (k, (image.drop (8 * k)).take 8)

/-- The slots that hold a written byte, by their place in the page. -/
def writtenSlots (image : List (Option Byte)) : List (Nat × List (Option Byte)) :=
  (imageSlots image).filter fun x => x.2.any Option.isSome

/-- The contents of the range, if every slot of it is whole. -/
def wholeSlots (image : List (Option Byte)) : Option (List (List Byte)) :=
  allSome ((writtenSlots image).map fun x => allSome x.2)

/-! ## The record checks (R138 to R140) -/

/-- The projected state that the records of one program build up. -/
structure Projection where
  slot     : Nat
  seq      : Half
  reserve  : Nat
  recorded : Vector Disposition 24
  latched  : Vector CauseSet 24
  live     : Vector (Option Nat) 24
  deriving DecidableEq, Repr

/-- The first record is judged against the state as it stands. -/
def projection (s : State) : Projection where
  slot := s.journal.head
  seq := s.journal.nextSeq
  reserve := reserve s
  recorded := Vector.ofFn fun i => s.table[i].recorded
  latched := Vector.ofFn fun i => s.evid[i].latched
  live := Vector.ofFn fun i => s.table[i].liveSlot

/-- R140: a record that is not judged by the reserve. -/
def carryForward (s : State) (p : Projection) (i : Str) (r : Record) (d : Disposition) : Bool :=
  let tail := tailSector s
  (sectorAt s tail).state != .head
    && (p.live[i].map (· / 512)) == some tail
    && r.mask == 0
    && (d == p.recorded[i] || (d == .isolate && p.recorded[i] == .connect))

/-- The effects a passed record adds to the projection (R138). -/
def Projection.after (p : Projection) (i : Str) (r : Record) (d : Disposition) : Projection where
  slot := p.slot + 1
  seq := p.seq + 1
  reserve := p.reserve - 1
  recorded := p.recorded.set i d
  latched := p.latched.set i (p.latched[i] &&& ~~~(r.mask &&& 0x7F))
  live := p.live.set i (some p.slot)

/-- The checks 5 to 8 of R138 on a record whose string and disposition have passed (R139, R140). -/
def checkEffects (s : State) (p : Projection) (i : Str) (r : Record) (d : Disposition) : Option RefusalCode :=
  if r.seq ≠ p.seq then some .badSequence
  else if r.mask &&& s.evid[i].present &&& 0x7F ≠ 0 then some .causePresent
  else if (CauseSet.has r.mask .ground || CauseSet.has r.mask .weld || r.mask &&& lockoutClear != 0)
      && !s.inputs.maintActive then some .maintRequired
  else if d = .connect ∧ p.latched[i] &&& ~~~(r.mask &&& 0x7F) ≠ 0 then some .causeLatched
  else if (d = .connect ∨ d = .isolate) ∧ p.recorded[i] = .lockout ∧ r.mask &&& lockoutClear = 0 then some .lockoutHeld
  else if carryForward s p i r d = false ∧ p.reserve - 1 < s.cfg.stringCount then some .journalFull
  else none

/-- The checks of R138 on one record, in their order: the projection after it, or the refusal. -/
def checkRecord (s : State) (p : Projection) (bs : List Byte) : Except RefusalCode Projection :=
  let r := recordFields bs
  if byteAt bs 0 ≠ 0xA5 then .error .badMarker
  else match presentOfByte s r.str with
    | none => .error .badString
    | some i =>
      match Disposition.ofByte r.disp with
      | none => .error .badDisposition
      | some d =>
        if checkOk bs = false then .error .badCheck
        else match checkEffects s p i r d with
          | some code => .error code
          | none => .ok (p.after i r d)

/-- The records of a range in slot order; the first that fails refuses the program and names its string (R19, R138). -/
def checkRecords (s : State) : Projection → List (List Byte) → Verdict
  | _, [] => .accepted
  | p, bs :: rest =>
    match checkRecord s p bs with
    | .error code => .refused code (presentOfByte s (recordFields bs).str)
    | .ok p' => checkRecords s p' rest

/-- The slots of a range by index: `base` is the first slot of the page. -/
def rangeSlots (base : Nat) (image : List (Option Byte)) : List Nat := (writtenSlots image).map fun x => base + x.1

/-- The verdict on an append into the page at address `page` (R136 to R140). -/
def appendVerdict (s : State) (page : Nat) (image : List (Option Byte)) : Verdict :=
  let slots := rangeSlots ((page - ringBase s) / 8) image
  match wholeSlots image with
  | none => .refused .misaligned none
  | some contents =>
    match s.journal.state with
    | .notAdopted => .refused .notAdopted none
    | .doubtful => .refused .doubtfulSlots none
    | .inconsistent => .refused .journalInconsistent none
    | .adopted =>
      if slots ≠ (upTo slots.length).map (s.journal.head + ·) then .refused .notHead none
      else
        let j := headSector s
        if (s.journal.erase.bind (·.sector)) = some j ∧ s.mirror.state = .eraseSuspended then
          .refused .suspendedSector none
        else if (sectorAt s j).state ≠ .head then .refused .sectorNotErased none
        else checkRecords s (projection s) contents

/-! ## Acceptance -/

/-- R132: the head moves on past `n` slots of the HEAD sector. -/
def advanceHead (s : State) (n : Nat) : State :=
  let j := headSector s
  let x := sectorAt s j
  let h := s.journal.head
  let full := decide (512 ≤ h % 512 + n)
  let s := s.setSector j ⟨if full then .full else x.state, x.count + n⟩
  let s := s.setJournal { s.journal with head := (h + n) % ringSlots s, nextSeq := s.journal.nextSeq + BitVec.ofNat 16 n }
  s.openHead

/-- R141: an accepted append becomes the pending program commit. -/
def acceptAppend (s : State) (image : List (Option Byte)) : State :=
  let records := ((wholeSlots image).getD []).map recordFields
  let h := s.journal.head
  let c : ProgCommit := ⟨.journal, slotAddr s h, h, records, s.now + ms s.cfg.tPc⟩
  let s := s.setSlots h (records.map .record)
  let s := advanceHead s records.length
  s.setJournal { s.journal with prog := some c }

/-- The verdict on an ERASE_4K of journal sector `j` (R147, R153). -/
def eraseVerdict (s : State) (j : Nat) : Verdict :=
  match s.journal.state with
  | .adopted =>
    let x := (sectorAt s j).state
    if (j ≠ tailSector s ∧ x ≠ .unknown) ∨ x = .head then .refused .eraseNotTail none
    else if liveCount s j ≠ 0 then .refused .eraseLive (liveStrings s j).head?
    else .accepted
  | .doubtful => .refused .doubtfulSlots none
  | .notAdopted | .inconsistent => if s.inputs.maintActive then .accepted else .refused .notAdopted none

/-- An accepted erase becomes the pending erase commit with its timer (R148, R154). -/
def startErase (s : State) (kind : RegionKind) (base size : Nat) (sector : Option Nat) (recovery : Bool) : State :=
  s.setJournal { s.journal with
    erase := some ⟨kind, base, size, sector, recovery, .running (s.now + ms s.cfg.tEc)⟩ }

/-- An accepted erase of journal sector `j`: a tail erase (R148) or a recovery erase (R153). -/
def acceptJournalErase (s : State) (j : Nat) : State :=
  let recovery := s.journal.state != .adopted
  let s := startErase s .journal (ringBase s + 4096 * j) 4096 (some j) recovery
  if recovery then (s.fillSector j .unseen).coverSector j false
  else s.setSector j { sectorAt s j with state := .erasing }

end Sys2Proof.Machine
end

