-- ==== Sys2Proof/Machine/Arbiter.lean ====
section
/-! DEFINITION. The actuation arbiter (R77 to R79). A request that waits for its own recharging grant (R78) is a queued switch
state without a queue entry while the grant stands; a withdrawal is a queue entry whose string has left the queued state. -/

namespace Sys2Proof.Machine

/-- The number of strings that hold a grant, recharging ones among them (R77). -/
def grantsInUse (s : State) : Nat := (allStrings.filter fun i => s.seqs[i].grant != .none).length

/-- A grant may be given: fewer than K are in use and no lower K is pending (R78, R79). -/
def slotFree (s : State) : Bool := decide (grantsInUse s < s.arb.k) && s.arb.kPending.isNone

/-- A grant given to a string starts its sequence (R64, R69). -/
def giveGrant (s : State) (i : Str) (c : Coil) : State := s.actuate i (s.seqs[i].start c s.cfg s.now)

/-- The kind of grant a string's switch state waits for. -/
def Seq.waitsFor (q : Seq) : Option Coil :=
  match q.state with
  | .openQueued => some .open_
  | .closeQueued => some .close_
  | _ => none

/-- A pending lower K becomes active at the event that returns grants down to it (R79). -/
def applyPendingK (s : State) : State :=
  match s.arb.kPending with
  | some k => if grantsInUse s ≤ k then { s with arb := { s.arb with k := k, kPending := none } } else s
  | none => s

/-- Withdrawals (R62, R74, R2): an entry whose string no longer waits for its kind leaves the queue. -/
def withdraw (s : State) : State :=
  { s with arb := { s.arb with queue := s.arb.queue.filter fun e => s.seqs[e.str].waitsFor == some e.kind } }

/-- The queue with a request in its place: OPEN behind the last OPEN, CLOSE at the back (R78). -/
def enqueue (queue : List QEntry) (e : QEntry) : List QEntry :=
  match e.kind with
  | .open_ => (queue.filter fun x => x.kind == .open_) ++ [e] ++ queue.filter fun x => x.kind == .close_
  | .close_ => queue ++ [e]

/-- One string's request, if it has one to make: granted at once, or joined to the queue. A string that still holds a grant
defers its request (R78). -/
def request (s : State) (i : Str) : State :=
  match s.seqs[i].waitsFor with
  | none => s
  | some c =>
    if isPresent s i && s.seqs[i].grant == .none && !(s.arb.queue.any fun e => e.str == i) then
      if slotFree s && s.arb.queue.isEmpty then giveGrant s i c
      else { s with arb := { s.arb with queue := enqueue s.arb.queue ⟨i, c⟩ } }
    else s

/-- Requests made at one event are handled in string-number order (R78). -/
def requestAll (s : State) : State := allStrings.foldl request s

/-- The head of the queue is granted while a slot is free; `fuel` bounds the number of grants. -/
def grantHeads : Nat → State → State
  | 0, s => s
  | fuel + 1, s =>
    match s.arb.queue with
    | [] => s
    | e :: rest =>
      if slotFree s then grantHeads fuel (giveGrant { s with arb := { s.arb with queue := rest } } e.str e.kind) else s

/-- The arbiter's work at the end of an event: withdrawals, a pending K, requests, then the queue (log 8). -/
def arbitrate (s : State) : State :=
  let s := requestAll (applyPendingK (withdraw s))
  grantHeads s.arb.queue.length s

/-- R79: an adoption that changes K. -/
def adoptK (s : State) (k : Nat) : State :=
  if grantsInUse s ≤ k then { s with arb := { s.arb with k := k, kPending := none } }
  else { s with arb := { s.arb with kPending := some k } }

end Sys2Proof.Machine
end

