-- ==== Sys2Proof/Machine/Capture.lean ====
section
/-! DEFINITION. What a read's release does: journal reads (R145, R146, R150, R151, R176), configuration capture (R170 to R172) and
configuration adoption (R2, R173, R174). -/

namespace Sys2Proof.Machine

/-! ## The streamed bytes of a transaction -/

/-- The bytes at addresses `a .. a + n − 1` as one read streamed them in address order, if it streamed over them all with every byte
captured. `start` is the address of the first data byte of `data`; the last whole pass counts (R170). -/
def streamed (start m : Nat) (data : List (Option Byte)) (a n : Nat) : Option (List Byte) :=
  let k := (a + m - start) % m
  if k + n ≤ data.length then
    let pass := (data.length - n - k) / m
    allSome ((data.drop (k + m * pass)).take n)
  else none

/-- What one read transaction captured: the data bytes in order, from address `start`, in a memory of `m` bytes. -/
structure ReadStream where
  start : Nat
  m     : Nat
  data  : List (Option Byte)
  deriving DecidableEq, Repr

def Txn.readStream (t : Txn) : ReadStream := ⟨t.start, t.cfg.memSize, t.stream.reverse⟩

/-- A segment's bytes, streamed in address order (R170). -/
def ReadStream.at (r : ReadStream) (a n : Nat) : Option (List Byte) := streamed r.start r.m r.data a n

/-- The byte at an address as the read last streamed it, if it was captured (log 34). -/
def ReadStream.byteAt (r : ReadStream) (a : Nat) : Option Byte :=
  let k := (a + r.m - r.start) % r.m
  if k < r.data.length then r.data.getD (k + r.m * ((r.data.length - 1 - k) / r.m)) none else none

/-- The bytes at addresses `a .. a + n − 1`, if the read streamed over them all, in one pass or wrapped, with every byte captured (R145,
R150, R151, R176). -/
def ReadStream.bytes (r : ReadStream) (a n : Nat) : Option (List Byte) := allSome ((upTo n).map fun k => r.byteAt (a + k))

/-- Every byte that a read shows at addresses `a .. a + n − 1`, in any pass, satisfies `p`; `at_` is the address of the first byte of
the list. -/
def shownAll (m a n : Nat) (p : Byte → Bool) : Nat → List (Option Byte) → Bool
  | _, [] => true
  | at_, x :: xs => (!(decide (a ≤ at_) && decide (at_ < a + n)) || x.any p) && shownAll m a n p ((at_ + 1) % m) xs

/-- A slot of the ring, judged from the bytes of the read, if it was streamed over in full (R128, R151). -/
def readSlot (s : State) (r : ReadStream) (k : Nat) : Option Summary := (r.bytes (slotAddr s k) 8).map judgeSlot

/-! ## Coverage (R176) -/

/-- One page of the ring: if it was streamed over whole, its slots are summarised and it is covered. -/
def coverPage (r : ReadStream) (s : State) (p : Nat) : State :=
  match r.bytes (ringBase s + 256 * p) 256 with
  | none => s
  | some bs =>
    let s := s.setSlots (32 * p) ((upTo 32).map fun k => judgeSlot ((bs.drop (8 * k)).take 8))
    { s with capture := { s.capture with coverage := s.capture.coverage.set p true } }

/-- Coverage by one read, and the adoption that the last page brings. -/
def coverRead (s : State) (r : ReadStream) : State :=
  attemptAdoption ((upTo (16 * ringSectors s)).foldl (coverPage r) s)

/-! ## Comparison and resolution (R145, R146, R150, R151) -/

/-- R151: does a slot show that the ring has changed behind the part? -/
def slotChanged (summary : Summary) (seen : Option Summary) : Bool :=
  match summary, seen with
  | .record q, some (.record q') => q != q'
  | .erased, some x => x != .erased
  | _, _ => false

/-- R151: does a slot show damage? -/
def slotDamaged (summary : Summary) (seen : Option Summary) : Bool :=
  match summary, seen with
  | .record _, some .erased => true
  | .record _, some .corrupt => true
  | _, _ => false

/-- A damaged slot becomes CORRUPT, and the string whose live slot it is is marked (R5, R151). -/
def markDamage (s : State) (k : Nat) : State :=
  let s := s.setSlots k [.corrupt]
  { s with
    table := mapAll (fun i e =>
      if isPresent s i && e.liveSlot == some k then { e with damaged := true } else e) s.table }

/-- An UNKNOWN sector that the read shows erased throughout (R150). -/
def readErased (s : State) (r : ReadStream) (j : Nat) : Bool :=
  (sectorAt s j).state == .unknown
    && (r.bytes (ringBase s + 4096 * j) 4096).isSome
    && shownAll r.m (ringBase s + 4096 * j) 4096 (· == 0xFF) r.start r.data

/-- The doubtful slots as the read shows them, if it streamed over them all (R145). -/
def readDoubt (s : State) (r : ReadStream) (d : Doubt) : Option (List Summary) :=
  allSome ((upTo d.records.length).map fun k => readSlot s r (d.first + k))

/-- The number of slots up to and including the last that does not read as erased (R145). -/
def keptSlots (seen : List Summary) : Nat := (seen.reverse.dropWhile (· == .erased)).length

/-- R146: an erased slot before one that is not erased. -/
def hasGap (seen : List Summary) : Bool := (seen.take (keptSlots seen)).any (· == .erased)

/-- The summaries that a resolution gives (R145). -/
def resolvedSummaries : List Record → List Summary → List Summary
  | q :: qs, x :: xs => (if x = .record q then .record q else .corrupt) :: resolvedSummaries qs xs
  | _, _ => []

/-- The records that a resolution confirms, each with its slot (R145). -/
def confirmedSlots (first : Nat) : List Record → List Summary → List (Nat × Record)
  | q :: qs, x :: xs =>
    if x = .record q then (first, q) :: confirmedSlots (first + 1) qs xs else confirmedSlots (first + 1) qs xs
  | _, _ => []

/-- The slots freed by a resolution return to the head (R145). -/
def freeSlots (s : State) (d : Doubt) (kept : Nat) : State :=
  let freed := d.records.length - kept
  if freed = 0 then s
  else
    let j := d.first / 512
    let next := (j + 1) % ringSectors s
    let x := sectorAt s j
    let full := x.state == .full
    let s := s.setJournal { s.journal with
      head := d.first + kept, nextSeq := ((d.records[kept]?).map (·.seq)).getD s.journal.nextSeq }
    let s := s.setSlots (d.first + kept) (List.replicate freed .erased)
    let s := s.setSector j ⟨if full then .head else x.state, x.count - freed⟩
    if full && (sectorAt s next).state == .head then s.setSector next { sectorAt s next with state := .erased } else s

/-- A resolving read without a gap (R145). -/
def resolveDoubt (s : State) (d : Doubt) (seen : List Summary) : State :=
  let kept := keptSlots seen
  let s := s.setSlots d.first (resolvedSummaries (d.records.take kept) seen)
  let s := freeSlots s d kept
  let s := applyRecords s (confirmedSlots d.first (d.records.take kept) seen)
  let s := s.setJournal { s.journal with state := .adopted, doubt := none }
  s.setOutcome .program .resolved (slotAddr s d.first)

/-- A read while ADOPTED or DOUBTFUL. A change that makes the journal INCONSISTENT is the whole effect (R151); a gap leaves the last
commit outcome as it was (R146; log 33). -/
def compareRead (s : State) (r : ReadStream) : State :=
  let slots := upTo (ringSlots s)
  let doubt := s.journal.doubt.bind fun d => (readDoubt s r d).map fun seen => (d, seen)
  if (slots.any fun k => slotChanged (slotAt s k) (readSlot s r k))
      || (match doubt with | some (_, seen) => hasGap seen | none => false) then
    becomeInconsistent s
  else
    let erased := (upTo (ringSectors s)).filter (readErased s r)
    let damaged := slots.filter fun k => slotDamaged (slotAt s k) (readSlot s r k)
    let s := damaged.foldl markDamage s
    let s := erased.foldl sectorErased s
    match doubt with
    | some (d, seen) => resolveDoubt s d seen
    | none => s

/-- The journal's part of a read's release. A transaction under a map without a ring has no part in it (R107, R173). -/
def journalRead (s : State) (t : Txn) : State :=
  match journalRegion t.cfg with
  | none => s
  | some _ =>
    match s.journal.state with
    | .notAdopted | .inconsistent => coverRead s t.readStream
    | .adopted | .doubtful => compareRead s t.readStream

/-! ## Configuration capture and adoption -/

/-- Segment `j` of the block, if the read streamed over it whole (R170). -/
def captureSegment (r : ReadStream) (s : State) (j : Fin 8) : State :=
  match r.at (s.cfgBase + 32 * j.val) 32 with
  | none => s
  | some bs => { s with capture := { s.capture with segments := s.capture.segments.set j ⟨true, bs⟩ } }

/-- The block that the segment buffers hold. -/
def capturedBlock (s : State) : List Byte := (List.finRange 8).flatMap fun j => s.capture.segments[j].bytes

def allSegmentsValid (s : State) : Bool := (List.finRange 8).all fun j => s.capture.segments[j].valid

/-- All valid marks are cleared (R172). -/
def clearSegments (s : State) : State :=
  { s with capture := { s.capture with
      segments := Vector.ofFn fun j => { s.capture.segments[j] with valid := false } } }

/-- A string's entry at leaving presence (R2): target and last refusal code stay. -/
def Entry.leave (e : Entry) : Entry :=
  { e with recorded := .none, liveSlot := none, damaged := false, role := .none, coherence := .coherent }

/-- A string that leaves presence at an adoption of `n` strings (R2). -/
def leaves (s : State) (n : Nat) (i : Str) : Bool := isPresent s i && decide (n ≤ i.val)

/-- What each block drops for the strings that leave presence (R2, R30, R56, R81). -/
def dropLeaving (s : State) (n : Nat) : State :=
  { s with
    table := mapAll (fun i e => if leaves s n i then e.leave else e) s.table
    evid := mapAll (fun i e => if leaves s n i then Evidence.reset else e) s.evid
    meas := mapAll (fun i m => if leaves s n i then Meas.invalid else m) s.meas
    inputs := { s.inputs with snapshot := s.inputs.snapshot.filter fun i => !leaves s n i }
    seqs := mapAll (fun i q => if leaves s n i then q.leave s.now else q) s.seqs }

/-- Strings at or above the new string count leave presence; a bypass that goes off is reported (R76, R81). -/
def leavePresence (s : State) (n : Nat) : State :=
  if allStrings.any fun i => bypassDropped s.seqs[i] (dropLeaving s n).seqs[i] then (dropLeaving s n).disturb
  else dropLeaving s n

/-- The first adoption after reset takes every field (R173). Coverage starts empty (R176). -/
def firstAdoption (s : State) (c : Config) : State :=
  let s := adoptK (leavePresence s c.stringCount) c.grants
  { s with
    cfg := c
    capture := { s.capture with
      state := .adopted, deferred := false, adopted := true, coverage := List.replicate 128 false } }

/-- A later adoption takes every field but the string count, the memory size and the region map (R174). Two
region maps agree if their used entries do (log 35). -/
def laterAdoption (s : State) (c : Config) : State :=
  let same := c.stringCount == s.cfg.stringCount && c.memSize == s.cfg.memSize && c.regions == s.cfg.regions
  let s := adoptK s c.grants
  { s with
    cfg := { c with stringCount := s.cfg.stringCount, memSize := s.cfg.memSize, regions := s.cfg.regions }
    capture := { s.capture with state := .adopted, deferred := !same } }

/-- The checks of a block whose eight segments are valid, and its adoption (R172 to R175). -/
def judgeBlock (s : State) : State :=
  let bs := capturedBlock s
  let s := clearSegments s
  if blockOk (s.cfgBase / 4096) bs then
    if s.capture.adopted then laterAdoption s (parseBlock bs) else firstAdoption s (parseBlock bs)
  else { s with capture := { s.capture with state := .bad } }

/-- The capture unit's part of a read's release (R170, R172). -/
def configRead (s : State) (t : Txn) : State :=
  let s := (List.finRange 8).foldl (captureSegment t.readStream) s
  if allSegmentsValid s then judgeBlock s else s

/-- The release of a READ or READ_FAST: the journal first, since pages read before a first adoption count for nothing (R173;
log 14). -/
def readEffects (s : State) (t : Txn) : State := configRead (journalRead s t) t

end Sys2Proof.Machine
end

