-- ==== Sys2Proof/Machine/Flags.lean ====
section
/-! DEFINITION. The attention reasons (R165, bits as in 10.5), ATTN (R166) and BTRIP (R80). -/

namespace Sys2Proof.Machine

/-- A reason's mark at its bit of the attention field. -/
def reasonBit (b : Bool) (k : Nat) : Half := if b then BitVec.ofNat 16 (2 ^ k) else 0

def anyPresent (s : State) (p : Str → Bool) : Bool := allStrings.any fun i => isPresent s i && p i

def unrecordedReason (s : State) : Bool := anyPresent s fun i => s.table[i].coherence == .unrecorded

def failedReason (s : State) : Bool := anyPresent s fun i => s.seqs[i].state == .failed

def damagedReason (s : State) : Bool := anyPresent s fun i => s.table[i].damaged

/-- The set of attention reasons that hold (R20, R165). -/
def attentionReasons (s : State) : Half :=
  reasonBit (unrecordedReason s) 0 ||| reasonBit (failedReason s) 1 ||| reasonBit (damagedReason s) 2
    ||| reasonBit (s.capture.state == .bad) 3
    ||| reasonBit (s.journal.state == .notAdopted && s.capture.adopted) 4
    ||| reasonBit (s.journal.state == .doubtful) 5
    ||| reasonBit (s.journal.state == .inconsistent) 6
    ||| reasonBit s.search.attn 7
    ||| reasonBit s.iso.fault 8

/-- The condition of R80. -/
def backupTrip (s : State) : Bool :=
  s.cfg.optBtrip && anyPresent s fun i => s.seqs[i].state == .failed && CauseSet.has s.evid[i].present .weld

/-- ATTN and BTRIP follow the state at the end of every event (R80, R166). -/
def refreshPins (s : State) : State := { s with pins := ⟨attentionReasons s != 0, backupTrip s⟩ }

end Sys2Proof.Machine
end

