-- ==== Sys2Proof/Machine/Table.lean ====
section
/-! DEFINITION. The string table's computed fields (01): target (R6, R8 to R10), own target (R9), coherence (R11). -/

namespace Sys2Proof.Machine

/-- The claims of R6 other than the search role: they make the string's own target ISOLATED (R9). -/
def ownIsolated (s : State) (i : Str) : Bool :=
  s.evid[i].latched != 0
    || s.inputs.shdnActive
    || s.table[i].recorded == .isolate || s.table[i].recorded == .lockout
    || (s.table[i].recorded == .none && s.journal.everAdopted)

/-- R6: the target of a present entry. -/
def targetOf (s : State) (i : Str) : Target :=
  if ownIsolated s i || s.table[i].role == .held then .isolated else .connected

/-- R9: the own target leaves the search role out. -/
def ownTargetOf (s : State) (i : Str) : Target := if ownIsolated s i then .isolated else .connected

/-- The pending program commit holds a record for the string (R11, R13). -/
def pendingHolds (s : State) (i : Str) : Bool :=
  match s.journal.prog with
  | some c => c.records.any fun r => strOfByte r.str == some i
  | none => false

/-- R11: the coherence of a present entry. -/
def coherenceOf (s : State) (i : Str) : Coherence :=
  if pendingHolds s i then .pending
  else if s.table[i].recorded == .connect && s.evid[i].latched != 0 then .unrecorded
  else .coherent

/-- R8, R11: targets and coherence are computed once, from the state after the event. Absent entries keep theirs (R1). -/
def recompute (s : State) : State :=
  { s with
    table := mapAll (fun i e =>
      if isPresent s i then { e with target := targetOf s i, coherence := coherenceOf s i } else e) s.table }

/-- R9: a string whose own target changed from CONNECTED to ISOLATED between two states. -/
def overtaken (s₀ s₁ : State) (i : Str) : Bool :=
  ownTargetOf s₀ i == .connected && ownTargetOf s₁ i == .isolated

end Sys2Proof.Machine
end

