-- ==== Sys2Proof/Machine/Search.lean ====
section
/-! DEFINITION. The localisation search unit (05). It works through search roles only; the event's end (Event.lean) recomputes targets
and lets the sequencers take them. -/

namespace Sys2Proof.Machine

/-- R18: strings of `held` take role HELD, of `suspect` SUSPECT, all others NONE. -/
def setRoles (s : State) (held suspect : List Str) : State :=
  { s with
    table := mapAll (fun i e =>
      { e with role := if held.contains i then .held else if suspect.contains i then .suspect else .none }) s.table }

/-- A result that raises the attention reason SEARCH (R101). -/
def SearchResult.raisesAttention : SearchResult → Bool
  | .none | .cleared | .found | .swept => false
  | .unlocated | .abortedSwitch | .abortedShutdown | .abortedMonitor | .abortedTimeout | .abortedConfig => true

/-- R86: every end of a search. -/
def endSearch (s : State) (r : SearchResult) (found : Option Str) : State :=
  let s := setRoles s [] []
  { s with
    search := { s.search with
      phase := .idle, suspects := [], originals := [], stage := .none, settleAt := 0, measureAt := 0, disturbed := 0
      timer := none, trigger := 0, rearmMet := false, rearmAt := some (s.now + minutes s.cfg.tRearm)
      result := r, found := found, attn := r.raisesAttention, underTest := none, swept := [] } }

/-- A HALVING step (R91): the first ceil(n/2) suspects are held. -/
def beginHalving (s : State) (suspects : List Str) : State :=
  let a := suspects.take ((suspects.length + 1) / 2)
  let b := suspects.drop ((suspects.length + 1) / 2)
  let s := setRoles s a b
  { s with
    search := { s.search with
      phase := .halving, suspects := suspects, steps := s.search.steps + 1, stage := .switchWait, disturbed := 0 } }

/-- The confirming step (R93). -/
def beginConfirm (s : State) (i : Str) : State :=
  let s := setRoles s [i] []
  { s with
    search := { s.search with
      phase := .confirm, suspects := [i], steps := s.search.steps + 1, stage := .switchWait, disturbed := 0 } }

/-- A sweep's next string test, or its end (R97). -/
def nextTest (s : State) (untested : List Str) : State :=
  match untested with
  | [] => if s.search.swept.isEmpty then endSearch s .unlocated none else endSearch s .swept s.search.swept.head?
  | i :: rest =>
    let s := setRoles s rest [i]
    { s with
      search := { s.search with
        suspects := untested, underTest := some i, steps := s.search.steps + 1, stage := .switchWait, disturbed := 0 } }

/-- R96: entry to the sweep. -/
def enterSweep (s : State) : State :=
  let set := s.search.originals.filter fun i => isPresent s i && ownTargetOf s i == .connected
  if set.isEmpty then endSearch s .unlocated none
  else
    let s := setRoles s set []
    { s with
      search := { s.search with
        phase := .sweep, suspects := set, stage := .hold, disturbed := 0, underTest := none, swept := [] } }

/-- R95: no suspect is confirmed. -/
def notConfirmed (s : State) : State := if s.cfg.optSweep then enterSweep s else endSearch s .unlocated none

/-- The step that a suspect set starts (R91, R93, R95, R98). -/
def beginStep (s : State) (suspects : List Str) : State :=
  match suspects with
  | [] => notConfirmed { s with search := { s.search with suspects := [] } }
  | [i] => beginConfirm s i
  | i :: j :: rest => beginHalving s (i :: j :: rest)

/-- R94: GROUND is latched against the confirmed suspect, and the search ends FOUND. -/
def endFound (s : State) (i : Str) : State := endSearch (s.latch i .ground) .found (some i)

/-- R84: the trigger counter at a completion while the phase is IDLE. -/
def updateTrigger (s : State) : State :=
  let n := s.search.trigger
  let n' := match s.iso.status with
    | .valid => if s.iso.value < s.cfg.rMin then min 255 (n + 1) else 0
    | .disturbed => n
    | .invalid => 0
    | .none => n
  { s with search := { s.search with trigger := n' } }

/-- The conditions of R85. -/
def searchTriggered (s : State) : Bool :=
  decide (s.cfg.cIso ≤ s.search.trigger) && s.cfg.enSrch && !s.inputs.shdnActive && s.journal.state == .adopted
    && s.search.rearmMet && !s.iso.fault

/-- The suspects of a search that starts: present strings CLOSED and out of probation (R85). -/
def closedStrings (s : State) : List Str :=
  (presentStrings s).filter fun i => s.seqs[i].state == .closed && s.seqs[i].probation == 0

/-- R85: the start of a search. -/
def startSearch (s : State) : State :=
  let suspects := closedStrings s
  let s := setRoles s [] suspects
  let s := { s with
    search := { s.search with
      phase := .baseline, suspects := suspects, originals := suspects, steps := 0, trigger := 0, disturbed := 0
      stage := .switchWait, timer := some (s.now + minutes s.cfg.tStmo), underTest := none, swept := [] } }
  if suspects.isEmpty then endSearch s .unlocated none else s

/-- The VALID candidate of the stage is judged by its phase (R90, R92, R93, R97). A single suspect after the baseline goes to
the confirming step (log 11). -/
def judgeValue (s : State) (v : Nat) : State :=
  let suspects := s.search.suspects
  match s.search.phase with
  | .idle => s
  | .baseline => if s.cfg.rOk ≤ v then endSearch s .cleared none else beginStep s suspects
  | .halving =>
    let a := suspects.take ((suspects.length + 1) / 2)
    let b := suspects.drop ((suspects.length + 1) / 2)
    if s.cfg.rOk ≤ v then
      match a with
      | [i] => endFound s i
      | _ => beginStep s a
    else beginStep s b
  | .confirm =>
    match suspects with
    | i :: _ => if s.cfg.rOk ≤ v then endFound s i else notConfirmed s
    | [] => notConfirmed s
  | .sweep =>
    match s.search.underTest with
    | none => s
    | some i =>
      let s := if v < s.cfg.rMin then
          let s := s.latch i .ground
          { s with search := { s.search with swept := s.search.swept ++ [i] } }
        else s
      nextTest s (suspects.filter (· != i))

/-- A completion while a search is active (R89, R99). -/
def judgeCompletion (s : State) : State :=
  match s.iso.status with
  | .invalid => endSearch s .abortedMonitor none
  | .none => s
  | .disturbed =>
    if s.search.stage = .measure ∧ s.search.measureAt ≤ s.iso.start then
      if 3 ≤ s.search.disturbed + 1 then endSearch s .abortedMonitor none
      else { s with search := { s.search with disturbed := s.search.disturbed + 1 } }
    else s
  | .valid =>
    if s.search.stage = .measure ∧ s.search.measureAt ≤ s.iso.start then judgeValue s s.iso.value else s

/-- A VALID result at or above R_ok meets re-arm and clears the reason SEARCH (R87, R101); an end at the same completion
comes after (log 19), and a completion taken after an abort at the same instant is such a result too (log 41). -/
def recovered (s : State) : State :=
  if s.iso.status = .valid ∧ s.cfg.rOk ≤ s.iso.value then
    { s with search := { s.search with
        attn := false, rearmMet := true, rearmAt := none } }
  else s

/-- The search unit's event at an insulation measurement completion (R36). With the phase IDLE it updates the trigger counter, and it acts on
re-arm and on the reason SEARCH as any later result does, also where an abort at the same instant has left the phase IDLE, of which R99 says
that the completion "updates the trigger counter only": the model's reading (log 41). -/
def searchOnCompletion (s : State) : State :=
  let s := recovered s
  if s.search.phase = .idle then
    let s := updateTrigger s
    if searchTriggered s then startSearch s else s
  else judgeCompletion s

/-- R98: overtaken reports for strings of the suspect set, taken together. -/
def takeOvertaken (s : State) (gone : List Str) : State :=
  let left := s.search.suspects.filter fun i => !gone.contains i
  let s := { s with
    table := mapAll (fun i e => if gone.contains i then { e with role := .none } else e) s.table }
  match s.search.phase with
  | .idle => s
  | .baseline =>
    if left.isEmpty then endSearch s .unlocated none
    else { s with search := { s.search with suspects := left, stage := .switchWait, disturbed := 0 } }
  | .halving => beginStep s left
  | .confirm => notConfirmed { s with search := { s.search with suspects := left } }
  | .sweep =>
    let s := { s with search := { s.search with suspects := left } }
    match s.search.underTest with
    | some i => if gone.contains i then nextTest s left else s
    | none => if left.isEmpty then endSearch s .unlocated none else s

/-- A present string's switch has entered FAILED between two states (R99). -/
def failedEntry (s₀ s₁ : State) : Bool :=
  allStrings.any fun i => isPresent s₁ i && s₀.seqs[i].state != .failed && s₁.seqs[i].state == .failed

/-- The fields of 5.1 differ (R100). -/
def searchConfigDiffers (a b : Config) : Bool :=
  a.enSrch != b.enSrch || a.cIso != b.cIso || a.rMin != b.rMin || a.rOk != b.rOk || a.tSs != b.tSs || a.tStmo != b.tStmo
    || a.tRearm != b.tRearm || a.optSweep != b.optSweep

/-- What one event, from `s₀` to `s₁`, does to an active search: the aborts of R99 in the order of log 24, or else the overtaken
reports of R98. An adoption that changes T_rearm and aborts the search loads the new T_rearm (R87, R100; log 32). -/
def searchReact (s₀ s₁ : State) : State :=
  if s₁.search.phase = .idle then s₁
  else if failedEntry s₀ s₁ then endSearch s₁ .abortedSwitch none
  else if !s₀.inputs.shdnActive && s₁.inputs.shdnActive then endSearch s₁ .abortedShutdown none
  else if searchConfigDiffers s₀.cfg s₁.cfg then endSearch s₁ .abortedConfig none
  else
    let gone := s₁.search.suspects.filter fun i => isPresent s₁ i && overtaken s₀ s₁ i
    if gone.isEmpty then s₁ else takeOvertaken s₁ gone

/-- R88: the switch wait holds. -/
def switchWaitHolds (s : State) : Bool :=
  allStrings.all fun i =>
    (s.table[i].role != .held || s.seqs[i].state == .opened)
      && (s.table[i].role != .suspect || s.seqs[i].state == .closed)
      && !(isPresent s i && (s.seqs[i].state == .openQueued || s.seqs[i].state == .opening
        || s.seqs[i].state == .closeQueued || s.seqs[i].state == .closing))

/-- R88, R90, R96: a stage that waits for its switches moves on when they are there. -/
def judgeSwitchWait (s : State) : State :=
  if switchWaitHolds s then
    match s.search.stage with
    | .switchWait =>
      if s.search.phase = .baseline then { s with search := { s.search with stage := .measure, measureAt := s.now } }
      else { s with search := { s.search with stage := .settle, settleAt := s.now + ms s.cfg.tSs } }
    | .hold => nextTest s s.search.suspects
    | .none => s
    | .settle => s
    | .measure => s
  else s

end Sys2Proof.Machine
end

