-- ==== Sys2Proof/Machine/Event.lean ====
section
/-! DEFINITION. The end of every event: what the search unit, the string table, the sequencers, the arbiter and the pins do with it.
The effects of the event's own block come first; then each of these acts once (00, "Block diagram in words"; R8). -/

namespace Sys2Proof.Machine

/-- Targets and coherence are computed, the sequencers take them, and the arbiter takes their requests. -/
def carryOut (s : State) : State := arbitrate (reconcile (recompute s))

/-- The end of an event that took the part from `s₀` to `s₁`. The switch wait is judged after the switches have moved; a sweep's
first string test that starts there moves roles, so its targets are carried out at the same event (R96, R97). -/
def finish (s₀ s₁ : State) : State :=
  refreshPins (carryOut (judgeSwitchWait (carryOut (searchReact s₀ s₁))))

end Sys2Proof.Machine
end

