-- ==== Sys2Proof/Machine/Window.lean ====
section
/-! DEFINITION. The status window (08): the code values of 10.7, the box record (10.5), the string records (10.6), and the record
latches (R158). -/

namespace Sys2Proof.Machine

/-! ## Code values (10.7) -/

def CfgState.code : CfgState → Byte
  | .default => 0x00
  | .adopted => 0x01
  | .bad => 0x02

def JournalState.code : JournalState → Byte
  | .notAdopted => 0x00
  | .adopted => 0x01
  | .doubtful => 0x02
  | .inconsistent => 0x03

def SectorState.code : SectorState → Byte
  | .unseen => 0x00
  | .erased => 0x01
  | .head => 0x02
  | .full => 0x03
  | .erasing => 0x04
  | .unknown => 0x05

def MirrorState.code : MirrorState → Byte
  | .unknown => 0x00
  | .idle => 0x01
  | .busyProgram => 0x02
  | .busyErase => 0x03
  | .eraseSuspended => 0x04
  | .busyProgramInSuspend => 0x05

def Wel.code : Wel → Byte
  | .unknown => 0x00
  | .clear => 0x01
  | .set => 0x02

def SwitchState.code : SwitchState → Byte
  | .unfound => 0x00
  | .opened => 0x01
  | .qualify => 0x02
  | .closeQueued => 0x03
  | .closing => 0x04
  | .closed => 0x05
  | .openQueued => 0x06
  | .opening => 0x07
  | .failed => 0x08

def Coherence.code : Coherence → Byte
  | .coherent => 0x00
  | .unrecorded => 0x01
  | .pending => 0x02

def Target.code : Target → Byte
  | .connected => 0x00
  | .isolated => 0x01

def Role.code : Role → Byte
  | .none => 0x00
  | .suspect => 0x01
  | .held => 0x02

def IsoStatus.code : IsoStatus → Byte
  | .none => 0x00
  | .valid => 0x01
  | .disturbed => 0x02
  | .invalid => 0x03

def SearchPhase.code : SearchPhase → Byte
  | .idle => 0x00
  | .baseline => 0x01
  | .halving => 0x02
  | .confirm => 0x03
  | .sweep => 0x04

def SearchResult.code : SearchResult → Byte
  | .none => 0x00
  | .cleared => 0x01
  | .found => 0x02
  | .swept => 0x03
  | .unlocated => 0x04
  | .abortedSwitch => 0x05
  | .abortedShutdown => 0x06
  | .abortedMonitor => 0x07
  | .abortedTimeout => 0x08
  | .abortedConfig => 0x09

def CommitResult.code : CommitResult → Byte
  | .none => 0x00
  | .confirmed => 0x01
  | .commitFailed => 0x02
  | .commitTimeout => 0x03
  | .unresolved => 0x04
  | .resolved => 0x05

def CommitKind.code : CommitKind → Byte
  | .program => 0x01
  | .erase => 0x02

def RefusalCode.code : RefusalCode → Byte
  | .blockedCommand => 0x01
  | .memoryStateUnknown => 0x02
  | .welNotSet => 0x03
  | .commitPending => 0x04
  | .chipErase => 0x05
  | .windowWrite => 0x06
  | .eraseSpan => 0x07
  | .configWrite => 0x08
  | .guarded => 0x09
  | .misaligned => 0x10
  | .notAdopted => 0x11
  | .doubtfulSlots => 0x12
  | .journalInconsistent => 0x13
  | .notHead => 0x14
  | .sectorNotErased => 0x15
  | .suspendedSector => 0x16
  | .badMarker => 0x20
  | .badString => 0x21
  | .badDisposition => 0x22
  | .badCheck => 0x23
  | .badSequence => 0x24
  | .causePresent => 0x25
  | .maintRequired => 0x26
  | .causeLatched => 0x27
  | .lockoutHeld => 0x28
  | .journalFull => 0x29
  | .eraseNotTail => 0x30
  | .eraseLive => 0x31

/-- A refusal code or 0 for none. -/
def refusalByte (c : Option RefusalCode) : Byte := (c.map RefusalCode.code).getD 0x00

/-- A string number or 0xFF for none. -/
def strByte (i : Option Str) : Byte := (i.map fun i => BitVec.ofNat 8 i.val).getD 0xFF

def flagByte (b : Bool) : Byte := if b then 0x01 else 0x00

/-- Two bytes of a signed value (10.5, 10.6). -/
def be16s (n : Int) : List Byte := [hi (BitVec.ofInt 16 n), lo (BitVec.ofInt 16 n)]

/-! ## The box record (10.5) -/

/-- Whole ms, rounded up, of a time in microseconds (R161; log 25). -/
def wholeMs (us : Nat) : Nat := (us + 999) / 1000

/-- The remaining time of a running timer: at least 1 until its expiry (R161). -/
def remaining (expiry now : Nat) : Nat := max 1 (wholeMs (expiry - now))

/-- The erase timer runs (bit 7 of the flags byte). -/
def eraseRuns (s : State) : Bool :=
  match s.journal.erase with
  | some c => match c.timer with
    | .running _ => true
    | .paused _ => false
  | none => false

/-- The flags byte of 10.5. -/
def boxFlags (s : State) : Byte :=
  let at_ := fun (b : Bool) (k : Nat) => if b then BitVec.ofNat 8 (2 ^ k) else (0 : Byte)
  at_ s.inputs.shdnRaw 0 ||| at_ s.inputs.maintActive 1 ||| at_ s.inputs.shdnActive 2 ||| at_ (backupTrip s) 3
    ||| at_ s.capture.deferred 4 ||| at_ s.scan.median.isSome 5 ||| at_ s.iso.fault 6 ||| at_ (eraseRuns s) 7

/-- A sector's state; 0xFF ABSENT at or above S (R161). -/
def sectorByte (s : State) (j : Nat) : Byte :=
  if j < ringSectors s then (sectorAt s j).state.code else 0xFF

/-- Offsets 24..29: the pending program. -/
def progBytes (s : State) : List Byte :=
  match s.journal.prog with
  | none => List.replicate 6 0x00
  | some c =>
    [RegionKind.code c.kind] ++ be24 c.addr ++ [BitVec.ofNat 8 c.records.length, BitVec.ofNat 8 (remaining c.expiry s.now)]

/-- Offsets 30..35: the pending erase. -/
def eraseBytes (s : State) : List Byte :=
  match s.journal.erase with
  | none => List.replicate 6 0x00
  | some c =>
    [RegionKind.code c.kind] ++ be24 c.base ++ be16 (match c.timer with
      | .running t => remaining t s.now
      | .paused r => wholeMs r)

/-- The 64 bytes of the box record. -/
def boxRecord (s : State) : List Byte :=
  [0x24, 0x40, 0x01, s.capture.state.code, s.journal.state.code, boxFlags s]
    ++ [hi (attentionReasons s), lo (attentionReasons s)]
    ++ be16 s.journal.head ++ [hi s.journal.nextSeq, lo s.journal.nextSeq]
    ++ [BitVec.ofNat 8 (tailSector s), s.mirror.state.code, s.mirror.wel.code, 0x00]
    ++ (upTo 8).map (sectorByte s)
    ++ progBytes s ++ eraseBytes s
    ++ [refusalByte s.mirror.lastRefusal.code, strByte s.mirror.lastRefusal.str, CmdClass.code s.mirror.lastRefusal.cls]
    ++ be24 s.mirror.lastRefusal.addr
    ++ [s.journal.outcome.kind.code, s.journal.outcome.result.code] ++ be24 s.journal.outcome.addr
    ++ [s.search.phase.code, hi s.scan.boxScan, lo s.scan.boxScan] ++ be16 s.scan.bus
    ++ be16s (s.scan.median.getD (-32768)) ++ be16 s.iso.value
    ++ [s.iso.status.code, s.search.result.code, BitVec.ofNat 8 s.search.suspects.length]
    ++ be16 s.search.steps
    ++ [strByte s.search.found, BitVec.ofNat 8 (grantsInUse s), BitVec.ofNat 8 s.arb.queue.length]

/-! ## The string records (10.6) -/

/-- The 32 bytes of a string's record (R163, R164). -/
def stringRecord (s : State) (i : Str) : List Byte :=
  if isPresent s i then
    let e := s.table[i]
    let v := s.evid[i]
    let m := s.meas[i]
    let q := s.seqs[i]
    [BitVec.ofNat 8 i.val, 0x01, e.recorded.code, e.target.code, q.state.code, e.coherence.code]
      ++ [v.latched, v.present, v.noted, refusalByte e.lastRefusal]
      ++ be16 (e.liveSlot.getD 0xFFFF) ++ [flagByte e.damaged, e.role.code]
      ++ be16s m.current ++ [flagByte m.saturated] ++ be16 m.voltage ++ [hi m.scan, lo m.scan]
      ++ [BitVec.ofNat 8 q.probation, BitVec.ofNat 8 q.qual, BitVec.ofNat 8 v.revCount, BitVec.ofNat 8 v.ovcCount,
        BitVec.ofNat 8 v.devWindows]
      ++ List.replicate 6 0x00
  else BitVec.ofNat 8 i.val :: List.replicate 31 0x00

/-! ## Serving a byte (R157, R158) -/

/-- The latch that serves an offset of the window sector: 0 the box record, s + 1 the record of string s; none above 831. -/
def latchOf (off : Nat) : Option (Fin 25) :=
  if off < 64 then some 0
  else if h : off < 832 then some ⟨(off - 64) / 32 + 1, by omega⟩
  else none

/-- The contents of a record as the owners' state stands. -/
def recordOf (s : State) (l : Fin 25) : List Byte :=
  if h : 0 < l.val then stringRecord s ⟨l.val - 1, by omega⟩ else boxRecord s

/-- The place of an offset within its record. -/
def placeOf (off : Nat) : Nat := if off < 64 then off else (off - 64) % 32

/-- A latch that no earlier byte of the transaction filled is filled (R158). -/
def fillLatch (s : State) (l : Fin 25) : State :=
  if s.window[l].filled then s else { s with window := s.window.set l ⟨true, recordOf s l⟩ }

/-- The latch instant of an offset: its record's latch is filled (R158). -/
def latchAt (s : State) (off : Nat) : State :=
  match latchOf off with
  | none => s
  | some l => fillLatch s l

/-- The byte that the window unit supplies at an offset, from its record's latch (R157, R158). -/
def windowByte (s : State) (off : Nat) : Byte :=
  match latchOf off with
  | none => 0xFF
  | some l => byteAt s.window[l].bytes (placeOf off)

/-- Every mark is cleared at a chip-select assertion (R158). -/
def clearMarks (s : State) : State :=
  { s with window := Vector.ofFn fun l => { s.window[l] with filled := false } }

end Sys2Proof.Machine
end

