-- ==== Sys2Proof/Machine/Transaction.lean ====
section
/-! DEFINITION. The transaction tracker (06): the record of a transaction, its bytes and its release at the two ports, the region map,
and the memory mirror with its resolutions. -/

namespace Sys2Proof.Machine

/-! ## The command table and the region map (R107, R110 to R112) -/

/-- The table entry of a code; a code of no entry, or of an entry of class NONE, is handled as BLOCK (R107). -/
def lookup (cfg : Config) (code : Byte) : CmdEntry :=
  (cfg.commands.find? fun e => e.cls != .none && e.code == code).getD ⟨code, .block, 0⟩

/-- The kind of sector `j` under a region map with the CONFIG sector at `cfgBase` (R111). -/
def sectorKind (cfg : Config) (cfgBase j : Nat) : RegionKind :=
  if j = cfgBase / 4096 then .config
  else ((cfg.regions.find? fun r => decide (r.base ≤ j) && decide (j < r.base + r.count)).map (·.kind)).getD .pass

/-- The kind of the sector that holds an address. -/
def kindAt (s : State) (t : Txn) (a : Nat) : RegionKind := sectorKind t.cfg s.cfgBase (a / 4096)

/-- The address bytes of a class (R108). -/
def CmdClass.addrLen : CmdClass → Nat
  | .read | .readFast | .program | .erase4k | .erase64k => 3
  | .none | .status | .wren | .wrdi | .eraseAll | .suspend | .resume | .pass | .block => 0

/-! ## The record (R107, R113, R115) -/

/-- The capture condition as the mirror stands (R113). -/
def captureCond (s : State) : CaptureCond :=
  match s.mirror.state with
  | .idle => .always
  | .eraseSuspended =>
    match s.journal.erase with
    | some c => .outside c.base c.size
    | none => .always
  | .unknown | .busyProgram | .busyErase | .busyProgramInSuspend => .never

/-- Is a byte at an address copied to capture? -/
def CaptureCond.holds (c : CaptureCond) (a : Nat) : Bool :=
  match c with
  | .never => false
  | .always => true
  | .outside base size => !(decide (base ≤ a) && decide (a < base + size))

/-- A new record; a code that did not complete has no class (log 17). -/
def newTxn (s : State) (code : Option Byte) : Txn where
  code := code
  cls := code.map fun c => (lookup s.cfg c).cls
  dummy := (code.map fun c => if (lookup s.cfg c).cls = .readFast then (lookup s.cfg c).dummy else 0).getD 0
  cfg := s.cfg
  cond := captureCond s
  count := 0
  addrBytes := []
  start := 0
  addr := 0
  image := List.replicate 256 none
  stream := []

/-- A whole byte of the address phase; the last gives the address modulo M (R110). No rule gives the order of the three bytes: that the
first is the most significant is presumed (log 37). -/
def Txn.addressByte (t : Txn) (b : Byte) : Txn :=
  let bs := t.addrBytes ++ [b]
  let a := if bs.length = 3 then beNat bs % t.cfg.memSize else 0
  { t with count := t.count + 1, addrBytes := bs, start := a, addr := a }

/-- A whole byte that is only counted. -/
def Txn.countByte (t : Txn) : Txn := { t with count := t.count + 1 }

/-- A whole data byte of a read, captured or not; the running address advances (R110). -/
def Txn.readByte (t : Txn) (captured : Option Byte) : Txn :=
  { t with count := t.count + 1, addr := (t.addr + 1) % t.cfg.memSize, stream := captured :: t.stream }

/-- The address of the page of a program. -/
def Txn.page (t : Txn) : Nat := t.start - t.start % 256

/-- A whole data byte of a program, at its wrapped offset in the image (R115). -/
def Txn.programByte (t : Txn) (b : Byte) : Txn :=
  { t with
    count := t.count + 1
    addr := t.page + (t.addr + 1) % 256
    image := t.image.set (t.addr % 256) (some b) }

def State.setTxn (s : State) (t : Txn) : State := { s with txn := some t }

/-! ## The ports (R103 to R105) -/

/-- A whole byte crosses the ports: the memory receives it, and `b` is returned. -/
def State.exchange (s : State) (x : Xfer) (b : Byte) : State :=
  { s with ports := { s.ports with returned := b :: s.ports.returned, memReceived := x.mosi :: s.ports.memReceived } }

/-- Bytes returned while nothing is forwarded. -/
def State.returnOnly (s : State) (bs : List Byte) : State :=
  { s with
    ports := { s.ports with
      returned := bs.reverse ++ s.ports.returned
      returnedTail := if bs.isEmpty then s.ports.returnedTail else none } }

/-- The bits of an incomplete last byte as they were returned. -/
def tailOf (r : Release) (b : Byte) : Option Release := if r.bits = 0 then none else some ⟨r.bits, ⟨r.x.mosi, b⟩⟩

/-- The controller's release: the transaction ends, at the memory port as `e` says. -/
def State.release (s : State) (r : Release) (b : Byte) (e : MemEnd) : State :=
  { s with
    txn := none
    ports := { s.ports with ctlSelected := false, memSelected := false, returnedTail := tailOf r b, memEnd := e } }

/-- The release of a chip select that is not forwarded. -/
def State.releaseUnforwarded (s : State) (r : Release) (b : Byte) : State :=
  { s with ports := { s.ports with ctlSelected := false, returnedTail := tailOf r b } }

/-- The level of the last bit sent before a release. -/
def lastLevel (p : Ports) (r : Release) : Bool :=
  if r.bits = 0 then (p.memReceived.headD 0).getLsbD 0 else r.x.mosi.getLsbD (8 - r.bits.val)

/-- A byte whose leading bits were returned before a reset cut it, and the others after. -/
def spliceTail (tail : Option Release) (b : Byte) : Byte :=
  match tail with
  | none => b
  | some r => (r.x.miso &&& ~~~((0xFF : Byte) >>> r.bits.val)) ||| (b &&& ((0xFF : Byte) >>> r.bits.val))

/-- The byte of place `k` that is returned on a bus that is not forwarded (R105): 0xFF in reset, a free value after a release that
found chip select asserted (log 7). The first completes a byte that the reset cut. A byte that the reset release falls into is one or the
other as a whole, by the order of the commands, which is the model's choice (log 38). -/
def unforwardedByte (s : State) (k : Nat) : Byte :=
  spliceTail (if k = 0 then s.ports.returnedTail else none) (if s.inReset then 0xFF else Config.freeByte (s.free + k))

/-- Bytes on a bus that is not forwarded. -/
def unforwarded (s : State) (xs : List Xfer) (rel : Option Release) : State :=
  let n := xs.length
  let s' := (s.returnOnly ((upTo n).map (unforwardedByte s))).spendFree (if s.inReset then 0 else n + 1)
  match rel with
  | none => s'
  | some r => s'.releaseUnforwarded r (unforwardedByte s n)

/-- One command of a bus row: its bytes one by one and then its release. A row that does not match the class of the transaction
in progress cannot occur (log 2). -/
def busCommand (s : State) (mine : Option CmdClass → Bool) (xs : List Xfer) (rel : Option Release)
    (byte : State → Xfer → State) (finally_ : State → Txn → Release → State) : State :=
  match s.txn with
  | none => if s.ports.ctlSelected then unforwarded s xs rel else s
  | some t =>
    if mine t.cls then
      let s' := xs.foldl byte s
      match rel, s'.txn with
      | some r, some t' => finally_ s' t' r
      | _, _ => s'
    else s

/-- A byte that passes both ways and is counted. -/
def passByte (s : State) (x : Xfer) : State :=
  match s.txn with
  | none => s
  | some t => (s.setTxn t.countByte).exchange x x.miso

/-! ## The mirror (R116 to R119) -/

def State.mirrorTo (s : State) (x : MirrorState) : State := { s with mirror := { s.mirror with state := x } }

def State.setWel (s : State) (w : Wel) : State := { s with mirror := { s.mirror with wel := w } }

def State.setFlag (s : State) (b : Bool) : State := { s with mirror := { s.mirror with refusalFlag := b } }

/-- One event ends the pending program, by `endProg`, and the pending erase, with the result `r`: the outcome that stands is a
free value (R155; log 12). -/
def endBoth (s : State) (endProg : State → State) (r : CommitResult) : State :=
  let a := endProg s
  let b := failErase a r
  let eraseLast := Config.freeEraseLast s.free || s.journal.prog.isNone
  let b := b.setJournal { b.journal with outcome := if eraseLast then b.journal.outcome else a.journal.outcome }
  b.spendFree 1

/-- The table of R116. -/
def moveMirror (s : State) (busy susp err : Bool) : State :=
  match s.mirror.state with
  | .unknown => s.mirrorTo (if busy || susp then .unknown else .idle)
  | .idle => s.mirrorTo (if busy || susp then .unknown else .idle)
  | .busyProgram =>
    if busy then s else (resolveProgram s err).mirrorTo (if susp then .unknown else .idle)
  | .busyErase =>
    if busy then s
    else if susp then (pauseErase s).mirrorTo .eraseSuspended
    else (resolveErase s err).mirrorTo .idle
  | .eraseSuspended =>
    if busy then (resumeErase s).mirrorTo .busyErase
    else if susp then s
    else (failErase s .unresolved).mirrorTo .idle
  | .busyProgramInSuspend =>
    if busy then s
    else if susp then (resolveProgram s err).mirrorTo .eraseSuspended
    else (endBoth s (fun s => resolveProgram s err) .unresolved).mirrorTo .idle

/-- A status observation (R114, R116), by the bit positions in force for the transaction. -/
def observe (s : State) (cfg : Config) (b : Byte) : State :=
  moveMirror (s.setWel (if b.getLsbD cfg.welBit then .set else .clear))
    (b.getLsbD cfg.busyBit) (b.getLsbD cfg.suspBit) (b.getLsbD cfg.errBit)

/-- The refusal flag merged into a status byte (R127). -/
def mergeFlag (cfg : Config) (flag : Bool) (b : Byte) : Byte :=
  if flag then b ||| BitVec.ofNat 8 (2 ^ cfg.errBit) else b

/-! ## Incomplete last bytes (R103, R127, R157) -/

/-- The byte whose leading bits an incomplete last byte of a read carries (R157). -/
def readTail (s : State) (t : Txn) (r : Release) : Byte :=
  if 3 + t.dummy ≤ t.count ∧ kindAt s t t.addr = .window then windowByte s (t.addr % 4096) else r.x.miso

/-- The byte whose leading bits the box controller has read when a transaction ends within it (log 21). -/
def tailByte (s : State) (t : Txn) (r : Release) : Byte :=
  match t.cls with
  | some .read | some .readFast => readTail s t r
  | some .status => mergeFlag t.cfg s.mirror.refusalFlag r.x.miso
  | _ => r.x.miso

/-- The clean release of a WREN (R117). -/
def wrenMirror (s : State) : State :=
  match s.mirror.state with
  | .idle | .eraseSuspended => s.setWel .set
  | .unknown => s.setWel .unknown
  | .busyProgram | .busyErase | .busyProgramInSuspend => s

/-- The clean release of a RESUME (R117). -/
def resumeMirror (s : State) : State :=
  match s.mirror.state with
  | .eraseSuspended => (resumeErase s).mirrorTo .busyErase
  | .unknown | .idle | .busyProgram | .busyErase | .busyProgramInSuspend => s

end Sys2Proof.Machine
end

