-- ==== Sys2Proof/Machine/Verdict.lean ====
section
/-! DEFINITION. Verdicts on programs and erases (06, section 6.8), what an accepted one becomes (R118, R125, R171), and the refusal
(R126). -/

namespace Sys2Proof.Machine

/-! ## Spans (R112) -/

/-- The base and the size of the sectors or the page that a program or an erase of a class can change. -/
def spanOf (t : Txn) (c : CmdClass) : Nat × Nat :=
  match c with
  | .program => (t.page, 256)
  | .erase4k => (t.start - t.start % 4096, 4096)
  | .erase64k => (t.start - t.start % 65536, 65536)
  | .eraseAll => (0, t.cfg.memSize)
  | .none | .read | .readFast | .status | .wren | .wrdi | .suspend | .resume | .pass | .block => (0, 0)

/-- The sectors that a run of bytes from `base` touches. -/
def sectorsOf (base size : Nat) : List Nat := (upTo ((size + 4095) / 4096)).map (base / 4096 + ·)

/-- The kinds that the span touches, in sector order. -/
def spanKinds (s : State) (t : Txn) (c : CmdClass) : List RegionKind :=
  (sectorsOf (spanOf t c).1 (spanOf t c).2).map (sectorKind t.cfg s.cfgBase)

def touches (s : State) (t : Txn) (c : CmdClass) (k : RegionKind) : Bool := (spanKinds s t c).contains k

/-- R112: a protected transaction. -/
def isProtected (s : State) (t : Txn) (c : CmdClass) : Bool := (spanKinds s t c).any (· != .pass)

/-! ## The checks (R120 to R124) -/

/-- A pending commit is held. -/
def commitPending (s : State) : Bool := s.journal.prog.isSome || s.journal.erase.isSome

/-- R122: the pending erase of a suspension does not stand in the way of this program. -/
def besideSuspended (s : State) (t : Txn) (c : CmdClass) : Bool :=
  c == .program && s.mirror.state == .eraseSuspended && s.journal.prog.isNone
    && (touches s t c .journal
      || ((touches s t c .config || touches s t c .guarded)
        && match s.journal.erase with
          | some e => !(decide (e.base ≤ t.page) && decide (t.page < e.base + e.size))
          | none => true))

/-- The journal tracker's verdict (R136, R147). -/
def journalVerdict (s : State) (t : Txn) (c : CmdClass) : Verdict :=
  if c = .program then appendVerdict s t.page t.image
  else eraseVerdict s ((t.start - ringBase s) / 4096)

/-- The checks of R120 on a protected transaction, in their order. -/
def protectedVerdict (s : State) (t : Txn) (c : CmdClass) : Verdict :=
  if s.mirror.state = .unknown then .refused .memoryStateUnknown none
  else if s.mirror.wel ≠ .set then .refused .welNotSet none
  else if commitPending s && !besideSuspended s t c then .refused .commitPending none
  else if c = .eraseAll then .refused .chipErase none
  else if touches s t c .window then .refused .windowWrite none
  else if touches s t c .journal && c == .erase64k then .refused .eraseSpan none
  else if touches s t c .config && !s.inputs.maintActive then .refused .configWrite none
  else if touches s t c .guarded && !s.inputs.maintActive then .refused .guarded none
  else if touches s t c .journal then journalVerdict s t c
  else .accepted

/-- The verdict at a clean release (R120, R124). -/
def verdict (s : State) (t : Txn) (c : CmdClass) : Verdict :=
  if isProtected s t c then protectedVerdict s t c
  else if commitPending s then .refused .commitPending none
  else .accepted

/-! ## Acceptance -/

/-- The marks of the segments that a CONFIG program writes are cleared (R171). -/
def invalidateWritten (s : State) (t : Txn) : State :=
  let written := fun (j : Fin 8) =>
    decide (t.page = s.cfgBase) && ((t.image.drop (32 * j.val)).take 32).any Option.isSome
  { s with capture := { s.capture with
      segments := Vector.ofFn fun j =>
        if written j then { s.capture.segments[j] with valid := false } else s.capture.segments[j] } }

/-- The marks of all eight segments are cleared (R171). -/
def invalidateAll (s : State) : State :=
  { s with capture := { s.capture with
      segments := Vector.ofFn fun j => { s.capture.segments[j] with valid := false } } }

/-- The kind that a CONFIG or GUARDED commit shows (R161). -/
def commitKindOf (s : State) (t : Txn) (c : CmdClass) : RegionKind := if touches s t c .config then .config else .guarded

/-- What an accepted protected program becomes (R125, R141, R154, R171). -/
def commitProgram (s : State) (t : Txn) : State :=
  if touches s t .program .journal then acceptAppend s t.image
  else
    let s' := s.setJournal { s.journal with
      prog := some ⟨commitKindOf s t .program, t.page, 0, [], s.now + ms s.cfg.tPc⟩ }
    if touches s t .program .config then invalidateWritten s' t else s'

/-- What an accepted protected erase becomes (R125, R148, R153, R154, R171). -/
def commitErase (s : State) (t : Txn) (c : CmdClass) : State :=
  if touches s t c .journal then acceptJournalErase s ((t.start - ringBase s) / 4096)
  else
    let s' := startErase s (commitKindOf s t c) (spanOf t c).1 (spanOf t c).2 none false
    if touches s t c .config then invalidateAll s' else s'

/-- The mirror at a clean release of a program or an erase at the memory port (R118, R127). -/
def releasedMirror (s : State) (protect : Bool) (c : CmdClass) : State :=
  let x :=
    if !protect then MirrorState.unknown
    else if c = .program then
      (if s.mirror.state = .eraseSuspended then .busyProgramInSuspend else .busyProgram)
    else .busyErase
  ((s.mirrorTo x).setWel .clear).setFlag false

/-- An accepted program or erase, forwarded with its clean release. -/
def forwardWrite (s : State) (t : Txn) (c : CmdClass) (r : Release) : State :=
  let s' := releasedMirror (s.release r r.x.miso .asSent) (isProtected s t c) c
  if isProtected s t c then (if c = .program then commitProgram s' t else commitErase s' t c) else s'

/-! ## Refusal (R104, R126, R127) -/

/-- The address a refusal reports: 0 for a class without one. -/
def refusedAddr (t : Txn) (c : CmdClass) : Nat := if CmdClass.addrLen c = 0 then 0 else t.start

/-- R19: the last refusal code of the string that a refusal names. -/
def noteRefusal (s : State) (code : RefusalCode) (str : Option Str) : State :=
  match str with
  | some i => s.setEntry i { s.table[i] with lastRefusal := some code }
  | none => s

/-- A refusal, at the controller's release. -/
def refuse (s : State) (t : Txn) (c : CmdClass) (r : Release) (code : RefusalCode) (str : Option Str) : State :=
  let s' := s.release r r.x.miso (.partialByte (lastLevel s.ports r))
  let s' := { s' with mirror := { s'.mirror with
    refusalFlag := true, wel := .clear, lastRefusal := ⟨some code, str, c, refusedAddr t c⟩ } }
  noteRefusal s' code str

/-- A release that is not clean (R108, R117). -/
def uncleanRelease (s : State) (r : Release) : State := (s.release r r.x.miso .asSent).setWel .clear

/-- Is the release of a program or an erase clean (R108)? -/
def cleanRelease (t : Txn) (c : CmdClass) (r : Release) : Bool :=
  r.bits == 0 && decide (CmdClass.addrLen c ≤ t.count) && (c != .program || decide (4 ≤ t.count))

/-- The release of a program or an erase: not clean, refused, or forwarded. -/
def endWrite (c : CmdClass) (s : State) (t : Txn) (r : Release) : State :=
  if cleanRelease t c r then
    match verdict s t c with
    | .refused code str => refuse s t c r code str
    | .accepted => forwardWrite s t c r
  else uncleanRelease s r

/-- The release of a program; an accepted append makes its strings PENDING at the same event (R11, R13). -/
def endProgram (s : State) (t : Txn) (r : Release) : State :=
  if cleanRelease t .program r && touches s t .program .journal && verdict s t .program == .accepted then
    finish s (forwardWrite s t .program r)
  else endWrite .program s t r

end Sys2Proof.Machine
end

