-- ==== Sys2Proof/Machine/Bus.lean ====
section
/-! DEFINITION. The commands of the bus (06): chip select, reads, status, the write enables, programs and erases, suspension, and the
classes PASS and BLOCK. -/

namespace Sys2Proof.Machine

/-- CHIP_SELECT_ASSERT (R103, R107, R158): a new record, every latch mark cleared, and the command byte passed both ways. In reset
nothing is forwarded, and the byte read is 0xFF (R105). -/
def execChipSelectAssert (dt : Nat) (code : Option Xfer) (s : State) : Host.Outcome State Fault Refusal :=
  let s := clearMarks (s.advance dt)
  .next
    (if s.inReset then
      { s with ports := { s.ports with
          ctlSelected := true, returned := (code.map fun _ => 0xFF).toList, returnedTail := none } }
    else
      { s with
        ports := ⟨true, (code.map (·.miso)).toList, none, true, (code.map (·.mosi)).toList, .none⟩
        txn := some (newTxn s (code.map (·.mosi))) })

/-! ## Reads (R110, R113, R157) -/

/-- The address of the next data byte is known: in the window, the latch of its record is filled (R158; log 36). -/
def latchNext (s : State) (t : Txn) : State :=
  if kindAt s t t.addr = .window then latchAt s (t.addr % 4096) else s

/-- A whole byte of a read is exchanged, and the record `t` after it stands; the address of a data byte to come is known. -/
def passRead (s : State) (t : Txn) (x : Xfer) (b : Byte) : State := latchNext ((s.setTxn t).exchange x b) t

/-- A whole data byte of a read, substituted in the window. -/
def dataByte (s : State) (t : Txn) (x : Xfer) : State :=
  if kindAt s t t.addr = .window then passRead s (t.readByte none) x (windowByte s (t.addr % 4096))
  else passRead s (t.readByte (if t.cond.holds t.addr then some x.miso else none)) x x.miso

/-- A whole byte of a read: address, dummy or data. The last byte of the address phase makes the address of the first data byte known,
before any dummy byte. -/
def readByte (s : State) (x : Xfer) : State :=
  match s.txn with
  | none => s
  | some t =>
    if t.count < 2 then (s.setTxn (t.addressByte x.mosi)).exchange x x.miso
    else if t.count = 2 then passRead s (t.addressByte x.mosi) x x.miso
    else if t.count < 3 + t.dummy then (s.setTxn t.countByte).exchange x x.miso
    else dataByte s t x

/-- The release of a read: capture, the journal and the adoptions (R145, R151, R170 to R179). -/
def endRead (s : State) (t : Txn) (r : Release) : State :=
  finish s (readEffects (s.release r (readTail s t r) .asSent) t)

def execRead (dt : Nat) (xs : List Xfer) (rel : Option Release) (s : State) : Host.Outcome State Fault Refusal :=
  .next (busCommand (s.advance dt) (· == some .read) xs rel readByte endRead)

def execReadFast (dt : Nat) (xs : List Xfer) (rel : Option Release) (s : State) : Host.Outcome State Fault Refusal :=
  .next (busCommand (s.advance dt) (· == some .readFast) xs rel readByte endRead)

/-! ## Status (R114, R116, R127) -/

/-- A whole status byte: an observation, each an event of its own; the copy returned carries the refusal flag. -/
def statusByte (s : State) (x : Xfer) : State :=
  match s.txn with
  | none => s
  | some t =>
    ((finish s (observe s t.cfg x.miso)).setTxn t.countByte).exchange x
      (mergeFlag t.cfg s.mirror.refusalFlag x.miso)

def endStatus (s : State) (t : Txn) (r : Release) : State :=
  s.release r (mergeFlag t.cfg s.mirror.refusalFlag r.x.miso) .asSent

def execStatus (dt : Nat) (xs : List Xfer) (rel : Option Release) (s : State) : Host.Outcome State Fault Refusal :=
  .next (busCommand (s.advance dt) (· == some .status) xs rel statusByte endStatus)

/-! ## Commands without an address (R108, R117) -/

/-- The release of a command of classes WREN, WRDI, SUSPEND, RESUME: its effect if the release is clean. -/
def endPlain (effect : State → State) (s : State) (_ : Txn) (r : Release) : State :=
  if r.bits = 0 then effect (s.release r r.x.miso .asSent) else uncleanRelease s r

def execWren (dt : Nat) (xs : List Xfer) (rel : Option Release) (s : State) : Host.Outcome State Fault Refusal :=
  .next (busCommand (s.advance dt) (· == some .wren) xs rel passByte (endPlain wrenMirror))

def execWrdi (dt : Nat) (xs : List Xfer) (rel : Option Release) (s : State) : Host.Outcome State Fault Refusal :=
  .next (busCommand (s.advance dt) (· == some .wrdi) xs rel passByte (endPlain (·.setWel .clear)))

/-- SUSPEND changes nothing at its release: the suspension is taken from status (R117). -/
def execSuspend (dt : Nat) (xs : List Xfer) (rel : Option Release) (s : State) : Host.Outcome State Fault Refusal :=
  .next (busCommand (s.advance dt) (· == some .suspend) xs rel passByte (endPlain id))

def execResume (dt : Nat) (xs : List Xfer) (rel : Option Release) (s : State) : Host.Outcome State Fault Refusal :=
  .next (busCommand (s.advance dt) (· == some .resume) xs rel passByte (endPlain resumeMirror))

/-! ## Programs and erases (R115, R120) -/

/-- A whole byte of a program: address or data. -/
def programByte (s : State) (x : Xfer) : State :=
  match s.txn with
  | none => s
  | some t =>
    (s.setTxn (if t.count < 3 then t.addressByte x.mosi else t.programByte x.mosi)).exchange x x.miso

/-- A whole byte of an erase: address, or a further byte that is only counted (R108). -/
def eraseByte (s : State) (x : Xfer) : State :=
  match s.txn with
  | none => s
  | some t => (s.setTxn (if t.count < 3 then t.addressByte x.mosi else t.countByte)).exchange x x.miso

def execProgram (dt : Nat) (xs : List Xfer) (rel : Option Release) (s : State) : Host.Outcome State Fault Refusal :=
  .next (busCommand (s.advance dt) (· == some .program) xs rel programByte endProgram)

def execErase4k (dt : Nat) (xs : List Xfer) (rel : Option Release) (s : State) : Host.Outcome State Fault Refusal :=
  .next (busCommand (s.advance dt) (· == some .erase4k) xs rel eraseByte (endWrite .erase4k))

def execErase64k (dt : Nat) (xs : List Xfer) (rel : Option Release) (s : State) : Host.Outcome State Fault Refusal :=
  .next (busCommand (s.advance dt) (· == some .erase64k) xs rel eraseByte (endWrite .erase64k))

/-- A clean chip erase is always refused (R123). -/
def execEraseAll (dt : Nat) (xs : List Xfer) (rel : Option Release) (s : State) : Host.Outcome State Fault Refusal :=
  .next (busCommand (s.advance dt) (· == some .eraseAll) xs rel passByte (endWrite .eraseAll))

/-! ## PASS and BLOCK (R109) -/

def endPass (s : State) (_ : Txn) (r : Release) : State := s.release r r.x.miso .asSent

def execPass (dt : Nat) (xs : List Xfer) (rel : Option Release) (s : State) : Host.Outcome State Fault Refusal :=
  .next (busCommand (s.advance dt) (· == some .pass) xs rel passByte endPass)

/-- A BLOCK transaction is refused at every release. A command byte that did not complete is no command: its release is
forwarded (log 17). -/
def endBlock (s : State) (t : Txn) (r : Release) : State :=
  if t.cls.isNone then endPass s t r else refuse s t .block r .blockedCommand none

def execBlock (dt : Nat) (xs : List Xfer) (rel : Option Release) (s : State) : Host.Outcome State Fault Refusal :=
  .next (busCommand (s.advance dt) (fun c => c == some .block || c == none) xs rel passByte endBlock)

end Sys2Proof.Machine
end

