-- ==== Sys2Proof/Machine/Commit.lean ====
section
/-! DEFINITION. The expiries of the commit timers (06 R119; 07 R144, R150, R153, R154). -/

namespace Sys2Proof.Machine

/-- What the expiry of the program commit timer ends: the program, and with it the erase of a suspension (R119). -/
def programTimeout (s : State) : State :=
  (if s.mirror.state = .busyProgramInSuspend then endBoth s expireProgram .commitTimeout else expireProgram s).mirrorTo .unknown

/-- PROGRAM_COMMIT_TIMEOUT (R119, R144). -/
def execProgramCommitTimeout (dt : Nat) (s : State) : Host.Outcome State Fault Refusal :=
  let s := s.advance dt
  match s.journal.prog with
  | none => .next s
  | some c => .next (if c.expiry ≤ s.now then finish s (programTimeout s) else s)

/-- Has the running erase timer expired? A paused one cannot (R119). -/
def eraseExpired (c : EraseCommit) (now : Nat) : Bool :=
  match c.timer with
  | .running t => decide (t ≤ now)
  | .paused _ => false

/-- ERASE_COMMIT_TIMEOUT (R119, R150). -/
def execEraseCommitTimeout (dt : Nat) (s : State) : Host.Outcome State Fault Refusal :=
  let s := s.advance dt
  match s.journal.erase with
  | none => .next s
  | some c => .next (if eraseExpired c s.now then (failErase s .commitTimeout).mirrorTo .unknown else s)

end Sys2Proof.Machine
end

