-- ==== Sys2Proof/Machine/Inputs.lean ====
section
/-! DEFINITION. The commands of the SHDN and MAINT inputs (03, R55 to R58). -/

namespace Sys2Proof.Machine

/-- The debounce times (R55). -/
def shdnTime : Nat := ms 10

def maintTime : Nat := ms 50

/-- The timing of a debouncer whose raw level stands at `raw` from `now` on: it runs while raw and debounced level differ. -/
def debounce (raw active : Bool) (now time : Nat) : Option Nat := if raw = active then none else some (now + time)

/-- SHDN_LEVEL_CHANGE (R55); in reset the level is not taken (R167). -/
def execShdnLevelChange (dt : Nat) (asserted : Bool) (s : State) : Host.Outcome State Fault Refusal :=
  let s := s.advance dt
  .next
    (if s.inputs.shdnRaw = asserted then s
    else { s with inputs := { s.inputs with
        shdnRaw := asserted
        shdnTiming := if s.inReset then none else debounce asserted s.inputs.shdnActive s.now shdnTime } })

/-- R56: the present strings whose switch is CLOSED. -/
def shutdownSnapshot (s : State) : List Str := (presentStrings s).filter fun i => s.seqs[i].state == .closed

/-- SHUTDOWN_ACTIVATION (R56). -/
def execShutdownActivation (dt : Nat) (s : State) : Host.Outcome State Fault Refusal :=
  let s := s.advance dt
  .next
    (if s.inputs.shdnRaw && !s.inputs.shdnActive && due s.inputs.shdnTiming s.now then
      finish s { s with inputs := { s.inputs with
        shdnActive := true, shdnTiming := none, snapshot := shutdownSnapshot s } }
    else s)

/-- The latches of OPT_SDL at a shutdown release (R57). -/
def latchSnapshot (s : State) : State :=
  if s.cfg.optSdl then
    { s with evid := mapAll (fun i e =>
        if isPresent s i && s.inputs.snapshot.contains i then e.latchHeld .other else e) s.evid }
  else s

/-- SHUTDOWN_RELEASE (R57). -/
def execShutdownRelease (dt : Nat) (s : State) : Host.Outcome State Fault Refusal :=
  let s := s.advance dt
  .next
    (if !s.inputs.shdnRaw && s.inputs.shdnActive && due s.inputs.shdnTiming s.now then
      let s' := latchSnapshot s
      finish s { s' with inputs := { s'.inputs with shdnActive := false, shdnTiming := none, snapshot := [] } }
    else s)

/-- MAINT_LEVEL_CHANGE (R55). -/
def execMaintLevelChange (dt : Nat) (asserted : Bool) (s : State) : Host.Outcome State Fault Refusal :=
  let s := s.advance dt
  .next
    (if s.inputs.maintRaw = asserted then s
    else { s with inputs := { s.inputs with
        maintRaw := asserted
        maintTiming := if s.inReset then none else debounce asserted s.inputs.maintActive s.now maintTime } })

/-- MAINT_ACTIVATION (R58). -/
def execMaintActivation (dt : Nat) (s : State) : Host.Outcome State Fault Refusal :=
  let s := s.advance dt
  .next
    (if s.inputs.maintRaw && !s.inputs.maintActive && due s.inputs.maintTiming s.now then
      { s with inputs := { s.inputs with maintActive := true, maintTiming := none } }
    else s)

/-- MAINT_RELEASE (R58): it undoes nothing that was accepted. -/
def execMaintRelease (dt : Nat) (s : State) : Host.Outcome State Fault Refusal :=
  let s := s.advance dt
  .next
    (if !s.inputs.maintRaw && s.inputs.maintActive && due s.inputs.maintTiming s.now then
      { s with inputs := { s.inputs with maintActive := false, maintTiming := none } }
    else s)

end Sys2Proof.Machine
end

