-- ==== Sys2Proof/Machine/Evidence.lean ====
section
/-! DEFINITION. The evaluation of measurement-based causes at a scan completion (03, R41 to R48) and the WELD present flag (R51). -/

namespace Sys2Proof.Machine

/-- The three classes of R41. -/
inductive EvalClass where
  | running | probation | notEvaluated
  deriving DecidableEq, Repr

/-- R41: a string's class, from its sequencer as the completion found it and its record. -/
def evalClass (q : Seq) (m : Meas) : EvalClass :=
  if q.state = .closed ∧ m.valid = true then (if q.probation = 0 then .running else .probation) else .notEvaluated

/-- The REVERSE condition (R42). -/
def reverseCond (cfg : Config) (m : Meas) : Bool := decide (m.current ≤ -(cfg.iRev : Int))

/-- The OVERCURRENT condition (R42). -/
def overcurrentCond (cfg : Config) (m : Meas) : Bool :=
  decide ((cfg.iMax : Int) ≤ m.current) || (m.saturated && decide (0 < m.current))

/-- The DEVIATION per-scan condition (R44). -/
def deviationCond (cfg : Config) (median : Option Int) (m : Meas) : Bool :=
  match median with
  | none => false
  | some md =>
    decide ((cfg.iDevMin : Int) ≤ md) && decide (m.current * 256 < md * (256 - (cfg.devFrac : Int)))

/-- A confirmation (R43). -/
def Evidence.confirm (e : Evidence) (c : Cause) (enable : Bool) : Evidence :=
  if CauseSet.has e.latched c then e
  else if enable then e.latch c
  else { e with noted := CauseSet.add e.noted c }

/-- The present flag takes the verdict; a cause that is not present is no longer noted (R40, R42). -/
def Evidence.judge (e : Evidence) (c : Cause) (present : Bool) : Evidence :=
  { e with
    present := CauseSet.put e.present c present
    noted := if present then e.noted else CauseSet.remove e.noted c }

/-- The verdict on a cause, and its confirmation where it is confirmed. -/
def Evidence.evaluate (e : Evidence) (c : Cause) (present confirmed enable : Bool) : Evidence :=
  if present && confirmed then (e.judge c true).confirm c enable else e.judge c present

/-- A confirm counter (R42). -/
def countUp (n : Nat) (cond : Bool) : Nat := if cond then min 255 (n + 1) else 0

/-- REVERSE and OVERCURRENT of a running string (R42). -/
def Evidence.evalCurrent (e : Evidence) (cfg : Config) (m : Meas) : Evidence :=
  let rev := reverseCond cfg m
  let ovc := overcurrentCond cfg m
  let r := countUp e.revCount rev
  let o := countUp e.ovcCount ovc
  let e := { e with revCount := r, ovcCount := o }
  (e.evaluate .reverse rev (decide (cfg.cRev ≤ r)) cfg.enRev).evaluate .overcurrent ovc (decide (cfg.cOvc ≤ o)) cfg.enOvc

/-- The deviation window of a running string (R45, R46). -/
def Evidence.evalWindow (e : Evidence) (cfg : Config) (cond : Bool) : Evidence :=
  let scans := e.winScans + 1
  let deviants := e.winDeviant + (if cond then 1 else 0)
  if cfg.devWindow ≤ scans then
    let deviant := decide (cfg.devWindow < 2 * deviants)
    let n := countUp e.devWindows deviant
    { e with winScans := 0, winDeviant := 0, devWindows := n }.evaluate .deviation deviant (decide (cfg.nDev ≤ n)) cfg.enDev
  else { e with winScans := scans, winDeviant := deviants }

/-- REVERSE, OVERCURRENT and DEVIATION of a string that is not evaluated for them (R48). -/
def Evidence.clearRunning (e : Evidence) : Evidence :=
  { ((e.judge .reverse false).judge .overcurrent false).judge .deviation false with
    revCount := 0, ovcCount := 0, winScans := 0, winDeviant := 0, devWindows := 0 }

/-- The evaluation of one string (R41). -/
def Evidence.eval (e : Evidence) (cfg : Config) (q : Seq) (m : Meas) (median : Option Int) : Evidence :=
  match evalClass q m with
  | .running =>
    ((e.judge .probation false).evalCurrent cfg m).evalWindow cfg (deviationCond cfg median m)
  | .probation => e.clearRunning.evaluate .probation (reverseCond cfg m || overcurrentCond cfg m) true cfg.enPrb
  | .notEvaluated => e.clearRunning.judge .probation false

/-- R51: WELD is present while a FAILED contact's sample reads closed. -/
def Evidence.judgeWeld (e : Evidence) (q : Seq) (m : Meas) : Evidence :=
  { e with present := CauseSet.put e.present .weld (q.state == .failed && m.feedback == some true) }

/-- The evidence unit's event at a scan completion: every present string, from the records and from the sequencers as the
completion found them. The first completion after reset evaluates none (R41). -/
def evaluateAll (s : State) : State :=
  { s with
    evid := mapAll (fun i e =>
      if isPresent s i then
        let e' := if s.scan.found then e.eval s.cfg s.seqs[i] s.meas[i] s.scan.median else e
        e'.judgeWeld s.seqs[i] s.meas[i]
      else e) s.evid }

end Sys2Proof.Machine
end

