-- ==== Sys2Proof/Machine/Measurement.lean ====
section
/-! DEFINITION. The commands of the scan unit, the insulation monitor and the search unit's timers (02, 05). -/

namespace Sys2Proof.Machine

/-! ## The scan (R22, R23, R28 to R31) -/

/-- A scan starts: the timer is reloaded, and the scan takes N, I_fs and V_fs (R22). -/
def startScan (s : State) : State :=
  { s with scan := { s.scan with
      timer := some (s.now + ms s.cfg.tScan)
      job := some ⟨s.now, s.now + s.cfg.tScan * 800, s.cfg.stringCount, s.cfg.iFs, s.cfg.vFs⟩ } }

/-- SCAN_START: the scan timer has expired, and the last scan has completed. -/
def execScanStart (dt : Nat) (s : State) : Host.Outcome State Fault Refusal :=
  let s := s.advance dt
  .next (if due s.scan.timer s.now && s.scan.job.isNone then startScan s else s)

/-- The record of one string (R24 to R28). -/
def measure (job : ScanJob) (number : Half) (x : Sample) : Meas where
  valid := true
  current := currentOf job.iFs x.current
  saturated := saturatedOf x.current
  voltage := voltageOf job.vFs x.voltage
  feedback := some x.closed
  scan := number

/-- R29: a string eligible for the median, its sequencer as the completion found it. -/
def eligible (s : State) (meas : Vector Meas 24) (i : Str) : Bool :=
  isPresent s i && s.seqs[i].state == .closed && s.seqs[i].probation == 0 && meas[i].valid && !meas[i].saturated

/-- The lower middle of the eligible currents; none with fewer than three (R29). -/
def medianOf (xs : List Int) : Option Int :=
  if 3 ≤ xs.length then (xs.insertionSort (· ≤ ·))[(xs.length - 1) / 2]? else none

/-- The records of a completion (R28): every string present at the completion and converted by the scan. -/
def writeRecords (s : State) (job : ScanJob) (samples : Vector Sample 24) (bus : Int) : State :=
  let number := s.scan.number + 1
  let meas := mapAll (fun i m =>
    if isPresent s i && decide (i.val < job.count) then measure job number samples[i] else m) s.meas
  { s with
    meas := meas
    scan := { s.scan with
      job := none, number := number, boxValid := true, boxScan := number, bus := voltageOf job.vFs bus
      median := medianOf ((allStrings.filter (eligible s meas)).map fun i => meas[i].current) } }

/-- One sequencer's work at a completion, and its reports (R61, R63, R68, R70, R73, R74). A string found open at the first completion
gets HELD of origin FOUND_OPEN, even where HELD of origin OTHER is latched already (R50; log 31). -/
def scanString (start : Nat) (s : State) (i : Str) : State :=
  let m := s.meas[i]
  match isPresent s i, m.feedback with
  | true, some closed =>
    let r := s.seqs[i].scanStep s.cfg ⟨closed, m.current, m.saturated, m.voltage, s.scan.bus, start⟩
    let s := s.setSeq i r.1
    match r.2 with
    | .none => s
    | .heldFoundOpen => s.latchHeld i .foundOpen
    | .heldOther => s.latchHeld i .other
    | .failed => failSwitch s i
  | _, _ => s

/-- The completion's work: records, evidence, sequencers. -/
def completeScan (s : State) (job : ScanJob) (samples : Vector Sample 24) (bus : Int) : State :=
  let s := evaluateAll (writeRecords s job samples bus)
  let s := allStrings.foldl (scanString job.start) s
  { s with scan := { s.scan with found := true } }

/-- SCAN_COMPLETION: the conversions of the scan in progress are published (R28). -/
def execScanCompletion (dt : Nat) (samples : Vector Sample 24) (bus : Int) (s : State) : Host.Outcome State Fault Refusal :=
  let s := s.advance dt
  match s.scan.job with
  | none => .next s
  | some job => .next (if job.doneAt ≤ s.now then finish s (completeScan s job samples bus) else s)

/-! ## The insulation monitor (R32 to R36) -/

/-- A measurement starts, disturbed if a bypass or a pulse is on (R32, R34). -/
def startIso (s : State) : State :=
  { s with iso := { s.iso with job := some ⟨s.now, s.now + ms s.cfg.tIso, anyDrive s⟩ } }

/-- The last result of a measurement (R33, R35). -/
def writeIso (s : State) (job : IsoJob) (kohm : Nat) (inBand : Bool) : State :=
  { s with iso := { s.iso with
      value := if inBand then min 65535 kohm else 0
      status := if inBand then (if job.disturbed then .disturbed else .valid) else .invalid
      start := job.start
      fault := !inBand } }

/-- INSULATION_COMPLETION: a result, the next measurement, and the search unit's event. -/
def execInsulationCompletion (dt : Nat) (kohm : Nat) (inBand : Bool) (s : State) : Host.Outcome State Fault Refusal :=
  let s := s.advance dt
  match s.iso.job with
  | none => .next s
  | some job =>
    .next (if job.doneAt ≤ s.now then finish s (searchOnCompletion (startIso (writeIso s job kohm inBand))) else s)

/-! ## The search unit's timers (R87, R89, R99) -/

/-- SEARCH_SETTLE_EXPIRY (R89). -/
def execSearchSettleExpiry (dt : Nat) (s : State) : Host.Outcome State Fault Refusal :=
  let s := s.advance dt
  .next
    (if s.search.stage = .settle ∧ s.search.settleAt ≤ s.now then
      { s with search := { s.search with stage := .measure, measureAt := s.now } }
    else s)

/-- SEARCH_TIMEOUT (R99). -/
def execSearchTimeout (dt : Nat) (s : State) : Host.Outcome State Fault Refusal :=
  let s := s.advance dt
  .next (if due s.search.timer s.now then finish s (endSearch s .abortedTimeout none) else s)

/-- REARM_TIMER_EXPIRY (R87). -/
def execRearmTimerExpiry (dt : Nat) (s : State) : Host.Outcome State Fault Refusal :=
  let s := s.advance dt
  .next
    (if due s.search.rearmAt s.now then { s with search := { s.search with rearmMet := true, rearmAt := none } } else s)

end Sys2Proof.Machine
end

