-- ==== Sys2Proof/Machine/Reset.lean ====
section
/-! DEFINITION. Reset (09 R167, R168; 04 R83; 06 R105). -/

namespace Sys2Proof.Machine

/-- The level of the last bit sent before a reset ends a transaction; with no bit sent it is a free value (R104, R105; log 30). -/
def cutLevel (s : State) (cut : Release) : Bool :=
  if cut.bits = 0 ∧ s.ports.memReceived = [] then (Config.freeByte s.free).getLsbD 0 else lastLevel s.ports cut

/-- The bits read of the byte that a reset cuts on a chip select that is not forwarded: 0xFF in reset, and bits of a free value after a
release that found it asserted. What the byte then reads as a whole is the model's choice: the bits read stand, the others are high
(R105; logs 7 and 30). -/
def cutUnforwarded (s : State) (cut : Release) : Option Release :=
  if s.ports.ctlSelected = true ∧ cut.bits ≠ 0 then tailOf cut (unforwardedByte s 0) else s.ports.returnedTail

/-- The ports at the assertion of a reset of either kind: a transaction in progress ends with a partial byte, and the bits of the byte
that the reset cuts have passed (R103, R105, R167). The controller's own chip select is outside the part. -/
def cutPorts (s : State) (cut : Release) : Ports :=
  match s.txn with
  | none => { s.ports with memSelected := false, returnedTail := cutUnforwarded s cut }
  | some t =>
    { s.ports with
      memSelected := false
      returnedTail := tailOf cut (tailByte s t cut)
      memEnd := .partialByte (cutLevel s cut) }

/-- The assertion of a reset of either kind: every block at its reset value; what stands outside the part goes on: time, the lines and
levels at the inputs, and the commands that wait (R167; log 30). -/
def dropState (s : State) (cut : Release) : State :=
  { State.reset with
    now := s.now
    ports := cutPorts s cut
    inputs := { State.reset.inputs with shdnRaw := s.inputs.shdnRaw, maintRaw := s.inputs.maintRaw }
    lines := s.lines
    free := s.free + 1
    pending := s.pending }

/-- POWER_ON (R167): every drive ends with the supply (R83). -/
def execPowerOn (edge : ResetEdge) (s : State) : Host.Outcome State Fault Refusal :=
  .next (dropState (s.advance edge.dt) edge.cut)

/-- What a reset input leaves of a sequencer: a pulse, or a travel, carried to its end (R83). -/
def Seq.resetInput (q : Seq) : Seq :=
  { Seq.reset with act := q.act.filter fun a => a.phase == .pulse || a.phase == .travel }

/-- RESET_INPUT (R83, R105, R167). -/
def execResetInput (edge : ResetEdge) (s : State) : Host.Outcome State Fault Refusal :=
  .next { dropState (s.advance edge.dt) edge.cut with seqs := mapAll (fun _ q => q.resetInput) s.seqs }

/-- RESET_DRIVE_END (R83): during a reset input, a pulse or a travel of a string ends, and nothing is reported. -/
def execResetDriveEnd (dt : Nat) (i : Str) (s : State) : Host.Outcome State Fault Refusal :=
  let s := s.advance dt
  let q := s.seqs[i]
  match q.act with
  | none => .next s
  | some a =>
    let shown := a.seen || decide (a.travelEnd ≤ s.now)
    .next
      (if s.inReset && a.phase == .pulse && decide (a.until_ ≤ s.now) then
        s.setSeq i { q with act := if shown then none else some { a with phase := .travel } }
      else if s.inReset && a.phase == .travel && shown then s.setSeq i { q with act := none }
      else s)

/-- R111: the CONFIG sector that CFGSEL1 and CFGSEL0 select. -/
def strapBase (sel1 sel0 : Bool) : Nat :=
  match sel1, sel0 with
  | false, false => 0x000000
  | false, true => 0x010000
  | true, false => 0x100000
  | true, true => 0x1FF000

/-- The part starts (R168): the straps are taken, the first scan and the first insulation measurement start, and the debouncers
start timing. -/
def releaseReset (s : State) (sel1 sel0 : Bool) : State :=
  startIso (startScan { s with
    inReset := false
    cfg := Config.builtin
    cfgBase := strapBase sel1 sel0
    inputs := { s.inputs with
      shdnTiming := debounce s.inputs.shdnRaw s.inputs.shdnActive s.now shdnTime
      maintTiming := debounce s.inputs.maintRaw s.inputs.maintActive s.now maintTime } })

/-- RESET_RELEASE (R168): only after the last drive has ended (R83). It carries no bits of a byte that it falls into on a chip select
asserted before it, which is the model's choice (R105; log 38). -/
def execResetRelease (dt : Nat) (sel1 sel0 : Bool) (s : State) : Host.Outcome State Fault Refusal :=
  let s := s.advance dt
  .next (if s.inReset && !anyDrive s then releaseReset s sel1 sel0 else s)

end Sys2Proof.Machine
end

