-- ==== Sys2Proof/Machine/Switch.lean ====
section
/-! DEFINITION. The commands of the disconnect sequencers and the arbiter (04): settle ends, pulse ends, the feedback line, the travel
windows, the retry wait, and the return of a grant. -/

namespace Sys2Proof.Machine

/-- The actuation of a string that is in a sub-phase, outside reset (R83). -/
def actIn (s : State) (i : Str) (phase : ActPhase) : Option Act :=
  if s.inReset then none else s.seqs[i].act.filter fun a => a.phase == phase

/-- A coil pulse starts, and its start is reported (R64, R69, R72, R76). -/
def pulse (s : State) (i : Str) (a : Act) : State :=
  s.actuate i { s.seqs[i] with act := some (a.startPulse s.lines[i] s.now) }

/-- R64: the conditions under which a close pulse may be issued. -/
def mayClose (s : State) (i : Str) : Bool :=
  s.evid[i].latched == 0 && !s.inputs.shdnActive && s.table[i].target == .connected

/-- CLOSE_SETTLE_END (R64). -/
def execCloseSettleEnd (dt : Nat) (i : Str) (s : State) : Host.Outcome State Fault Refusal :=
  let s := s.advance dt
  match actIn s i .settle with
  | none => .next s
  | some a => .next (if a.coil = .close_ ∧ a.until_ ≤ s.now ∧ mayClose s i = true then pulse s i a else s)

/-- OPEN_SETTLE_END (R69). -/
def execOpenSettleEnd (dt : Nat) (i : Str) (s : State) : Host.Outcome State Fault Refusal :=
  let s := s.advance dt
  match actIn s i .settle with
  | none => .next s
  | some a => .next (if a.coil = .open_ ∧ a.until_ ≤ s.now then pulse s i a else s)

/-- The end of a pulse: the bypass goes off if the line has shown the new position, or else the travel goes on (R65, R69). The last
pulse of a sequence leaves the grant to its recharge here (R77, R81). -/
def endPulse (s : State) (i : Str) (a : Act) : State :=
  let q := { s.seqs[i] with pulseEndedAt := s.now }
  let q := if q.lastPulse a then { q with grant := q.recharge s.now a.tRch } else q
  if a.seen then s.actuate i (q.travelled a.coil s.cfg s.now)
  else s.actuate i { q with act := some { a with phase := .travel } }

/-- COIL_PULSE_END (R65, R69). -/
def execCoilPulseEnd (dt : Nat) (i : Str) (s : State) : Host.Outcome State Fault Refusal :=
  let s := s.advance dt
  match actIn s i .pulse with
  | none => .next s
  | some a => .next (if a.until_ ≤ s.now then finish s (endPulse s i a) else s)

/-- What a feedback line that has just reached its level does to the actuation it shows the goal of (R65, R69). In reset it is
only remembered (log 20). -/
def feedbackSeen (s : State) (i : Str) (a : Act) : State :=
  let q := s.seqs[i]
  if a.phase = .travel ∧ s.inReset = false then s.actuate i (q.travelled a.coil s.cfg s.now)
  else if a.phase = .travel ∨ a.phase = .pulse then s.setSeq i { q with act := some { a with seen := true } }
  else s

/-- FEEDBACK_LINE_CHANGE (R65, R69): a string's feedback line takes the level `closed`. -/
def execFeedbackLineChange (dt : Nat) (i : Str) (closed : Bool) (s : State) : Host.Outcome State Fault Refusal :=
  let s := s.advance dt
  if s.lines[i] = closed then .next s
  else
    let s' := { s with lines := s.lines.set i closed }
    match s.seqs[i].act with
    | none => .next s'
    | some a =>
      .next
        (if closed = a.coil.goal then
          (if s.inReset then feedbackSeen s' i a else finish s (feedbackSeen s' i a))
        else s')

/-- CLOSE_TRAVEL_EXPIRY (R67, R81). -/
def execCloseTravelExpiry (dt : Nat) (i : Str) (s : State) : Host.Outcome State Fault Refusal :=
  let s := s.advance dt
  match actIn s i .travel with
  | none => .next s
  | some a =>
    .next
      (if a.coil = .close_ ∧ a.travelEnd ≤ s.now then
        finish s (if s.seqs[i].winding then s.actuate i (s.seqs[i].endWind s.now) else failClose s i)
      else s)

/-- The wait before the second pulse: the bypass stays on (R72). -/
def retryWait (s : State) (i : Str) (a : Act) : State :=
  let q := s.seqs[i]
  s.setSeq i { q with
    retry := true
    act := some { a with phase := .retryWait, until_ := max s.now (q.pulseEndedAt + a.tRch) } }

/-- OPEN_TRAVEL_EXPIRY (R72, R73, R81). -/
def execOpenTravelExpiry (dt : Nat) (i : Str) (s : State) : Host.Outcome State Fault Refusal :=
  let s := s.advance dt
  match actIn s i .travel with
  | none => .next s
  | some a =>
    .next
      (if a.coil = .open_ ∧ a.travelEnd ≤ s.now then
        finish s
          (if s.seqs[i].winding then s.actuate i (s.seqs[i].endWind s.now)
          else if s.seqs[i].retry then failSwitch s i
          else retryWait s i a)
      else s)

/-- RETRY_WAIT_END (R72). -/
def execRetryWaitEnd (dt : Nat) (i : Str) (s : State) : Host.Outcome State Fault Refusal :=
  let s := s.advance dt
  match actIn s i .retryWait with
  | none => .next s
  | some a => .next (if a.until_ ≤ s.now then pulse s i a else s)

/-- GRANT_RETURN (R77, R78). -/
def execGrantReturn (dt : Nat) (i : Str) (s : State) : Host.Outcome State Fault Refusal :=
  let s := s.advance dt
  match s.seqs[i].grant with
  | .recharging t => .next (if t ≤ s.now then finish s (s.setSeq i { s.seqs[i] with grant := .none }) else s)
  | .none => .next s
  | .held => .next s

end Sys2Proof.Machine
end

