-- ==== Sys2Proof/Machine/Dispatch.lean ====
section
/-! DEFINITION. The meaning of every command, one arm per row of spec/opcode_table.json. -/

namespace Sys2Proof.Machine

def exec (i : Instr) (s : State) : Host.Outcome State Fault Refusal :=
  match i with
  | .chipSelectAssert dt code => Sys2Proof.Machine.execChipSelectAssert dt code s
  | .read dt xs rel => Sys2Proof.Machine.execRead dt xs rel s
  | .readFast dt xs rel => Sys2Proof.Machine.execReadFast dt xs rel s
  | .status dt xs rel => Sys2Proof.Machine.execStatus dt xs rel s
  | .wren dt xs rel => Sys2Proof.Machine.execWren dt xs rel s
  | .wrdi dt xs rel => Sys2Proof.Machine.execWrdi dt xs rel s
  | .program dt xs rel => Sys2Proof.Machine.execProgram dt xs rel s
  | .erase4k dt xs rel => Sys2Proof.Machine.execErase4k dt xs rel s
  | .erase64k dt xs rel => Sys2Proof.Machine.execErase64k dt xs rel s
  | .eraseAll dt xs rel => Sys2Proof.Machine.execEraseAll dt xs rel s
  | .suspend dt xs rel => Sys2Proof.Machine.execSuspend dt xs rel s
  | .resume dt xs rel => Sys2Proof.Machine.execResume dt xs rel s
  | .pass dt xs rel => Sys2Proof.Machine.execPass dt xs rel s
  | .block dt xs rel => Sys2Proof.Machine.execBlock dt xs rel s
  | .powerOn edge => Sys2Proof.Machine.execPowerOn edge s
  | .resetInput edge => Sys2Proof.Machine.execResetInput edge s
  | .resetDriveEnd dt str => Sys2Proof.Machine.execResetDriveEnd dt str s
  | .resetRelease dt sel1 sel0 => Sys2Proof.Machine.execResetRelease dt sel1 sel0 s
  | .scanStart dt => Sys2Proof.Machine.execScanStart dt s
  | .scanCompletion dt samples bus => Sys2Proof.Machine.execScanCompletion dt samples bus s
  | .insulationCompletion dt kohm inBand => Sys2Proof.Machine.execInsulationCompletion dt kohm inBand s
  | .searchSettleExpiry dt => Sys2Proof.Machine.execSearchSettleExpiry dt s
  | .searchTimeout dt => Sys2Proof.Machine.execSearchTimeout dt s
  | .rearmTimerExpiry dt => Sys2Proof.Machine.execRearmTimerExpiry dt s
  | .shdnLevelChange dt asserted => Sys2Proof.Machine.execShdnLevelChange dt asserted s
  | .shutdownActivation dt => Sys2Proof.Machine.execShutdownActivation dt s
  | .shutdownRelease dt => Sys2Proof.Machine.execShutdownRelease dt s
  | .maintLevelChange dt asserted => Sys2Proof.Machine.execMaintLevelChange dt asserted s
  | .maintActivation dt => Sys2Proof.Machine.execMaintActivation dt s
  | .maintRelease dt => Sys2Proof.Machine.execMaintRelease dt s
  | .closeSettleEnd dt str => Sys2Proof.Machine.execCloseSettleEnd dt str s
  | .openSettleEnd dt str => Sys2Proof.Machine.execOpenSettleEnd dt str s
  | .coilPulseEnd dt str => Sys2Proof.Machine.execCoilPulseEnd dt str s
  | .feedbackLineChange dt str closed => Sys2Proof.Machine.execFeedbackLineChange dt str closed s
  | .closeTravelExpiry dt str => Sys2Proof.Machine.execCloseTravelExpiry dt str s
  | .openTravelExpiry dt str => Sys2Proof.Machine.execOpenTravelExpiry dt str s
  | .retryWaitEnd dt str => Sys2Proof.Machine.execRetryWaitEnd dt str s
  | .grantReturn dt str => Sys2Proof.Machine.execGrantReturn dt str s
  | .programCommitTimeout dt => Sys2Proof.Machine.execProgramCommitTimeout dt s
  | .eraseCommitTimeout dt => Sys2Proof.Machine.execEraseCommitTimeout dt s

end Sys2Proof.Machine
end

