-- ==== Sys2Proof/Safety.lean ====
section
/-! DEFINITION. What holds of the machine between its events: the table and the pins agree with what they are computed from, the
sequencers have taken their targets, the search has a stage while it is active, the memory mirror agrees with the pending commits, the
grants stay within K, and the arbiter has no work left. -/

namespace Sys2Proof.Machine

/-- R6, R8, R11: every present entry holds the target and the coherence that its claims give. -/
def TableAgrees (s : State) : Prop :=
  ∀ i : Str, isPresent s i = true →
    s.table[i].target = targetOf s i ∧ s.table[i].coherence = coherenceOf s i

/-- A sequencer has taken the target `t` (R62): none rests on the other side or is on its way there, and a sequence past its settle takes
the target at its end (R66, R70). -/
structure Seq.HasTaken (q : Seq) (t : Target) : Prop where
  connected : t = .connected → q.state ≠ .opened ∧ q.state ≠ .openQueued
  isolated  : t = .isolated → q.state ∉ [SwitchState.qualify, .closeQueued, .closed]
  settle    : t = .isolated → q.state = .closing → ∀ a, q.act = some a → a.phase ≠ .settle

/-- R61, R62, R66, R70, R75: every present string's sequencer has taken its target. -/
def TargetsTaken (s : State) : Prop := ∀ i : Str, isPresent s i = true → s.seqs[i].HasTaken s.table[i].target

/-- R80, R166: ATTN is low exactly while an attention reason holds, and BTRIP follows its condition. -/
def PinsAgree (s : State) : Prop := s.pins = ⟨attentionReasons s != 0, backupTrip s⟩

/-- R105, R169: until a configuration has been adopted the built-in defaults stand; in reset none has, and no transaction is
recorded. -/
def ResetQuiet (s : State) : Prop :=
  (s.capture.adopted = false → s.cfg = Config.builtin) ∧ (s.inReset = true → s.capture.adopted = false ∧ s.txn = none)

/-- R86, R88: a stage is under way exactly while a search is active. -/
def SearchRests (s : State) : Prop := s.search.phase = .idle ↔ s.search.stage = .none

/-- R88, R96: a sweep's hold stage stands only until its switch wait holds. -/
def HoldWaits (s : State) : Prop := s.search.stage = .hold → switchWaitHolds s = false

/-- R110: the start address of the transaction in progress has been taken modulo the memory size. -/
def AddressesAgree (s : State) : Prop :=
  0 < s.cfg.memSize ∧ ∀ t, s.txn = some t → 0 < t.cfg.memSize ∧ t.start < t.cfg.memSize

/-- An erase timer that runs. -/
def EraseTimer.isRunning : EraseTimer → Bool
  | .running _ => true
  | .paused _ => false

/-- 06, section 6.7: the pending commits that each mirror state stands for; the erase timer is paused exactly in the two states
of a suspension (R119). -/
def MirrorAgrees (s : State) : Prop :=
  (s.mirror.state = .unknown ∨ s.mirror.state = .idle → s.journal.prog = none ∧ s.journal.erase = none)
    ∧ (s.mirror.state = .busyProgram → s.journal.prog.isSome = true ∧ s.journal.erase = none)
    ∧ (s.mirror.state = .busyErase →
        s.journal.prog = none ∧ ∃ c, s.journal.erase = some c ∧ c.timer.isRunning = true)
    ∧ (s.mirror.state = .eraseSuspended →
        s.journal.prog = none ∧ ∃ c, s.journal.erase = some c ∧ c.timer.isRunning = false)
    ∧ (s.mirror.state = .busyProgramInSuspend →
        s.journal.prog.isSome = true ∧ ∃ c, s.journal.erase = some c ∧ c.timer.isRunning = false)

/-- R77: the grants in use never exceed K. A sequence holds its grant until its last pulse has ended: only the travel of a close, of
a second open pulse, or of a drive carried to its end (R81, R83) may outlast it. -/
def GrantsAgree (s : State) : Prop :=
  grantsInUse s ≤ s.arb.k
    ∧ (∀ (i : Str) (a : Act), s.seqs[i].act = some a → s.inReset = false →
        a.phase ≠ .travel ∨ (s.seqs[i].state ≠ .unfound ∧ a.coil = .open_ ∧ s.seqs[i].retry = false) →
        s.seqs[i].grant = .held)
    ∧ (∀ i : Str, s.seqs[i].act.isSome = true → s.seqs[i].state = .unfound → s.inReset = true ∨ isPresent s i = false)

/-- R78, R79: the arbiter has no work left. No slot stands free while a string waits, a lower K is pending only while more grants are in
use, and a present string that waits for a grant has its entry, or defers its request while its own grant recharges. -/
structure ArbiterRests (s : State) : Prop where
  heads    : s.arb.kPending = none → s.arb.queue = [] ∨ s.arb.k ≤ grantsInUse s
  pending  : ∀ k, s.arb.kPending = some k → k < grantsInUse s
  requests : ∀ i : Str, isPresent s i = true → s.seqs[i].waitsFor ≠ none →
    s.seqs[i].grant ≠ .none ∨ ∃ e ∈ s.arb.queue, e.str = i

/-- R78: every queue entry is of a string that waits for its kind and holds no grant, no string has two, and every OPEN stands before
every CLOSE. -/
def QueueAgrees (s : State) : Prop :=
  (∀ e ∈ s.arb.queue, s.seqs[e.str].waitsFor = some e.kind ∧ s.seqs[e.str].grant = .none)
    ∧ (s.arb.queue.map (·.str)).Nodup
    ∧ s.arb.queue.Pairwise fun a b => a.kind = .close_ → b.kind = .close_

end Sys2Proof.Machine
end

