-- ==== Sys2Proof/WellFormed.lean ====
section
/-! DEFINITION. Which commands are well formed: the converters' codes lie in the ranges of R24 and R26.
Every other operand is held to its range by its type. -/

namespace Sys2Proof

/-- A current conversion resolves to −2047..+2047, or ±2048 at full scale (R24). -/
def Sample.currentOk (x : Sample) : Bool := decide (-2048 ≤ x.current) && decide (x.current ≤ 2048)

/-- A voltage conversion resolves to 4096 codes, 0..4095 (R26). -/
def voltageCodeOk (k : Int) : Bool := decide (0 ≤ k) && decide (k ≤ 4095)

def Sample.wellFormed (x : Sample) : Bool := x.currentOk && voltageCodeOk x.voltage

/-- The bytes and the release of a bus row are held by their types; a scan completion's codes are checked against the
converters' ranges. -/
def Instr.wellFormed : Instr → Bool
  | .scanCompletion _ samples bus => (allStrings.all fun i => samples[i].wellFormed) && voltageCodeOk bus
  | .chipSelectAssert .. | .read .. | .readFast .. | .status .. | .wren .. | .wrdi .. | .program .. | .erase4k ..
  | .erase64k .. | .eraseAll .. | .suspend .. | .resume .. | .pass .. | .block .. | .powerOn .. | .resetInput ..
  | .resetDriveEnd .. | .resetRelease .. | .scanStart .. | .insulationCompletion .. | .searchSettleExpiry ..
  | .searchTimeout .. | .rearmTimerExpiry .. | .shdnLevelChange .. | .shutdownActivation .. | .shutdownRelease ..
  | .maintLevelChange .. | .maintActivation .. | .maintRelease .. | .closeSettleEnd .. | .openSettleEnd ..
  | .coilPulseEnd .. | .feedbackLineChange .. | .closeTravelExpiry .. | .openTravelExpiry .. | .retryWaitEnd ..
  | .grantReturn .. | .programCommitTimeout .. | .eraseCommitTimeout .. => true

/-- The time a command carries (log 1). -/
def Instr.elapsed : Instr → Nat
  | .chipSelectAssert dt _ | .read dt _ _ | .readFast dt _ _ | .status dt _ _ | .wren dt _ _ | .wrdi dt _ _
  | .program dt _ _ | .erase4k dt _ _ | .erase64k dt _ _ | .eraseAll dt _ _ | .suspend dt _ _ | .resume dt _ _
  | .pass dt _ _ | .block dt _ _ | .powerOn ⟨dt, _⟩ | .resetInput ⟨dt, _⟩ | .resetDriveEnd dt _ | .resetRelease dt _ _
  | .scanStart dt | .scanCompletion dt _ _ | .insulationCompletion dt _ _ | .searchSettleExpiry dt
  | .searchTimeout dt | .rearmTimerExpiry dt | .shdnLevelChange dt _ | .shutdownActivation dt | .shutdownRelease dt
  | .maintLevelChange dt _ | .maintActivation dt | .maintRelease dt | .closeSettleEnd dt _ | .openSettleEnd dt _
  | .coilPulseEnd dt _ | .feedbackLineChange dt _ _ | .closeTravelExpiry dt _ | .openTravelExpiry dt _
  | .retryWaitEnd dt _ | .grantReturn dt _ | .programCommitTimeout dt | .eraseCommitTimeout dt => dt

end Sys2Proof
end

