-- ==== Sys2Proof/Certificates/Slice0/Obligations.lean ====
section
/-! DEFINITION. The statements for the provers. A statement about a command concludes that `exec` answers a next state, and says what that
state holds. The statements about bytes and releases take one byte or one release; `BusRowSplits` carries them to every row. -/

open Sys2Proof Sys2Proof.Machine

namespace Sys2Proof.Claims

/-! ## The rows of the bus -/

/-- The command of a bus class. -/
def row : CmdClass → Nat → List Xfer → Option Release → Instr
  | .read => .read
  | .readFast => .readFast
  | .status => .status
  | .wren => .wren
  | .wrdi => .wrdi
  | .program => .program
  | .erase4k => .erase4k
  | .erase64k => .erase64k
  | .eraseAll => .eraseAll
  | .suspend => .suspend
  | .resume => .resume
  | .pass => .pass
  | .block => .block
  | .none => .block

/-- The classes with an address phase (R108). -/
def addressed : List CmdClass := [.read, .readFast, .program, .erase4k, .erase64k]

/-- The classes whose clean release is judged (R120). -/
def writes : List CmdClass := [.program, .erase4k, .erase64k, .eraseAll]

/-- The address, and a program's first data byte, have been received (R108). -/
def Complete (t : Txn) (c : CmdClass) : Prop :=
  (c ∈ addressed → 3 ≤ t.count) ∧ (c = .program → 4 ≤ t.count)

/-- One byte crosses the ports: the memory receives what the controller sends, and the controller receives `b`. -/
def passed (s : State) (dt : Nat) (x : Xfer) (b : Byte) (t : Txn) : State :=
  { s with
    now := s.now + dt
    txn := some t
    ports := { s.ports with returned := b :: s.ports.returned, memReceived := x.mosi :: s.ports.memReceived } }

/-- The controller's release: the transaction ends, at the memory port as `e` says; `b` is the byte whose leading bits an
incomplete last byte returned. -/
def ended (s : State) (dt : Nat) (r : Release) (b : Byte) (e : MemEnd) : State :=
  { s with
    now := s.now + dt
    txn := none
    ports := { s.ports with
      ctlSelected := false
      memSelected := false
      returnedTail := if r.bits = 0 then none else some ⟨r.bits, ⟨r.x.mosi, b⟩⟩
      memEnd := e } }

/-- The last bit the controller sent (R104). -/
def lastBit (s : State) (r : Release) : Bool :=
  if r.bits = 0 then (s.ports.memReceived.headD 0).getLsbD 0 else r.x.mosi.getLsbD (8 - r.bits.val)

/-- What a refusal leaves (R126). -/
def refused (s : State) (dt : Nat) (t : Txn) (c : CmdClass) (r : Release) (code : RefusalCode) (str : Option Str) : State :=
  let u := ended s dt r r.x.miso (.partialByte (lastBit s r))
  { u with
    mirror := ⟨s.mirror.state, .clear, true, ⟨some code, str, c, if c ∈ addressed then t.start else 0⟩⟩
    table := match str with
      | some i => s.table.set i { s.table[i] with lastRefusal := some code }
      | none => s.table }

/-- The state after a write that the memory port releases cleanly, but for the commit it becomes (R118, R127). -/
def released (s : State) (dt : Nat) (r : Release) (x : MirrorState) : State :=
  let u := ended s dt r r.x.miso .asSent
  { u with mirror := ⟨x, .clear, false, s.mirror.lastRefusal⟩ }

/-- A commit stands in the way of a protected write (R122). -/
def InTheWay (s : State) (t : Txn) (c : CmdClass) : Prop :=
  s.journal.prog.isSome = true
    ∨ ∃ e, s.journal.erase = some e
        ∧ ¬ (c = .program ∧ s.mirror.state = .eraseSuspended
              ∧ (touches s t c .journal = true
                  ∨ ((touches s t c .config = true ∨ touches s t c .guarded = true)
                      ∧ (t.page < e.base ∨ e.base + e.size ≤ t.page))))

/-- The checks 1 to 3 of R120 pass. -/
def Ready (s : State) (t : Txn) (c : CmdClass) : Prop :=
  s.mirror.state ≠ .unknown ∧ s.mirror.wel = .set ∧ ¬ InTheWay s t c

/-- The state with `dt` passed and nothing else changed. -/
def later (s : State) (dt : Nat) : State := { s with now := s.now + dt }

/-! ## The window -/

/-- The address `a` lies in the WINDOW sector of the transaction's region map (R157). -/
def InWindow (s : State) (t : Txn) (a : Nat) : Prop := sectorKind t.cfg s.cfgBase (a / 4096) = .window

/-- The offset lies in the string record of `i` (R157). -/
def InRecordOf (i : Str) (off : Nat) : Prop := 64 + 32 * i.val ≤ off ∧ off < 96 + 32 * i.val

/-- The latch of the string record of `i`; latch 0 is that of the box record. -/
def latchOfStr (i : Str) : Fin 25 := i.succ

/-- The latches `w` once the address `a` of the next data byte is known (R158): in the window, the latch of its record holds the record as it
stands, unless an earlier byte of the transaction filled it; the other latches stand. -/
structure Latched (s : State) (t : Txn) (a : Nat) (w : Vector Latch 25) : Prop where
  box    : InWindow s t a → a % 4096 < 64 →
    w = if s.window[(0 : Fin 25)].filled then s.window else s.window.set 0 ⟨true, boxRecord s⟩
  string : ∀ i : Str, InWindow s t a → InRecordOf i (a % 4096) →
    w = if s.window[latchOfStr i].filled then s.window else s.window.set (latchOfStr i) ⟨true, stringRecord s i⟩
  others : ¬ InWindow s t a ∨ 832 ≤ a % 4096 → w = s.window

/-- The byte that the window supplies at an offset (R157, R158): that of the record's latch, and 0xFF where no record lies. -/
structure Supplied (s : State) (off : Nat) (b : Byte) : Prop where
  box    : off < 64 → b = s.window[(0 : Fin 25)].bytes.getD off 0
  string : ∀ i : Str, InRecordOf i off → b = s.window[latchOfStr i].bytes.getD (off - 64 - 32 * i.val) 0
  others : 832 ≤ off → b = 0xFF

/-! ## What the end of an event leaves alone -/

/-- The bus, the configuration and the capture unit. -/
def SameBus (s u : State) : Prop :=
  u.inReset = s.inReset ∧ u.cfg = s.cfg ∧ u.cfgBase = s.cfgBase ∧ u.ports = s.ports ∧ u.txn = s.txn ∧ u.capture = s.capture
    ∧ u.window = s.window ∧ u.pending = s.pending

/-- What records and reads write of a string's entry. -/
def SameRecord (e e' : Entry) : Prop :=
  e'.recorded = e.recorded ∧ e'.liveSlot = e.liveSlot ∧ e'.damaged = e.damaged ∧ e'.lastRefusal = e.lastRefusal

/-- The mirror, the journal, and every string's recorded fields. -/
def SameJournal (s u : State) : Prop :=
  u.mirror = s.mirror ∧ u.journal = s.journal ∧ ∀ i : Str, SameRecord s.table[i] u.table[i]

/-- The measurement records, the scan unit and the last insulation result. -/
def SameMeasurement (s u : State) : Prop :=
  u.meas = s.meas ∧ u.scan = s.scan ∧ u.iso.value = s.iso.value ∧ u.iso.status = s.iso.status ∧ u.iso.start = s.iso.start
    ∧ u.iso.fault = s.iso.fault

/-- The evidence unit and the inputs. -/
def SameEvidence (s u : State) : Prop := u.evid = s.evid ∧ u.inputs = s.inputs

/-- A string that takes the target it has: nothing of its sequencer moves at the end of an event. -/
def AtTarget (u : State) (i : Str) (x : Target) (q : Seq) : Prop := u.table[i].target = x → u.seqs[i] = q

/-- An actuation that is due in a sub-phase, outside reset. -/
def Due (s : State) (dt : Nat) (i : Str) (a : Act) (c : Coil) (p : ActPhase) (at_ : Nat) : Prop :=
  s.inReset = false ∧ s.seqs[i].act = some a ∧ a.coil = c ∧ a.phase = p ∧ at_ ≤ s.now + dt

/-- No string test of a sweep starts at the event (R96, R97), so that the roles the search unit gives at it stand to its end. -/
def NoTestStarts (s u : State) : Prop := s.search.stage ≠ .hold ∧ (u.search.phase = .sweep → s.search.phase = .sweep)

/-- What is left of a grant when the sequence's last pulse has ended at `at_` (R73, R77). -/
def leftGrant (g : Grant) (now at_ tRch : Nat) : Grant :=
  if g = .held then (if at_ + tRch ≤ now then .none else .recharging (at_ + tRch)) else g

/-- A sequencer whose bypass has just gone off, with its grant left to recharge. -/
def bypassOff (s : State) (dt : Nat) (q : Seq) (a : Act) : Seq :=
  { q with act := none, bypassOffAt := s.now + dt, grant := leftGrant q.grant (s.now + dt) q.pulseEndedAt a.tRch }

/-- A report of a bypass or a pulse disturbs the measurement in progress (R34). -/
def disturbed (i : Iso) : Iso := { i with job := i.job.map fun j => { j with disturbed := true } }

/-- The state after a coil pulse of string `i` has started (R64, R69, R72). -/
def pulsed (s : State) (dt : Nat) (i : Str) (a : Act) : State :=
  { s with
    now := s.now + dt
    seqs := s.seqs.set i { s.seqs[i] with
      act := some { a with
        phase := .pulse
        seen := s.lines[i] == a.coil.goal
        until_ := s.now + dt + a.tPulse
        travelEnd := s.now + dt + a.tTravel } }
    iso := disturbed s.iso }

/-- The currents of the strings eligible for the median (R29), by the records `m` that a completion writes. -/
def eligibleCurrents (s : State) (m : Vector Meas 24) : List Int :=
  (allStrings.filter fun i =>
    decide (i.val < s.cfg.stringCount) && s.seqs[i].state == .closed && s.seqs[i].probation == 0 && m[i].valid
      && !m[i].saturated).map fun i => m[i].current

/-- A scan completion that is due, of a string present and converted. -/
def ScanDue (s : State) (dt : Nat) (job : ScanJob) : Prop := s.scan.job = some job ∧ job.doneAt ≤ s.now + dt

/-- The voltages match (R63). -/
def Near (vMatch v vb : Nat) : Prop := v ≤ vb + vMatch ∧ vb ≤ v + vMatch

/-- The feedback mismatch count after a sample, in a state that expects the contact at `expected` (R74). -/
def mismatches (q : Seq) (expected closed : Bool) : Nat := if closed = expected then 0 else q.mismatch + 1

/-- A switch on its way to open: it waits for a grant, or has been given one. -/
def OpensNext (q : Seq) : Prop := q.state = .openQueued ∨ q.state = .opening

/-- No entry of a string stands in the actuation queue. -/
def NotQueued (u : State) (i : Str) : Prop := ∀ e ∈ u.arb.queue, e.str ≠ i

/-- A sequence of a kind that has just started on the sequencer `q` at a grant (R64, R69, R82). -/
def startedAt (q : Seq) (c : Coil) (cfg : Config) (now : Nat) : Seq :=
  { q with
    state := if c = .open_ then .opening else .closing
    mismatch := 0
    retry := false
    grant := .held
    act := some ⟨c, .settle, false, now + cfg.tSettle * 1000, 0, cfg.tPulse * 1000, cfg.tTravel * 1000, cfg.tRch * 1000⟩ }

/-- A string asks for a grant with the sequencer `q`: its entry waits, or its request is deferred while its own grant stands, or a grant has
come and its sequence has started (R77, R78). -/
def Asks (u : State) (i : Str) (q : Seq) (c : Coil) : Prop :=
  u.seqs[i] = q ∧ (q.grant ≠ .none ∨ ⟨i, c⟩ ∈ u.arb.queue) ∨ u.seqs[i] = startedAt q c u.cfg u.now

/-- R62, with R61, R66 and R70 for what it refers to: the sequencer `q` that an event finds, by its switch state and the target that the
event leaves. The cells that the table marks with a dash leave the sequencer as it is. -/
structure TakesTarget (q : Seq) (u : State) (i : Str) : Prop where
  opened      : q.state = .opened →
    (u.table[i].target = .connected → u.seqs[i] = { q with state := .qualify, mismatch := 0, qual := 0 }) ∧ AtTarget u i .isolated q
  qualify     : q.state = .qualify →
    (u.table[i].target = .isolated → u.seqs[i] = { q with state := .opened, mismatch := 0, qual := 0 }) ∧ AtTarget u i .connected q
  closeQueued : q.state = .closeQueued →
    (u.table[i].target = .isolated → u.seqs[i] = { q with state := .opened, mismatch := 0 } ∧ NotQueued u i)
    ∧ (u.table[i].target = .connected → Asks u i q .close_)
  settle      : ∀ a, q.state = .closing → q.act = some a → a.phase = .settle →
    (u.table[i].target = .isolated →
      u.seqs[i] = { q with state := .opened, mismatch := 0, act := none, bypassOffAt := u.now, grant := .none }
      ∧ ∀ j, u.iso.job = some j → j.disturbed = true)
    ∧ AtTarget u i .connected q
  closed      : q.state = .closed →
    (u.table[i].target = .isolated → Asks u i { q with state := .openQueued, mismatch := 0 } .open_) ∧ AtTarget u i .connected q
  openQueued  : q.state = .openQueued →
    (u.table[i].target = .connected → u.seqs[i] = { q with state := .closed, mismatch := 0 } ∧ NotQueued u i)
    ∧ (u.table[i].target = .isolated → Asks u i q .open_)
  others      : q.state ∈ [SwitchState.unfound, .opening, .failed]
    ∨ q.state = .closing ∧ (∀ a, q.act = some a → a.phase ≠ .settle) → u.seqs[i] = q

/-- The sequencers of the present strings that `p` picks take the targets that the event leaves (R62). -/
def TargetsAreTaken (s u : State) (p : Seq → Prop) : Prop :=
  ∀ i : Str, i.val < s.cfg.stringCount → p s.seqs[i] → TakesTarget s.seqs[i] u i

/-- The queue with the deferred request of a string, if it has one to make (R78). -/
def joined (s : State) (i : Str) : List QEntry :=
  if s.cfg.stringCount ≤ i.val then s.arb.queue
  else if s.seqs[i].state = .openQueued then
    (s.arb.queue.filter fun e => e.kind == .open_) ++ [⟨i, .open_⟩] ++ s.arb.queue.filter fun e => e.kind == .close_
  else if s.seqs[i].state = .closeQueued then s.arb.queue ++ [⟨i, .close_⟩]
  else s.arb.queue

/-- The sequencer of a string that leaves presence (R81). -/
def leftPresence (s : State) (dt : Nat) (q : Seq) : Seq :=
  match q.act with
  | none => { q with state := .unfound, mismatch := 0 }
  | some a =>
    match a.phase with
    | .settle => { q with state := .unfound, mismatch := 0, act := none, bypassOffAt := s.now + dt, grant := .none }
    | .retryWait => { bypassOff s dt q a with state := .unfound, mismatch := 0 }
    | .pulse => { q with state := .unfound, mismatch := 0 }
    | .travel => { q with state := .unfound, mismatch := 0, grant := leftGrant q.grant (s.now + dt) q.pulseEndedAt a.tRch }

/-- A string has left presence (R2, R30, R56, R81). -/
structure LeavesPresence (s u : State) (dt : Nat) (i : Str) : Prop where
  entry    : u.table[i] =
    { s.table[i] with recorded := .none, liveSlot := none, damaged := false, role := .none, coherence := .coherent }
  evidence : u.evid[i] = ⟨0, 0, 0, none, 0, 0, 0, 0, 0⟩
  record   : u.meas[i].valid = false
  snapshot : i ∉ u.inputs.snapshot
  queue    : NotQueued u i
  seq      : u.seqs[i] = leftPresence s dt s.seqs[i]

/-- A close that has succeeded with the target ISOLATED passes through CLOSED, with its probation set, and opens next (R66). -/
def OpenedAfterClose (s u : State) (i : Str) : Prop :=
  i.val < s.cfg.stringCount → u.table[i].target = .isolated → OpensNext u.seqs[i] ∧ u.seqs[i].probation = s.cfg.probation

/-- A drive carried on a string without a switch state ends with its bypass: no cause is latched, and nothing follows (R81). -/
def DriveEnds (s u : State) (dt : Nat) (i : Str) : Prop :=
  u.seqs[i] = { s.seqs[i] with act := none, bypassOffAt := s.now + dt }
    ∧ SameBus s u ∧ SameJournal s u ∧ SameMeasurement s u ∧ SameEvidence s u

/-- K after an adoption of `k` grants (R79): active where no more are in use, else pending with the old K active. -/
def AdoptedK (s u : State) (k : Nat) : Prop :=
  (u.arb.kPending = none ∧ u.arb.k = k ∧ grantsInUse u ≤ k ∧ (u.arb.queue = [] ∨ k ≤ grantsInUse u)
    ∨ u.arb.kPending = some k ∧ u.arb.k = s.arb.k ∧ k < grantsInUse u)
  ∧ (grantsInUse s ≤ k → u.arb.kPending = none)

/-- An insulation measurement that is due. -/
def IsoDue (s : State) (dt : Nat) (job : IsoJob) : Prop := s.iso.job = some job ∧ job.doneAt ≤ s.now + dt

/-- The search unit after an end of a search at instant `at_` (R86, R101). -/
def endedSearch (s : State) (at_ : Nat) (r : SearchResult) (found : Option Str) (attn : Bool) : Search where
  phase := .idle
  suspects := []
  originals := []
  stage := .none
  settleAt := 0
  measureAt := 0
  disturbed := 0
  steps := s.search.steps
  timer := none
  trigger := 0
  rearmMet := false
  rearmAt := some (at_ + s.cfg.tRearm * 60000000)
  result := r
  found := found
  attn := attn
  underTest := none
  swept := []

/-- The mirror state after a status observation (R116, its table). -/
def mirrorTable (x : MirrorState) (busy susp : Bool) : MirrorState :=
  match x, busy, susp with
  | .unknown, false, false => .idle
  | .unknown, _, _ => .unknown
  | .idle, false, false => .idle
  | .idle, _, _ => .unknown
  | .busyProgram, true, _ => .busyProgram
  | .busyProgram, false, true => .unknown
  | .busyProgram, false, false => .idle
  | .busyErase, true, _ => .busyErase
  | .busyErase, false, true => .eraseSuspended
  | .busyErase, false, false => .idle
  | .eraseSuspended, true, _ => .busyErase
  | .eraseSuspended, false, true => .eraseSuspended
  | .eraseSuspended, false, false => .idle
  | .busyProgramInSuspend, true, _ => .busyProgramInSuspend
  | .busyProgramInSuspend, false, true => .eraseSuspended
  | .busyProgramInSuspend, false, false => .idle

/-- A status observation: the transaction that carries it and the bits it shows. -/
structure Observed (s : State) (t : Txn) (x : Xfer) (busy susp err : Bool) : Prop where
  txn  : s.txn = some t
  cls  : t.cls = some .status
  busy : x.miso.getLsbD t.cfg.busyBit = busy
  susp : x.miso.getLsbD t.cfg.suspBit = susp
  err  : x.miso.getLsbD t.cfg.errBit = err

/-- An observation that resolves the pending program and leaves the pending erase alone (R116). -/
def ResolvesProgram (s : State) (susp : Bool) : Prop :=
  s.mirror.state = .busyProgram ∨ s.mirror.state = .busyProgramInSuspend ∧ susp = true

/-- The last record of a list for a string, with its slot (R14). -/
def LastOf (rs : List (Nat × Record)) (i : Str) (slot : Nat) (r : Record) : Prop :=
  ∃ before after, rs = before ++ (slot, r) :: after ∧ r.str.toNat = i.val ∧ ∀ x ∈ after, x.2.str.toNat ≠ i.val

/-- Confirmed records, each with its slot, are applied in slot order (R14, R53, R142): the last record of each string gives its live slot
and disposition and clears its damaged mark; a cause latched before is latched after exactly unless a release bit names it while it is not
present, and a released HELD drops its origin. A released WELD takes a FAILED switch to the position its line shows, and on to its target
(R75); every other sequencer takes its target (R62). -/
structure Applied (s u : State) (rs : List (Nat × Record)) : Prop where
  records : ∀ (i : Str) (slot : Nat) (r : Record), LastOf rs i slot r →
    u.table[i].liveSlot = some slot ∧ u.table[i].recorded = (Disposition.ofByte r.disp).getD .none ∧ u.table[i].damaged = false
  causes : ∀ (i : Str) (m : Byte), m = (rs.filter fun x => x.2.str.toNat == i.val).foldl (fun m x => m ||| x.2.mask) 0 →
    u.evid[i].latched = s.evid[i].latched &&& ~~~(m &&& ~~~s.evid[i].present &&& 0x7F)
      ∧ u.evid[i].present = s.evid[i].present ∧ u.evid[i].noted = s.evid[i].noted
      ∧ u.evid[i].heldOrigin =
          if CauseSet.has (s.evid[i].latched &&& m &&& ~~~s.evid[i].present) .held then none else s.evid[i].heldOrigin
  welds  : ∀ (i : Str), s.seqs[i].state = .failed →
    (CauseSet.has s.evid[i].latched .weld = false ∨ CauseSet.has u.evid[i].latched .weld = true → u.seqs[i] = s.seqs[i])
    ∧ (i.val < s.cfg.stringCount → CauseSet.has s.evid[i].latched .weld = true → CauseSet.has u.evid[i].latched .weld = false →
      NoTestStarts s u →
      (s.lines[i] = false →
        (u.table[i].target = .isolated → u.seqs[i] = { s.seqs[i] with state := .opened, mismatch := 0 })
        ∧ (u.table[i].target = .connected → u.seqs[i] = { s.seqs[i] with state := .qualify, mismatch := 0, qual := 0 }))
      ∧ (s.lines[i] = true →
        (u.table[i].target = .connected →
          u.seqs[i] = { s.seqs[i] with state := .closed, mismatch := 0, probation := s.cfg.probation })
        ∧ (u.table[i].target = .isolated → OpensNext u.seqs[i] ∧ u.seqs[i].probation = s.cfg.probation)))
  others : ∀ i : Str, (∀ x ∈ rs, x.2.str.toNat ≠ i.val) → SameRecord s.table[i] u.table[i] ∧ u.evid[i] = s.evid[i]
  targets : NoTestStarts s u → TargetsAreTaken s u fun q => q.state ≠ .failed

/-- The sector table after a pending erase has ended without confirmation (R150, R153, R154). -/
def endedSectors (j : Journal) (c : EraseCommit) : List Sector :=
  match c.sector with
  | some k => if c.recovery then j.sectors else j.sectors.set k ⟨.unknown, 0⟩
  | none => j.sectors

/-- A slot of the sector of a pending erase that ends without confirmation, and that is not a recovery erase. -/
abbrev InEnded (j : Journal) (c : EraseCommit) (k : Nat) : Prop := c.sector = some (k / 512) ∧ c.recovery = false ∧ k < j.slots.length

/-- A slot of a range of `n` slots. -/
abbrev InRange (first n k : Nat) : Prop := first ≤ k ∧ k < first + n

/-- One observation or expiry ends the pending erase `e` without confirmation: the sector table and the slots (R150, R152 to R154). -/
def EndedSlots (s : State) (e : EraseCommit) (slots : List Summary) : Prop :=
  ∀ k, slots[k]? = if InEnded s.journal e k then some .unseen else s.journal.slots[k]?

/-- The mark of the slots of a journal program that has ended without confirmation (R143, R144). -/
def doubtMark (s : State) : Summary := if s.journal.state = .inconsistent then .unseen else .doubtful

/-- The journal after a journal program that has ended without confirmation with result `r`, but for an erase that ends with it: DOUBTFUL
with its doubtful slots, and INCONSISTENT where it was so (R143, R144). -/
def endedProgram (s : State) (c : ProgCommit) (r : CommitResult) (slots : List Summary) : Journal :=
  { s.journal with
    state := if s.journal.state = .inconsistent then .inconsistent else .doubtful
    doubt := if s.journal.state = .inconsistent then s.journal.doubt else some ⟨c.first, c.records⟩
    slots := slots
    prog := none
    outcome := ⟨.program, r, c.addr⟩ }

/-- A program into the ring whose end finds the journal ADOPTED or INCONSISTENT. -/
structure InRing (s : State) (c : ProgCommit) : Prop where
  kind  : c.kind = .journal
  state : s.journal.state = .adopted ∨ s.journal.state = .inconsistent
  range : c.first + c.records.length ≤ s.journal.slots.length

/-- The observation or the expiry ends the program `c`, whose range takes its mark. -/
def EndedRange (s : State) (c : ProgCommit) (slots : List Summary) : Prop :=
  ∀ k, slots[k]? = if InRange c.first c.records.length k then some (doubtMark s) else s.journal.slots[k]?

/-- The observation or the expiry ends the program `c`, whose range takes its mark, and the erase `e` with it. -/
def EndedBoth (s : State) (c : ProgCommit) (e : EraseCommit) (slots : List Summary) : Prop :=
  ∀ k, slots[k]? =
    if InEnded s.journal e k then some .unseen
    else if InRange c.first c.records.length k then some (doubtMark s)
    else s.journal.slots[k]?

/-- The outcome shown where one event ends a program and an erase is one of the two (R155); which of them is open (log 12). -/
def EitherOutcome (o : CommitOutcome) (r : CommitResult) (c : ProgCommit) (r' : CommitResult) (e : EraseCommit) : Prop :=
  o = ⟨.program, r, c.addr⟩ ∨ o = ⟨.erase, r', e.base⟩

/-- What a status byte leaves alone beside the mirror and the commits. -/
def SameAround (s u : State) : Prop :=
  SameBus { s with ports := u.ports, txn := u.txn } u ∧ SameMeasurement s u ∧ u.inputs = s.inputs

/-- HELD of origin OTHER is latched against the string of each ISOLATE or LOCKOUT record, and no other evidence moves (R15, R50, R144). -/
structure HeldFor (s u : State) (rs : List Record) : Prop where
  held   : ∀ i : Str, (∃ r ∈ rs, r.str.toNat = i.val ∧ (r.disp = 0x02 ∨ r.disp = 0x03)) →
    CauseSet.has u.evid[i].latched .held = true ∧ u.evid[i].heldOrigin = some .other
  others : ∀ i : Str, (∀ r ∈ rs, r.str.toNat = i.val → r.disp ≠ 0x02 ∧ r.disp ≠ 0x03) → u.evid[i] = s.evid[i]

/-- A read whose release is due, after a whole number of bytes. -/
structure ReadEnds (s : State) (t : Txn) (c : CmdClass) (r : Release) : Prop where
  txn   : s.txn = some t
  cls   : t.cls = some c
  kind  : c = .read ∨ c = .readFast
  whole : r.bits = 0

/-- A segment after a read (R170): replaced where the read streamed over it whole, and else as it was. -/
def segmentAfter (s : State) (t : Txn) (j : Fin 8) : Segment :=
  match t.readStream.at (s.cfgBase + 32 * j.val) 32 with
  | some bs => ⟨true, bs⟩
  | none => s.capture.segments[j]

/-- The block of the eight segments after a read. -/
def blockAfter (s : State) (t : Txn) : List Byte := (List.finRange 8).flatMap fun j => (segmentAfter s t j).bytes

/-! ## The ring -/

/-- A slot of the run of `len` slots that ends before the head `h`, oldest first (R177). -/
def runSlot (ring : List Summary) (h len d : Nat) : Nat := (h + ring.length - len + d) % ring.length

/-- The ring passes the checks of R177: its head is `h`, `len` slots before it are occupied, and their sequences run from `q`. -/
structure Fits (ring : List Summary) (h len : Nat) (q : Half) : Prop where
  free    : len < ring.length
  head    : h < ring.length ∧ (len = 0 → h = 0)
  run     : ∀ d < len, ∃ x, ring[runSlot ring h len d]? = some x ∧ x.occupied = true
  rest    : ∀ d < ring.length - len, ring[(h + d) % ring.length]? = some .erased
  sectors : ∀ j < ring.length / 512,
    (j = h / 512 → ∀ k < 512, ∃ x, ring[512 * j + k]? = some x ∧ if k < h % 512 then x.occupied = true else x = .erased)
    ∧ (j ≠ h / 512 → (∀ k < 512, ∃ x, ring[512 * j + k]? = some x ∧ x.occupied = true)
        ∨ ∀ k < 512, ring[512 * j + k]? = some .erased)
  record  : 0 < len → ∃ d < len, ∃ r, ring[runSlot ring h len d]? = some (.record r)
  seqs    : ∀ d < len, ∀ r, ring[runSlot ring h len d]? = some (.record r) → r.seq = q + BitVec.ofNat 16 d

/-- The newest record of a string in the run, at its place (R16). -/
def Newest (ring : List Summary) (h len : Nat) (i : Str) (d : Nat) (r : Record) : Prop :=
  d < len ∧ ring[runSlot ring h len d]? = some (.record r) ∧ r.str.toNat = i.val
    ∧ ∀ d' r', d < d' → d' < len → ring[runSlot ring h len d']? = some (.record r') → r'.str.toNat ≠ i.val

/-- What a successful adoption of a ring sets (R16, R54, R178); the sequencers take the targets that it gives (R62). -/
structure Taken (s u : State) (ring : List Summary) (h len : Nat) (q : Half) : Prop where
  state   : u.journal.state = .adopted ∧ u.journal.everAdopted = true ∧ u.journal.head = h ∧ u.journal.heldTail = none
  nextSeq : u.journal.nextSeq = if len = 0 then 0 else q + BitVec.ofNat 16 len
  sectors : ∀ j < ring.length / 512, ∃ y, u.journal.sectors[j]? = some y
    ∧ y.count = (((ring.drop (512 * j)).take 512).filter Summary.occupied).length
    ∧ y.state = if j = h / 512 then .head else if y.count = 0 then .erased else .full
  live    : ∀ (i : Str) (d : Nat) (r : Record), i.val < s.cfg.stringCount → Newest ring h len i d r →
    u.table[i].liveSlot = (Disposition.ofByte r.disp).map (fun _ => runSlot ring h len d)
      ∧ u.table[i].recorded = (Disposition.ofByte r.disp).getD .none
  bare    : ∀ i : Str, i.val < s.cfg.stringCount → (∀ d r, ¬ Newest ring h len i d r) →
    u.table[i].liveSlot = none ∧ u.table[i].recorded = .none
  damaged : ∀ i : Str, i.val < s.cfg.stringCount → u.table[i].damaged = false
  held    : ∀ i : Str, i.val < s.cfg.stringCount →
    u.evid[i].latched =
      if (u.table[i].recorded = .isolate ∨ u.table[i].recorded = .lockout) ∧ s.evid[i].heldOrigin = some .foundOpen then
        CauseSet.remove s.evid[i].latched .held
      else s.evid[i].latched
  targets : NoTestStarts s u → TargetsAreTaken s u fun _ => True

/-- The state of a sector in the sector table. -/
def stateOf (s : State) (k : Nat) : Option SectorState := s.journal.sectors[k]?.map (·.state)

/-- The sector from which the tail is looked for (R133): the one after the HEAD sector, or while none is HEAD the one that holds the head. -/
def tailFrom (s : State) : Nat :=
  if stateOf s (s.journal.head / 512) = some .head then s.journal.head / 512 + 1 else s.journal.head / 512

/-- The tail (R133): the first sector in ring order that is not ERASED, and the HEAD sector if every sector is ERASED; while the journal is
INCONSISTENT, the one that it had (R152). -/
def IsTail (s : State) (j : Nat) : Prop :=
  match s.journal.heldTail with
  | some k => j = k
  | none =>
    let n := ringSectors s
    (∃ d < n, j = (tailFrom s + d) % n ∧ stateOf s j ≠ some .erased
        ∧ ∀ d' < d, stateOf s ((tailFrom s + d') % n) = some .erased)
    ∨ (∀ k < n, stateOf s k = some .erased) ∧ j = s.journal.head / 512

/-- What the event that makes the journal INCONSISTENT leaves of the tracker, with the tail that it held (R152). -/
def inconsistentFrom (s : State) (tail : Nat) : Journal :=
  { s.journal with
    state := .inconsistent
    slots := List.replicate s.journal.slots.length .unseen
    doubt := none
    heldTail := some tail }

/-- The attempt at an adoption with the summaries `slots` and the coverage marks `cov` (R176 to R179). -/
structure Attempted (s u : State) (slots : List Summary) (cov : List Bool) : Prop where
  waits  : (∃ p < 16 * ringSectors s, cov[p]? = some false) → u.journal.state = s.journal.state ∧ u.journal.slots = slots
    ∧ u.capture.coverage = cov ∧ u.journal.head = s.journal.head ∧ u.journal.nextSeq = s.journal.nextSeq ∧ u.evid = s.evid
    ∧ ∀ i : Str, SameRecord s.table[i] u.table[i]
  adopts : (∀ p < 16 * ringSectors s, cov[p]? = some true) → ∀ h len q, Fits (slots.take (ringSlots s)) h len q →
    Taken s u (slots.take (ringSlots s)) h len q ∧ u.journal.slots = slots
  breaks : (∀ p < 16 * ringSectors s, cov[p]? = some true) → (∀ h len q, ¬ Fits (slots.take (ringSlots s)) h len q) →
    u.journal.state = .inconsistent ∧ (∀ x ∈ u.journal.slots, x = .unseen) ∧ (∀ b ∈ u.capture.coverage, b = false)
      ∧ u.evid = s.evid ∧ ∀ i : Str, SameRecord s.table[i] u.table[i]

/-- A ring of the size that a region map allows, within the tables that hold it (R111, R172). -/
structure RingHeld (s : State) : Prop where
  sectors : 2 ≤ ringSectors s ∧ ringSectors s ≤ 8
  slots   : ringSlots s ≤ s.journal.slots.length
  pages   : 16 * ringSectors s ≤ s.capture.coverage.length

/-! ## What a read shows of the ring -/

/-- A read shows slot `k` in full, and its bytes are judged as `x` (R128, R151). Where a wrapped read shows an address twice the last
showing counts (the model's choice, log 34). -/
def Shows (s : State) (t : Txn) (k : Nat) (x : Summary) : Prop :=
  ∃ bs, t.readStream.bytes (ringBase s + 8 * k) 8 = some bs ∧ judgeSlot bs = x

/-- The read shows that the ring has changed behind the part (R151). -/
def Changes (s : State) (t : Txn) : Prop :=
  ∃ k < ringSlots s,
    (∃ q q', s.journal.slots[k]? = some (.record q) ∧ Shows s t k (.record q') ∧ q' ≠ q)
    ∨ (∃ x, s.journal.slots[k]? = some .erased ∧ Shows s t k x ∧ x ≠ .erased)

/-- The read shows damage at slot `k` (R151). -/
def Damages (s : State) (t : Txn) (k : Nat) : Prop :=
  k < ringSlots s ∧ ∃ q, s.journal.slots[k]? = some (.record q) ∧ (Shows s t k .erased ∨ Shows s t k .corrupt)

/-- The read shows every doubtful slot, as `seen` (R145). -/
def ShowsDoubt (s : State) (t : Txn) (d : Doubt) (seen : List Summary) : Prop :=
  s.journal.doubt = some d ∧ seen.length = d.records.length ∧ ∀ j x, seen[j]? = some x → Shows s t (d.first + j) x

/-- The read shows a gap in the ring (R146). -/
def Gap (s : State) (t : Txn) : Prop :=
  ∃ (d : Doubt) (seen : List Summary) (i j : Nat) (x : Summary),
    ShowsDoubt s t d seen ∧ i < j ∧ seen[i]? = some .erased ∧ seen[j]? = some x ∧ x ≠ .erased

/-- The read shows an UNKNOWN sector erased throughout: all its bytes, and each byte of it in every pass 0xFF (R150). -/
def ShowsErased (s : State) (t : Txn) (j : Nat) : Prop :=
  (t.readStream.bytes (ringBase s + 4096 * j) 4096).isSome = true
    ∧ ∀ n x, t.stream.reverse[n]? = some x → (t.start + n) % t.cfg.memSize / 4096 = ringBase s / 4096 + j → x = some 0xFF

/-- An UNKNOWN sector that the read shows erased throughout becomes ERASED (R150). -/
def BecomesErased (s : State) (t : Txn) (j : Nat) : Prop := j < ringSectors s ∧ stateOf s j = some .unknown ∧ ShowsErased s t j

/-- The head sector is ERASED and another sector has become ERASED, so that it becomes HEAD (R132). -/
def OpensHead (s : State) (t : Txn) (k : Nat) : Prop :=
  k = s.journal.head / 512 ∧ k < ringSectors s ∧ stateOf s k = some .erased ∧ ∃ j, BecomesErased s t j

/-- What a comparison makes of the summaries and of the sector table (R150, R151): damage makes a slot CORRUPT, and an UNKNOWN sector shown
erased becomes ERASED, or HEAD if it holds the head slot, with every slot ERASED. -/
structure Compared (s : State) (t : Txn) (slots : List Summary) (sectors : List Sector) : Prop where
  erased  : ∀ k < s.journal.slots.length, BecomesErased s t (k / 512) → slots[k]? = some .erased
  corrupt : ∀ k, Damages s t k → ¬ BecomesErased s t (k / 512) → slots[k]? = some .corrupt
  stays   : ∀ k, ¬ Damages s t k → ¬ (k < s.journal.slots.length ∧ BecomesErased s t (k / 512)) → slots[k]? = s.journal.slots[k]?
  freed   : ∀ j, BecomesErased s t j → sectors[j]? = some ⟨if s.journal.head / 512 = j then .head else .erased, 0⟩
  head    : ∀ k, OpensHead s t k → sectors[k]? = s.journal.sectors[k]?.map fun y => ⟨.head, y.count⟩
  others  : ∀ k, ¬ BecomesErased s t k → ¬ OpensHead s t k → sectors[k]? = s.journal.sectors[k]?

/-- The entries after a comparison: the string whose live slot is damaged is marked (R5, R151). -/
def Marked (s : State) (t : Txn) (v : Vector Entry 24) : Prop :=
  ∀ i : Str, v[i].recorded = s.table[i].recorded ∧ v[i].liveSlot = s.table[i].liveSlot ∧ v[i].lastRefusal = s.table[i].lastRefusal
    ∧ (v[i].damaged = true ↔ s.table[i].damaged = true
        ∨ i.val < s.cfg.stringCount ∧ ∃ k, s.table[i].liveSlot = some k ∧ Damages s t k)

/-! ## Appends -/

/-- The bytes of slot `k` of a page's image, each none where it was not written. -/
def slotBytes (image : List (Option Byte)) (k : Nat) : List (Option Byte) := (image.drop (8 * k)).take 8

/-- The slots of the page that hold a written byte, in address order (R136). -/
def touched (image : List (Option Byte)) : List Nat :=
  (List.range 32).filter fun k => (slotBytes image k).any Option.isSome

/-- Every slot of the range is whole, and holds these contents (R136). -/
def Whole (image : List (Option Byte)) (contents : List (List Byte)) : Prop :=
  contents.map (fun bs => bs.map some) = (touched image).map (slotBytes image)

/-- The slots that a program into JOURNAL writes, by index (R128, R136). -/
def writtenRange (s : State) (t : Txn) : List Nat :=
  (touched t.image).map fun k => (t.start - t.start % 256 - ringBase s) / 8 + k

/-- The reserve (R140): the slots from the head to the end of the HEAD sector, and 512 for each ERASED sector. -/
def reserveOf (s : State) : Nat :=
  (if stateOf s (s.journal.head / 512) = some .head then 512 - s.journal.head % 512 else 0)
    + 512 * ((List.range (ringSectors s)).filter fun k => decide (stateOf s k = some .erased)).length

/-- The state against which the first record of a program is judged (R138). -/
def asItStands (s : State) : Projection where
  slot := s.journal.head
  seq := s.journal.nextSeq
  reserve := reserveOf s
  recorded := Vector.ofFn fun i => s.table[i].recorded
  latched := Vector.ofFn fun i => s.evid[i].latched
  live := Vector.ofFn fun i => s.table[i].liveSlot

/-- What a record that passes adds to the projection (R138). -/
def recorded (p : Projection) (bs : List Byte) (i : Str) (d : Disposition) : Projection where
  slot := p.slot + 1
  seq := p.seq + 1
  reserve := p.reserve - 1
  recorded := p.recorded.set i d
  latched := p.latched.set i (p.latched[i] &&& ~~~(byteAt bs 3 &&& 0x7F))
  live := p.live.set i (some p.slot)

/-- A record's string field names a present string (R138, check 2). -/
def Names (s : State) (bs : List Byte) (i : Str) : Prop := (byteAt bs 1).toNat = i.val ∧ i.val < s.cfg.stringCount

/-- A carry-forward (R140). -/
def CarriesForward (s : State) (p : Projection) (bs : List Byte) (i : Str) (d : Disposition) : Prop :=
  (∃ tail k, IsTail s tail ∧ stateOf s tail ≠ some .head ∧ p.live[i] = some k ∧ k / 512 = tail) ∧ byteAt bs 3 = 0
    ∧ (d = p.recorded[i] ∨ d = .isolate ∧ p.recorded[i] = .connect)

/-- A record whose marker, string, disposition and check pass (R138, checks 1 to 4). -/
structure FormOk (s : State) (bs : List Byte) (i : Str) (d : Disposition) : Prop where
  marker : byteAt bs 0 = 0xA5
  names  : Names s bs i
  disp   : Disposition.ofByte (byteAt bs 2) = some d
  check  : checkOk bs = true

/-- A record whose sequence and release preconditions pass as well (R138, checks 5 and 6). -/
structure ReleaseOk (s : State) (p : Projection) (bs : List Byte) (i : Str) (d : Disposition) : Prop where
  form   : FormOk s bs i d
  seq    : halfOf (byteAt bs 4) (byteAt bs 5) = p.seq
  absent : byteAt bs 3 &&& s.evid[i].present &&& 0x7F = 0
  keyed  : byteAt bs 3 &&& 0xD0 = 0 ∨ s.inputs.maintActive = true

/-- A cause would remain latched after a CONNECT (R139). -/
def StaysLatched (p : Projection) (bs : List Byte) (i : Str) (d : Disposition) : Prop :=
  d = .connect ∧ p.latched[i] &&& ~~~(byteAt bs 3 &&& 0x7F) ≠ 0

/-- A CONNECT or an ISOLATE of a string recorded LOCKOUT, without LOCKOUT_CLEAR (R139). -/
def LockedOut (p : Projection) (bs : List Byte) (i : Str) (d : Disposition) : Prop :=
  (d = .connect ∨ d = .isolate) ∧ p.recorded[i] = .lockout ∧ byteAt bs 3 &&& 0x80 = 0

/-- The first check of R138 that a record fails, judged against the projection `p`, with the code it gives (R139, R140). -/
inductive Fails (s : State) (p : Projection) (bs : List Byte) : RefusalCode → Prop where
  | marker : byteAt bs 0 ≠ 0xA5 → Fails s p bs .badMarker
  | string : byteAt bs 0 = 0xA5 → (∀ i : Str, ¬ Names s bs i) → Fails s p bs .badString
  | disposition (i : Str) : byteAt bs 0 = 0xA5 → Names s bs i → byteAt bs 2 ∉ [0x01, 0x02, 0x03] → Fails s p bs .badDisposition
  | check (i : Str) : byteAt bs 0 = 0xA5 → Names s bs i → byteAt bs 2 ∈ [0x01, 0x02, 0x03] → checkOk bs = false →
      Fails s p bs .badCheck
  | sequence (i : Str) (d : Disposition) : FormOk s bs i d → halfOf (byteAt bs 4) (byteAt bs 5) ≠ p.seq →
      Fails s p bs .badSequence
  | present (i : Str) (d : Disposition) : FormOk s bs i d → halfOf (byteAt bs 4) (byteAt bs 5) = p.seq →
      byteAt bs 3 &&& s.evid[i].present &&& 0x7F ≠ 0 → Fails s p bs .causePresent
  | maint (i : Str) (d : Disposition) : FormOk s bs i d → halfOf (byteAt bs 4) (byteAt bs 5) = p.seq →
      byteAt bs 3 &&& s.evid[i].present &&& 0x7F = 0 → byteAt bs 3 &&& 0xD0 ≠ 0 → s.inputs.maintActive = false →
      Fails s p bs .maintRequired
  | latched (i : Str) (d : Disposition) : ReleaseOk s p bs i d → StaysLatched p bs i d → Fails s p bs .causeLatched
  | lockout (i : Str) (d : Disposition) : ReleaseOk s p bs i d → ¬ StaysLatched p bs i d → LockedOut p bs i d →
      Fails s p bs .lockoutHeld
  | full (i : Str) (d : Disposition) : ReleaseOk s p bs i d → ¬ StaysLatched p bs i d → ¬ LockedOut p bs i d →
      ¬ CarriesForward s p bs i d → p.reserve < s.cfg.stringCount + 1 → Fails s p bs .journalFull

/-- A record that passes every check of R138 (R139, R140). -/
structure Passes (s : State) (p : Projection) (bs : List Byte) (i : Str) (d : Disposition) : Prop where
  release : ReleaseOk s p bs i d
  latched : ¬ StaysLatched p bs i d
  lockout : ¬ LockedOut p bs i d
  reserve : CarriesForward s p bs i d ∨ s.cfg.stringCount + 1 ≤ p.reserve

/-- Records pass one after another, each against the projection that those before it leave (R138). -/
inductive Projects (s : State) : Projection → List (List Byte) → Projection → Prop where
  | nil (p : Projection) : Projects s p [] p
  | cons (p q : Projection) (bs : List Byte) (rest : List (List Byte)) (i : Str) (d : Disposition) :
      Passes s p bs i d → Projects s (recorded p bs i d) rest q → Projects s p (bs :: rest) q

/-- The range of a program into JOURNAL follows the head, in the HEAD sector, and no suspended erase of that sector stands (R137). -/
structure AtHead (s : State) (t : Txn) (contents : List (List Byte)) : Prop where
  adopted : s.journal.state = .adopted
  whole   : Whole t.image contents
  range   : writtenRange s t = (List.range contents.length).map (s.journal.head + ·)
  free    : ¬ (s.mirror.state = .eraseSuspended ∧ ∃ e, s.journal.erase = some e ∧ e.sector = some (s.journal.head / 512))
  head    : stateOf s (s.journal.head / 512) = some .head

/-! ## Evidence -/

/-- One cause at an evaluation (R42, R43, R46): its present flag becomes `now`, and a confirmation latches or notes it. -/
structure Judged (e e' : Evidence) (c : Cause) (now confirmed enable : Bool) : Prop where
  present : CauseSet.has e'.present c = now
  latches : confirmed = true → enable = true → CauseSet.has e.latched c = false →
    CauseSet.has e'.latched c = true ∧ CauseSet.has e'.noted c = false
  notes   : confirmed = true → enable = false → CauseSet.has e.latched c = false →
    CauseSet.has e'.latched c = false ∧ CauseSet.has e'.noted c = true
  stays   : confirmed = false ∨ CauseSet.has e.latched c = true → CauseSet.has e'.latched c = CauseSet.has e.latched c
  keeps   : now = true → confirmed = false → CauseSet.has e'.noted c = CauseSet.has e.noted c
  clears  : now = false → CauseSet.has e'.noted c = false

/-- A cause that an evaluation does not judge. -/
structure Unjudged (e e' : Evidence) (c : Cause) : Prop where
  present : CauseSet.has e'.present c = CauseSet.has e.present c
  noted   : CauseSet.has e'.noted c = CauseSet.has e.noted c
  latched : CauseSet.has e'.latched c = CauseSet.has e.latched c

/-- A confirm counter after an evaluation (R42, R45). -/
def counted (n : Nat) (now : Bool) : Nat := if now then min 255 (n + 1) else 0

/-- R44. -/
def deviates (cfg : Config) (median : Option Int) (c : Int) : Bool :=
  match median with
  | none => false
  | some m => decide ((cfg.iDevMin : Int) ≤ m ∧ c * 256 < m * (256 - (cfg.devFrac : Int)))

/-! ## Formats -/

/-- One bit into the register of the check (R180). -/
def shifted (r : Half) (bit : Bool) : Half := if bit = r.getLsbD 15 then r <<< 1 else (r <<< 1) ^^^ 0x8005

/-- Two and three bytes of a field, the more significant first (10). -/
def wide16 (n : Nat) : List Byte := [BitVec.ofNat 8 (n / 256), BitVec.ofNat 8 n]

def wide24 (n : Nat) : List Byte := [BitVec.ofNat 8 (n / 65536), BitVec.ofNat 8 (n / 256), BitVec.ofNat 8 n]

/-- Two bytes of a signed field, in two's complement. -/
def wideInt (n : Int) : List Byte := wide16 (n % 65536).toNat

/-- The fields of one and of two bytes at an offset of a block (10.3). -/
def at1 (bs : List Byte) (k : Nat) : Nat := (byteAt bs k).toNat

def at2 (bs : List Byte) (k : Nat) : Nat := 256 * at1 bs k + at1 bs (k + 1)

/-- The stored ranges of 10.3: offset, least and greatest value, of the fields of one byte. -/
def ranges1 : List (Nat × Nat × Nat) :=
  [(3, 1, 24), (4, 0, 4), (5, 0, 7), (6, 0, 7), (7, 0, 7), (8, 0, 7), (96, 2, 50), (97, 4, 32), (98, 10, 150), (99, 5, 100),
   (102, 1, 255), (105, 1, 255), (108, 1, 255), (111, 1, 255), (114, 1, 20), (115, 5, 60), (116, 10, 200), (117, 0, 100),
   (122, 1, 255), (123, 0, 255), (124, 1, 4), (132, 1, 255), (133, 1, 100), (134, 1, 255), (135, 1, 255), (136, 1, 255)]

/-- The same of the fields of two bytes. -/
def ranges2 : List (Nat × Nat × Nat) :=
  [(100, 100, 20000), (103, 1000, 32000), (106, 100, 20000), (109, 1, 65535), (118, 10, 1000), (120, 10, 3000), (128, 1, 65533),
   (130, 2, 65534), (137, 10, 5000)]

/-- A block that passes the checks of R172 (R181 to R183), with the CONFIG sector that the straps fix. -/
structure BlockPasses (cfgSector : Nat) (bs : List Byte) : Prop where
  tag      : at1 bs 0 = 0xB2 ∧ at1 bs 1 = 0x44
  version  : at1 bs 2 = 1
  check    : at2 bs 254 = (crc16 (bs.take 254)).toNat
  fields   : (∀ x ∈ ranges1, x.2.1 ≤ at1 bs x.1 ∧ at1 bs x.1 ≤ x.2.2) ∧ ∀ x ∈ ranges2, x.2.1 ≤ at2 bs x.1 ∧ at2 bs x.1 ≤ x.2.2
  pairs    : at1 bs 115 < at1 bs 116 ∧ at2 bs 128 < at2 bs 130
  commands : ∀ e < 16, at1 bs (17 + 3 * e) ≤ 0x0D ∧ (at1 bs (17 + 3 * e) ≠ 0 → at1 bs (18 + 3 * e) ≤ 4)
  kinds    : ∀ r < 7, at1 bs (64 + 4 * r) ≤ 3 ∧ (at1 bs (64 + 4 * r) ≠ 0 → at2 bs (65 + 4 * r) ≤ 4095)
  codes    : ∀ e < 16, ∀ e' < 16, e ≠ e' → at1 bs (17 + 3 * e) ≠ 0 → at1 bs (17 + 3 * e') ≠ 0 →
    at1 bs (16 + 3 * e) ≠ at1 bs (16 + 3 * e')
  bits     : ∀ k < 4, ∀ k' < 4, k ≠ k' → at1 bs (5 + k) ≠ at1 bs (5 + k')
  journal  : ((List.range 7).filter fun r => at1 bs (64 + 4 * r) == 1).length = 1
  window   : ((List.range 7).filter fun r => at1 bs (64 + 4 * r) == 2).length = 1
  guarded  : ((List.range 7).filter fun r => at1 bs (64 + 4 * r) == 3).length ≤ 5
  counts   : ∀ r < 7, (at1 bs (64 + 4 * r) = 1 → 2 ≤ at1 bs (67 + 4 * r) ∧ at1 bs (67 + 4 * r) ≤ 8)
    ∧ (at1 bs (64 + 4 * r) = 2 → at1 bs (67 + 4 * r) = 1) ∧ (at1 bs (64 + 4 * r) = 3 → 1 ≤ at1 bs (67 + 4 * r))
  apart    : ∀ r < 7, ∀ r' < 7, r ≠ r' → at1 bs (64 + 4 * r) ≠ 0 → at1 bs (64 + 4 * r') ≠ 0 →
    at2 bs (65 + 4 * r) + at1 bs (67 + 4 * r) ≤ at2 bs (65 + 4 * r') ∨ at2 bs (65 + 4 * r') + at1 bs (67 + 4 * r') ≤ at2 bs (65 + 4 * r)
  config   : ∀ r < 7, at1 bs (64 + 4 * r) ≠ 0 →
    at2 bs (65 + 4 * r) + at1 bs (67 + 4 * r) ≤ cfgSector ∨ cfgSector < at2 bs (65 + 4 * r)
  memory   : (cfgSector + 1) * 4096 ≤ 1048576 * 2 ^ at1 bs 4
    ∧ ∀ r < 7, at1 bs (64 + 4 * r) ≠ 0 → (at2 bs (65 + 4 * r) + at1 bs (67 + 4 * r)) * 4096 ≤ 1048576 * 2 ^ at1 bs 4

/-- The configuration that a block holds, field by field of 10.3, each in the unit of its chapter. -/
structure HoldsConfig (bs : List Byte) (c : Config) : Prop where
  memory   : c.stringCount = at1 bs 3 ∧ c.memSize = 1048576 * 2 ^ at1 bs 4
  bits     : c.busyBit = at1 bs 5 ∧ c.welBit = at1 bs 6 ∧ c.suspBit = at1 bs 7 ∧ c.errBit = at1 bs 8
  commands : c.commands.map (fun e => (e.code.toNat, (CmdClass.code e.cls).toNat, e.dummy))
    = (List.range 16).map fun e => (at1 bs (16 + 3 * e), at1 bs (17 + 3 * e), if at1 bs (17 + 3 * e) = 0 then 0 else at1 bs (18 + 3 * e))
  regions  : c.regions.map (fun r => ((RegionKind.code r.kind).toNat, r.base, r.count))
    = ((List.range 7).map fun r => (at1 bs (64 + 4 * r), at2 bs (65 + 4 * r), at1 bs (67 + 4 * r))).filter fun x => x.1 != 0
  scan     : c.tScan = 10 * at1 bs 96 ∧ c.iFs = 1000 * at1 bs 97 ∧ c.vFs = 100 * at1 bs 98 ∧ c.tIso = 100 * at1 bs 99
  trips    : c.iRev = at2 bs 100 ∧ c.cRev = at1 bs 102 ∧ c.iMax = at2 bs 103 ∧ c.cOvc = at1 bs 105 ∧ c.iDevMin = at2 bs 106
    ∧ c.devFrac = at1 bs 108 ∧ c.devWindow = at2 bs 109 ∧ c.nDev = at1 bs 111
  enables  : c.enRev = (byteAt bs 112).getLsbD 0 ∧ c.enOvc = (byteAt bs 112).getLsbD 1 ∧ c.enDev = (byteAt bs 112).getLsbD 2
    ∧ c.enPrb = (byteAt bs 112).getLsbD 3
  options  : c.enSrch = (byteAt bs 113).getLsbD 0 ∧ c.optSweep = (byteAt bs 113).getLsbD 1 ∧ c.optBtrip = (byteAt bs 113).getLsbD 2
    ∧ c.optSdl = (byteAt bs 113).getLsbD 3
  switches : c.tSettle = at1 bs 114 ∧ c.tPulse = at1 bs 115 ∧ c.tTravel = at1 bs 116 ∧ c.tRch = at1 bs 117 ∧ c.iZero = at2 bs 118
    ∧ c.vMatch = at2 bs 120 ∧ c.qualCount = at1 bs 122 ∧ c.probation = at1 bs 123 ∧ c.grants = at1 bs 124
  search   : c.rMin = at2 bs 128 ∧ c.rOk = at2 bs 130 ∧ c.cIso = at1 bs 132 ∧ c.tSs = 100 * at1 bs 133 ∧ c.tStmo = at1 bs 134
    ∧ c.tRearm = at1 bs 135
  commits  : c.tPc = at1 bs 136 ∧ c.tEc = at2 bs 137

/-- The code values of 10.2, 10.3 and 10.5 to 10.7. -/
structure CodeValues : Prop where
  causes   : [Cause.reverse, .overcurrent, .deviation, .probation, .ground, .held, .weld].map Cause.bit
    = [0x01, 0x02, 0x04, 0x08, 0x10, 0x20, 0x40]
  classes  : [CmdClass.none, .read, .readFast, .status, .wren, .wrdi, .program, .erase4k, .erase64k, .eraseAll, .suspend, .resume,
      .pass, .block].map CmdClass.code = [0x00, 0x01, 0x02, 0x03, 0x04, 0x05, 0x06, 0x07, 0x08, 0x09, 0x0A, 0x0B, 0x0C, 0x0D]
  kinds    : [RegionKind.pass, .journal, .window, .guarded, .config].map RegionKind.code = [0x00, 0x01, 0x02, 0x03, 0x04]
  configs  : [CfgState.default, .adopted, .bad].map CfgState.code = [0x00, 0x01, 0x02]
  journals : [JournalState.notAdopted, .adopted, .doubtful, .inconsistent].map JournalState.code = [0x00, 0x01, 0x02, 0x03]
  sectors  : [SectorState.unseen, .erased, .head, .full, .erasing, .unknown].map SectorState.code = [0x00, 0x01, 0x02, 0x03, 0x04, 0x05]
  mirrors  : [MirrorState.unknown, .idle, .busyProgram, .busyErase, .eraseSuspended, .busyProgramInSuspend].map MirrorState.code
    = [0x00, 0x01, 0x02, 0x03, 0x04, 0x05]
  latches  : [Wel.unknown, .clear, .set].map Wel.code = [0x00, 0x01, 0x02]
  switches : [SwitchState.unfound, .opened, .qualify, .closeQueued, .closing, .closed, .openQueued, .opening, .failed].map
      SwitchState.code = [0x00, 0x01, 0x02, 0x03, 0x04, 0x05, 0x06, 0x07, 0x08]
  entries  : [Disposition.none, .connect, .isolate, .lockout].map Disposition.code = [0x00, 0x01, 0x02, 0x03]
    ∧ [Target.connected, .isolated].map Target.code = [0x00, 0x01]
    ∧ [Coherence.coherent, .unrecorded, .pending].map Coherence.code = [0x00, 0x01, 0x02]
    ∧ [Role.none, .suspect, .held].map Role.code = [0x00, 0x01, 0x02]
  results  : [IsoStatus.none, .valid, .disturbed, .invalid].map IsoStatus.code = [0x00, 0x01, 0x02, 0x03]
    ∧ [SearchPhase.idle, .baseline, .halving, .confirm, .sweep].map SearchPhase.code = [0x00, 0x01, 0x02, 0x03, 0x04]
    ∧ [SearchResult.none, .cleared, .found, .swept, .unlocated, .abortedSwitch, .abortedShutdown, .abortedMonitor, .abortedTimeout,
        .abortedConfig].map SearchResult.code = [0x00, 0x01, 0x02, 0x03, 0x04, 0x05, 0x06, 0x07, 0x08, 0x09]
  commits  : [CommitKind.program, .erase].map CommitKind.code = [0x01, 0x02]
    ∧ [CommitResult.none, .confirmed, .commitFailed, .commitTimeout, .unresolved, .resolved].map CommitResult.code
      = [0x00, 0x01, 0x02, 0x03, 0x04, 0x05]
  refusals : [RefusalCode.blockedCommand, .memoryStateUnknown, .welNotSet, .commitPending, .chipErase, .windowWrite, .eraseSpan,
      .configWrite, .guarded].map RefusalCode.code = [0x01, 0x02, 0x03, 0x04, 0x05, 0x06, 0x07, 0x08, 0x09]
    ∧ [RefusalCode.misaligned, .notAdopted, .doubtfulSlots, .journalInconsistent, .notHead, .sectorNotErased, .suspendedSector].map
      RefusalCode.code = [0x10, 0x11, 0x12, 0x13, 0x14, 0x15, 0x16]
    ∧ [RefusalCode.badMarker, .badString, .badDisposition, .badCheck, .badSequence, .causePresent, .maintRequired, .causeLatched,
        .lockoutHeld, .journalFull].map RefusalCode.code = [0x20, 0x21, 0x22, 0x23, 0x24, 0x25, 0x26, 0x27, 0x28, 0x29]
    ∧ [RefusalCode.eraseNotTail, .eraseLive].map RefusalCode.code = [0x30, 0x31]

/-- A refusal code, 0 for none; a string number, 0xFF for none; a mark. -/
def codeOr0 (c : Option RefusalCode) : Byte := match c with
  | some c => c.code
  | none => 0x00

def stringOrFF (i : Option Str) : Byte := match i with
  | some i => BitVec.ofNat 8 i.val
  | none => 0xFF

def mark (b : Bool) : Byte := if b then 0x01 else 0x00

/-- A present string of which `p` holds. -/
def SomePresent (s : State) (p : Str → Prop) : Prop := ∃ i : Str, i.val < s.cfg.stringCount ∧ p i

/-- The attention reasons that hold, bit by bit (R165, 10.5). -/
structure Reasons (s : State) (w : Half) : Prop where
  unrecorded   : w.getLsbD 0 = true ↔ SomePresent s fun i => s.table[i].coherence = .unrecorded
  failed       : w.getLsbD 1 = true ↔ SomePresent s fun i => s.seqs[i].state = .failed
  damaged      : w.getLsbD 2 = true ↔ SomePresent s fun i => s.table[i].damaged = true
  bad          : w.getLsbD 3 = true ↔ s.capture.state = .bad
  notAdopted   : w.getLsbD 4 = true ↔ s.journal.state = .notAdopted ∧ s.capture.adopted = true
  doubtful     : w.getLsbD 5 = true ↔ s.journal.state = .doubtful
  inconsistent : w.getLsbD 6 = true ↔ s.journal.state = .inconsistent
  search       : w.getLsbD 7 = s.search.attn
  monitor      : w.getLsbD 8 = s.iso.fault
  rest         : ∀ k, 9 ≤ k → w.getLsbD k = false

/-- The flags byte, bit by bit (10.5). -/
structure Flags (s : State) (b : Byte) : Prop where
  shdn     : b.getLsbD 0 = s.inputs.shdnRaw
  maint    : b.getLsbD 1 = s.inputs.maintActive
  shutdown : b.getLsbD 2 = s.inputs.shdnActive
  btrip    : b.getLsbD 3 = true ↔ s.cfg.optBtrip = true
    ∧ SomePresent s fun i => s.seqs[i].state = .failed ∧ CauseSet.has s.evid[i].present .weld = true
  deferred : b.getLsbD 4 = s.capture.deferred
  median   : b.getLsbD 5 = s.scan.median.isSome
  monitor  : b.getLsbD 6 = s.iso.fault
  erase    : b.getLsbD 7 = true ↔ ∃ e x, s.journal.erase = some e ∧ e.timer = .running x

/-- The remaining time of a timer in whole ms, rounded up, and at least 1 while it runs (R161). -/
def msLeft (expiry now : Nat) : Nat := max 1 ((expiry - now + 999) / 1000)

/-- The fields of the pending program and of the pending erase, offsets 24 to 35 (10.5; a paused time that is over shows 0, log 25). -/
def programField (s : State) : List Byte := match s.journal.prog with
  | none => [0, 0, 0, 0, 0, 0]
  | some c => [RegionKind.code c.kind] ++ wide24 c.addr ++ [BitVec.ofNat 8 c.records.length, BitVec.ofNat 8 (msLeft c.expiry s.now)]

def eraseField (s : State) : List Byte := match s.journal.erase with
  | none => [0, 0, 0, 0, 0, 0]
  | some c =>
    [RegionKind.code c.kind] ++ wide24 c.base ++ wide16 (match c.timer with
      | .running x => msLeft x s.now
      | .paused left => (left + 999) / 1000)

/-! ## Search steps -/

/-- The switch wait holds (R88). -/
def WaitHolds (s : State) : Prop :=
  ∀ i : Str, (s.table[i].role = .held → s.seqs[i].state = .opened) ∧ (s.table[i].role = .suspect → s.seqs[i].state = .closed)
    ∧ (i.val < s.cfg.stringCount → s.seqs[i].state ∉ [SwitchState.openQueued, .opening, .closeQueued, .closing])

/-- The switch wait of a stage has been judged (R88): where it holds the BASELINE measures, and any other stage settles for T_ss. -/
structure WaitJudged (u : State) : Prop where
  measures : WaitHolds u → u.search.phase = .baseline → u.search.stage = .measure ∧ u.search.measureAt = u.now
  settles  : WaitHolds u → u.search.phase ≠ .baseline → u.search.stage = .settle ∧ u.search.settleAt = u.now + u.cfg.tSs * 1000
  waits    : ¬ WaitHolds u → u.search.stage = .switchWait

/-- Re-arm and the reason SEARCH after a completion that is VALID at or above R_ok, or is not (R87, R101). -/
def rearmed (x : Search) (healthy : Bool) : Search := if healthy then { x with attn := false, rearmMet := true, rearmAt := none } else x

/-- The search `x` shows re-arm and the reason as `y` does. -/
def SameRearm (x y : Search) : Prop := x.attn = y.attn ∧ x.rearmMet = y.rearmMet ∧ x.rearmAt = y.rearmAt

/-- The trigger counter after a completion while the phase is IDLE (R84). -/
def triggerAfter (s : State) (inBand disturbed : Bool) (kohm : Nat) : Nat :=
  if inBand = false then 0
  else if disturbed then s.search.trigger
  else if min 65535 kohm < s.cfg.rMin then min 255 (s.search.trigger + 1)
  else 0

/-- A field of 5.1 differs (R100). -/
def SearchFieldsDiffer (a b : Config) : Prop :=
  (a.enSrch, a.cIso, a.rMin, a.rOk) ≠ (b.enSrch, b.cIso, b.rMin, b.rOk)
    ∨ (a.tSs, a.tStmo, a.tRearm, a.optSweep) ≠ (b.tSs, b.tStmo, b.tRearm, b.optSweep)

/-- A halving step with the suspects `xs` has begun (R91): the first half, rounded up, is held, and the other suspects are connected. -/
structure Halves (s u : State) (xs : List Str) : Prop where
  phase    : u.search.phase = .halving
  suspects : u.search.suspects = xs
  steps    : u.search.steps = s.search.steps + 1 ∧ u.search.disturbed = 0
  roles    : ∀ i : Str, u.table[i].role =
    if i ∈ xs.take ((xs.length + 1) / 2) then .held else if i ∈ xs then .suspect else .none
  stage    : WaitJudged u

/-- The confirming step has begun (R93). -/
structure Confirms (s u : State) (i : Str) : Prop where
  phase    : u.search.phase = .confirm
  suspects : u.search.suspects = [i]
  steps    : u.search.steps = s.search.steps + 1 ∧ u.search.disturbed = 0
  roles    : ∀ j : Str, u.table[j].role = if j = i then .held else .none
  stage    : WaitJudged u

/-- The search has ended at instant `at_` (R86, R101). -/
structure SearchEnds (s u : State) (at_ : Nat) (r : SearchResult) (found : Option Str) : Prop where
  search : u.search = endedSearch s at_ r found (r ∉ [SearchResult.none, .cleared, .found, .swept])
  roles  : ∀ i : Str, u.table[i].role = .none

/-- The suspect that measurement confirms (R94): the search ends FOUND, and GROUND is latched against it. -/
structure Found (s u : State) (at_ : Nat) (i : Str) : Prop where
  ends     : SearchEnds s u at_ .found (some i)
  ground   : CauseSet.has u.evid[i].latched .ground = true ∧ ∀ j : Str, j ≠ i → u.evid[j] = s.evid[j]
  isolated : i.val < s.cfg.stringCount → u.table[i].target = .isolated

/-- The string test of the first of `untested` has begun (R97): it is the SUSPECT, and the others stay held. A test that a hold stage starts
waits for its string, which is open, to close. -/
structure TestStarts (s u : State) (i : Str) (rest : List Str) : Prop where
  phase    : u.search.phase = .sweep
  suspects : u.search.suspects = i :: rest ∧ u.search.underTest = some i
  steps    : u.search.steps = s.search.steps + 1 ∧ u.search.disturbed = 0
  roles    : ∀ j : Str, u.table[j].role = if j ∈ rest then .held else if j = i then .suspect else .none
  stage    : s.search.stage = .hold ∧ u.search.stage = .switchWait ∨ WaitJudged u

/-- The hold stage of a sweep of `set` (R96). -/
structure Holds (s u : State) (set : List Str) : Prop where
  phase    : u.search.phase = .sweep ∧ u.search.stage = .hold
  suspects : u.search.suspects = set ∧ u.search.underTest = none
  steps    : u.search.steps = s.search.steps
  roles    : ∀ j : Str, u.table[j].role = if j ∈ set then .held else .none
  waits    : ¬ WaitHolds u

/-- The sweep goes on to its next test with the strings `untested`, or ends (R97): SWEPT with the lowest-numbered string that it has
latched GROUND against, and UNLOCATED if it has latched none. -/
structure SweepGoesOn (s u : State) (at_ : Nat) (untested swept : List Str) : Prop where
  next      : ∀ i rest, untested = i :: rest → TestStarts s u i rest ∧ u.search.swept = swept
  located   : ∀ i rest, untested = [] → swept = i :: rest → SearchEnds s u at_ .swept (some i)
  unlocated : untested = [] → swept = [] → SearchEnds s u at_ .unlocated none

/-- No suspect is confirmed (R95, R96): the sweep of `set` is entered, and holds its strings or starts its first test if they are open
already; with OPT_SWEEP off or no string to sweep the search ends UNLOCATED. -/
structure NotConfirmed (s u : State) (at_ : Nat) (set : List Str) : Prop where
  ends   : s.cfg.optSweep = false ∨ set = [] → SearchEnds s u at_ .unlocated none
  sweeps : s.cfg.optSweep = true → ∀ i rest, set = i :: rest → u.search.swept = []
    ∧ (Holds s u set ∨ TestStarts s u i rest)

/-- The original suspects that a sweep entered at the event takes (R96): those whose own target is CONNECTED after it. -/
def sweepSet (s u : State) : List Str :=
  s.search.originals.filter fun i => decide (i.val < s.cfg.stringCount) && ownTargetOf u i == .connected

/-- A halving step with the suspects `xs` begins, or what stands in its place where fewer than two are left (R91, R93, R95). -/
structure StepBegins (s u : State) (at_ : Nat) (xs : List Str) : Prop where
  halves : 2 ≤ xs.length → Halves s u xs
  one    : ∀ i, xs = [i] → Confirms s u i
  none   : xs = [] → NotConfirmed s u at_ (sweepSet s u)

/-- The suspects that an event overtakes, taken together (R9, R98): it changes their own targets from CONNECTED to ISOLATED. -/
def gone (s u : State) : List Str :=
  s.search.suspects.filter fun i =>
    decide (i.val < s.cfg.stringCount) && ownTargetOf s i == .connected && ownTargetOf u i == .isolated

/-- What the overtaken reports for the suspects `gone`, made at one event, do to the search, by its phase (R98); `left` are the others. -/
structure Overtaken (s u : State) (at_ : Nat) (gone left : List Str) : Prop where
  role     : ∀ i ∈ gone, u.table[i].role = .none
  baseline : s.search.phase = .baseline →
    (left = [] → SearchEnds s u at_ .unlocated none)
    ∧ (left ≠ [] → u.search.phase = .baseline ∧ u.search.suspects = left ∧ u.search.disturbed = 0
        ∧ u.search.steps = s.search.steps ∧ WaitJudged u)
  halving  : s.search.phase = .halving → StepBegins s u at_ left
  confirm  : s.search.phase = .confirm → NotConfirmed s u at_ (sweepSet s u)
  tested   : ∀ i ∈ gone, s.search.phase = .sweep → s.search.underTest = some i → SweepGoesOn s u at_ left s.search.swept
  untested : ∀ k, s.search.phase = .sweep → s.search.underTest = some k → k ∉ gone → s.search.stage ≠ .hold →
    u.search.suspects = left ∧ u.search.underTest = some k ∧ u.search.steps = s.search.steps ∧ u.search.phase = .sweep
      ∧ u.search.disturbed = s.search.disturbed ∧ u.search.swept = s.search.swept
      ∧ ∀ j : Str, j ∉ gone → u.table[j].role = s.table[j].role
  held     : s.search.phase = .sweep → s.search.underTest = none → s.search.stage = .hold →
    (left = [] → SearchEnds s u at_ .unlocated none)
    ∧ ∀ j rest, left = j :: rest → u.search.swept = s.search.swept
      ∧ (TestStarts s u j rest
        ∨ u.search.phase = .sweep ∧ u.search.stage = .hold ∧ u.search.suspects = left ∧ u.search.steps = s.search.steps
          ∧ ∀ k : Str, k ∉ gone → u.table[k].role = s.table[k].role)

/-- A report for a string that is no suspect does nothing to the search (R98): only a switch wait may come to hold. -/
def SearchGoesOn (s u : State) : Prop :=
  u.search.phase = s.search.phase ∧ u.search.suspects = s.search.suspects ∧ u.search.underTest = s.search.underTest
    ∧ u.search.steps = s.search.steps ∧ u.search.disturbed = s.search.disturbed ∧ u.search.swept = s.search.swept
    ∧ ∀ j : Str, u.table[j].role = s.table[j].role

end Sys2Proof.Claims

open Sys2Proof.Claims

/-! ## The queue of commands -/

/-- The command at the front of the queue runs, on the state with the queue's rest. -/
def Obligations.StepRunsFrontCommand : Prop :=
  ∀ (c : Instr) (rest : List Instr) (s : State), s.pending = c :: rest → step s = exec c { s with pending := rest }

/-- Every command answers a next state: none faults and none is refused (the model's choice, logs 2 and
26). Its time passes (log 1) and the queue stands. -/
def Obligations.EveryCommandAnswersNext : Prop :=
  ∀ (c : Instr) (s : State), ∃ u, exec c s = .next u ∧ u.now = s.now + c.elapsed ∧ u.pending = s.pending

/-! ## Reset -/

/-- R21, R28, R30, R37, R60, R61, R79, R80, R87, R102, R116, R126, R127, R129, R130, R155, R156, R158, R162, R166, R169, R171, R174, R175: the
reset values. That the probation and qualification counts of a sequencer without a switch state are 0 is the model's choice (log 40). -/
def Obligations.ResetValues : Prop :=
  let s := State.reset
  s.inReset = true ∧ s.cfg = Config.builtin ∧ s.cfg.stringCount = 24 ∧ s.cfg.memSize = 16 * 1048576 ∧ s.cfg.regions = []
    ∧ (∀ i : Str, s.table[i] = ⟨.none, none, false, .connected, .coherent, .none, none⟩)
    ∧ (∀ i : Str, s.evid[i] = ⟨0, 0, 0, none, 0, 0, 0, 0, 0⟩)
    ∧ (∀ i : Str, s.meas[i] = ⟨false, 0, false, 0, none, 0⟩)
    ∧ (∀ i : Str, s.seqs[i].state = .unfound ∧ s.seqs[i].act = none ∧ s.seqs[i].grant = .none
        ∧ s.seqs[i].probation = 0 ∧ s.seqs[i].qual = 0)
    ∧ s.arb.queue = [] ∧ s.arb.k = 2 ∧ s.arb.kPending = none
    ∧ s.inputs.shdnActive = false ∧ s.inputs.maintActive = false ∧ s.inputs.snapshot = []
    ∧ s.scan.number = 0 ∧ s.scan.boxValid = false ∧ s.scan.boxScan = 0 ∧ s.scan.bus = 0 ∧ s.scan.median = none ∧ s.scan.job = none
    ∧ s.iso.status = .none ∧ s.iso.value = 0 ∧ s.iso.fault = false ∧ s.iso.job = none
    ∧ s.search.phase = .idle ∧ s.search.result = .none ∧ s.search.found = none ∧ s.search.steps = 0
    ∧ s.search.suspects = [] ∧ s.search.originals = [] ∧ s.search.rearmMet = true ∧ s.search.rearmAt = none ∧ s.search.trigger = 0
    ∧ s.search.attn = false
    ∧ s.mirror = ⟨.unknown, .unknown, false, ⟨none, none, .none, 0⟩⟩
    ∧ s.txn = none ∧ s.ports.memSelected = false
    ∧ s.capture.state = .default ∧ s.capture.deferred = false ∧ (∀ j : Fin 8, s.capture.segments[j].valid = false)
    ∧ s.journal.state = .notAdopted ∧ s.journal.everAdopted = false ∧ s.journal.head = 0 ∧ s.journal.nextSeq = 0
    ∧ (∀ x ∈ s.journal.slots, x = .unseen) ∧ (∀ x ∈ s.journal.sectors, x = ⟨.unseen, 0⟩)
    ∧ s.journal.prog = none ∧ s.journal.erase = none ∧ s.journal.outcome = ⟨.program, .none, 0⟩
    ∧ (∀ l : Fin 25, s.window[l] = ⟨false, []⟩)
    ∧ s.pins = ⟨false, false⟩

/-- The invariants hold at reset. -/
def Obligations.InvariantsAtReset : Prop :=
  TableAgrees State.reset ∧ PinsAgree State.reset ∧ ResetQuiet State.reset ∧ SearchRests State.reset ∧ TargetsTaken State.reset
    ∧ HoldWaits State.reset ∧ AddressesAgree State.reset ∧ MirrorAgrees State.reset ∧ GrantsAgree State.reset ∧ ArbiterRests State.reset
    ∧ QueueAgrees State.reset

/-- POWER_ON and RESET_INPUT (R83, R103 to R105, R167) complete in every state, and every block drops to its reset value; what stands
outside the part goes on. At either kind a transaction in progress ends at the memory port with a partial byte, at the level of the last
bit sent; the bits of the byte that the reset cuts have passed. At power-on every drive ends; at the reset input a pulse or a travel in
flight is carried on, and a bypass in SETTLE or RETRY_WAIT goes off at once. That a level without a bit sent is free, what the
bits of a cut byte read on a chip select that is not forwarded, and that a count of free values goes on, are the model's choices
(logs 7 and 30). -/
def Obligations.ResetsDropEverything : Prop :=
  ∀ (dt : Nat) (cut : Release) (s : State), ∃ (p : Ports) (v : Vector Seq 24) (n : Nat),
    let dropped : State :=
      { State.reset with
        now := s.now + dt
        ports := p
        inputs := { State.reset.inputs with shdnRaw := s.inputs.shdnRaw, maintRaw := s.inputs.maintRaw }
        lines := s.lines
        free := n
        pending := s.pending }
    exec (.powerOn ⟨dt, cut⟩) s = .next dropped
    ∧ exec (.resetInput ⟨dt, cut⟩) s = .next { dropped with seqs := v }
    ∧ (s.txn = none → ∃ tail, p = { s.ports with memSelected := false, returnedTail := tail }
      ∧ (s.ports.ctlSelected = false ∨ cut.bits = 0 → tail = s.ports.returnedTail)
      ∧ (s.ports.ctlSelected = true → cut.bits ≠ 0 → ∃ b : Byte, tail = some ⟨cut.bits, ⟨cut.x.mosi, b⟩⟩
        ∧ (s.inReset = true → s.ports.returnedTail = none → b = 0xFF)
        ∧ (∀ r, s.inReset = true → s.ports.returnedTail = some r →
            ∀ k < 8, b.getLsbD k = (decide (k < 8 - r.bits.val) || r.x.miso.getLsbD k))))
    ∧ (∀ t, s.txn = some t → ∃ level b,
        p = { s.ports with
          memSelected := false
          returnedTail := if cut.bits = 0 then none else some ⟨cut.bits, ⟨cut.x.mosi, b⟩⟩
          memEnd := .partialByte level }
        ∧ (cut.bits ≠ 0 ∨ s.ports.memReceived ≠ [] → level = lastBit s cut)
        ∧ (t.cls ≠ some .read → t.cls ≠ some .readFast → s.mirror.refusalFlag = false ∨ t.cls ≠ some .status →
            b = cut.x.miso))
    ∧ ∀ i : Str, v[i] = { Seq.reset with act := v[i].act }
      ∧ (∀ a, s.seqs[i].act = some a → a.phase = .pulse ∨ a.phase = .travel → v[i].act = some a)
      ∧ (∀ a, s.seqs[i].act = some a → a.phase = .settle ∨ a.phase = .retryWait → v[i].act = none)
      ∧ (s.seqs[i].act = none → v[i].act = none)

/-- RESET_DRIVE_END (R83): at the pulse's end the bypass goes off if the line has shown the position or the window has run out, and
else waits for it; in travel it goes off at the first of the two. Nothing is reported. -/
def Obligations.ResetDriveEnds : Prop :=
  ∀ (dt : Nat) (s : State) (i : Str) (a : Act), s.inReset = true → s.seqs[i].act = some a →
    (a.phase = .pulse → a.until_ ≤ s.now + dt → a.seen = true ∨ a.travelEnd ≤ s.now + dt →
      exec (.resetDriveEnd dt i) s = .next { later s dt with seqs := s.seqs.set i { s.seqs[i] with act := none } })
    ∧ (a.phase = .pulse → a.until_ ≤ s.now + dt → a.seen = false → s.now + dt < a.travelEnd →
      exec (.resetDriveEnd dt i) s
        = .next { later s dt with seqs := s.seqs.set i { s.seqs[i] with act := some { a with phase := .travel } } })
    ∧ (a.phase = .travel → a.seen = true ∨ a.travelEnd ≤ s.now + dt →
      exec (.resetDriveEnd dt i) s = .next { later s dt with seqs := s.seqs.set i { s.seqs[i] with act := none } })

/-- RESET_RELEASE (R111, R168): with no drive left, the straps fix the CONFIG sector, the built-in defaults stand, the first scan and the
first insulation measurement start, and the debouncers time the levels they see; with a drive left the part stays in reset. That it carries
no bits of a byte that it falls into is the model's choice (log 38). -/
def Obligations.ResetReleaseStartsThePart : Prop :=
  ∀ (dt : Nat) (sel1 sel0 : Bool) (s : State), s.inReset = true →
    ((∀ i : Str, s.seqs[i].act = none) →
      exec (.resetRelease dt sel1 sel0) s = .next
        { later s dt with
          inReset := false
          cfg := Config.builtin
          cfgBase := if sel1 then (if sel0 then 0x1FF000 else 0x100000) else (if sel0 then 0x010000 else 0x000000)
          scan := { s.scan with
            timer := some (s.now + dt + 50000)
            job := some ⟨s.now + dt, s.now + dt + 40000, 24, 32000, 15000⟩ }
          iso := { s.iso with job := some ⟨s.now + dt, s.now + dt + 2000000, false⟩ }
          inputs := { s.inputs with
            shdnTiming := if s.inputs.shdnRaw = s.inputs.shdnActive then none else some (s.now + dt + 10000)
            maintTiming := if s.inputs.maintRaw = s.inputs.maintActive then none else some (s.now + dt + 50000) } })
    ∧ ((∃ i : Str, s.seqs[i].act.isSome = true) → exec (.resetRelease dt sel1 sel0) s = .next (later s dt))

/-! ## Invariants -/

/-- R6, R8, R11, R61, R62, R66, R70, R75, R80, R86, R88, R96, R110, R165, R166: after every step the targets, the coherence, ATTN and BTRIP
agree with what they follow, every present string's sequencer has taken its target, a stage is under way exactly while a search is active, a
sweep's hold stage stands only until its switch wait holds, and the start address of a transaction lies in the memory. With target CONNECTED
no switch stands in OPEN or OPEN_QUEUED; with target ISOLATED none stands in QUALIFY, CLOSE_QUEUED or CLOSED, nor in the settle of a close.
What a sequencer becomes as it takes its target is said of the events that move targets, row by row of R62. -/
def Obligations.TableAndPinsKept : Prop :=
  ∀ s u : State, TableAgrees s ∧ PinsAgree s ∧ ResetQuiet s ∧ SearchRests s ∧ HoldWaits s ∧ TargetsTaken s ∧ AddressesAgree s →
    step s = .next u → TableAgrees u ∧ PinsAgree u ∧ ResetQuiet u ∧ SearchRests u ∧ HoldWaits u ∧ TargetsTaken u ∧ AddressesAgree u

/-- R118, R122: every mirror state stands for its pending commits, after every step. -/
def Obligations.MirrorStandsForCommits : Prop :=
  ∀ s u : State, MirrorAgrees s → step s = .next u → MirrorAgrees u

/-- R77 to R79: after every step the arbiter has no work left: no slot stands free while a string waits, a lower K is pending only while
more grants than it are in use, and a string that waits has its entry, or defers its request while its own grant recharges. R77: the grants
in use do not exceed K, and a sequence holds its grant until its last pulse has ended: in SETTLE, in a pulse and in RETRY_WAIT, and also in
the travel of the first pulse of an open. That last one is the model's reading (log 9, DEDUCED): R77 returns the grant T_rch after the last
pulse, and whether the first pulse of an open is its last shows only at the end of its travel. Not said: the travel of a close and of the
second pulse of an open, and a drive carried to its end on a string that has left presence (R81) or in reset (R83), whose grant recharges or
is back already. -/
def Obligations.GrantsNeverExceedK : Prop :=
  ∀ s u : State, GrantsAgree s ∧ ArbiterRests s ∧ ResetQuiet s → step s = .next u → GrantsAgree u ∧ ArbiterRests u ∧ ResetQuiet u

/-- R78: the queue keeps its order, one entry a string, each of a string that waits and holds no grant, after every step. -/
def Obligations.QueueKeepsItsOrder : Prop := ∀ s u : State, QueueAgrees s → step s = .next u → QueueAgrees u

/-! ## The bus -/

/-- The model's own cut of a transaction into rows (log 4): a bus row is its bytes one after another: a row of bytes `xs ++ ys` is the row of `xs` and then the row of `ys` with the
release. -/
def Obligations.BusRowSplits : Prop :=
  ∀ (c : CmdClass) (dt : Nat) (xs ys : List Xfer) (rel : Option Release) (s : State) (t : Txn),
    c ≠ .none → s.txn = some t → t.cls = some c →
    ∃ u, exec (row c dt xs none) s = .next u ∧ exec (row c dt (xs ++ ys) rel) s = exec (row c 0 ys rel) u

/-- CHIP_SELECT_ASSERT (R103, R107, R113, R158): a new record under the settings in force, every latch mark cleared, the capture condition
fixed, the command byte passed both ways, and the class of the code by the command table in force, with the entry's dummy count for a
READ_FAST, which alone has dummy bytes (R108); a code of no used entry is of class BLOCK. That an assertion without a complete command
byte begins a record without a class is the model's choice (log 17). -/
def Obligations.ChipSelectBeginsARecord : Prop :=
  ∀ (dt : Nat) (cmd : Option Xfer) (s : State), s.inReset = false →
    ∃ (w : Vector Latch 25) (t : Txn),
      exec (.chipSelectAssert dt cmd) s = .next
        { later s dt with
          window := w
          ports := ⟨true, (cmd.map (·.miso)).toList, none, true, (cmd.map (·.mosi)).toList, .none⟩
          txn := some t }
      ∧ (∀ l : Fin 25, w[l] = ⟨false, s.window[l].bytes⟩)
      ∧ t.code = cmd.map (·.mosi) ∧ t.cfg = s.cfg ∧ t.count = 0 ∧ t.addrBytes = [] ∧ t.stream = [] ∧ t.image = List.replicate 256 none
      ∧ (cmd = none → t.cls = none)
      ∧ (s.cfg.commands = builtinCommands → ∀ k, t.code = some k →
          t.cls = some (if k = 0x41 then .read else if k = 0x42 then .readFast else if k = 0x57 then .status
            else if k = 0x51 then .wren else if k = 0x50 then .wrdi else if k = 0x62 then .program
            else if k = 0x71 then .erase4k else if k = 0x74 then .erase64k else if k = 0x7F then .eraseAll
            else if k = 0x6A then .suspend else if k = 0x6B then .resume else if k = 0x5F then .pass else .block)
          ∧ t.dummy = if k = 0x42 then 1 else 0)
      ∧ (∀ k, ∀ e ∈ s.cfg.commands, t.code = some k → e.cls ≠ .none → e.code = k →
          (∀ e' ∈ s.cfg.commands, e'.cls ≠ .none → e'.code = k → e' = e) →
          t.cls = some e.cls ∧ t.dummy = if e.cls = .readFast then e.dummy else 0)
      ∧ (∀ k, t.code = some k → (∀ e ∈ s.cfg.commands, e.cls = .none ∨ e.code ≠ k) → t.cls = some .block)
      ∧ (∀ a : Nat, t.cond.holds a = true ↔
          s.mirror.state = .idle
            ∨ s.mirror.state = .eraseSuspended ∧ ∀ e, s.journal.erase = some e → a < e.base ∨ e.base + e.size ≤ a)

/-- R105: in reset every byte the box controller reads is 0xFF, and no command reaches the memory. Of a byte that the reset cut, the bits
not yet read are high. -/
def Obligations.BusReadsHighInReset : Prop :=
  ∀ (c : CmdClass) (dt : Nat) (xs : List Xfer) (r : Release) (cmd : Option Xfer) (s : State),
    s.inReset = true → s.txn = none →
    (∃ u, exec (.chipSelectAssert dt cmd) s = .next u ∧ u.txn = none
      ∧ u.ports = { s.ports with
          ctlSelected := true, returned := if cmd.isSome then [0xFF] else [], returnedTail := none })
    ∧ (s.ports.ctlSelected = true → s.ports.returnedTail = none →
      exec (row c dt xs none) s = .next
        { later s dt with ports := { s.ports with returned := List.replicate xs.length 0xFF ++ s.ports.returned } }
      ∧ exec (row c dt xs (some r)) s = .next
        { later s dt with
          ports := { s.ports with
            returned := List.replicate xs.length 0xFF ++ s.ports.returned
            ctlSelected := false
            returnedTail := if r.bits = 0 then none else some ⟨r.bits, ⟨r.x.mosi, 0xFF⟩⟩ } })
    ∧ (∀ (tail : Release) (x : Xfer), s.ports.ctlSelected = true → s.ports.returnedTail = some tail →
      ∃ b : Byte, (∀ k < 8, b.getLsbD k = (decide (k < 8 - tail.bits.val) || tail.x.miso.getLsbD k))
        ∧ exec (row c dt [x] none) s = .next
          { later s dt with ports := { s.ports with returned := b :: s.ports.returned, returnedTail := none } }
        ∧ exec (row c dt [] (some r)) s = .next
          { later s dt with
            ports := { s.ports with
              ctlSelected := false
              returnedTail := if r.bits = 0 then none else some ⟨r.bits, ⟨r.x.mosi, b⟩⟩ } })

/-- R103, R108, R110, R158: the three address bytes pass both ways, and the last gives the address modulo the memory size. In a read the
address of the first data byte is then known, before any dummy byte, and in the window its record's latch is filled. That the first byte
received is the most significant is the model's choice (log 37). -/
def Obligations.AddressPhase : Prop :=
  ∀ (c : CmdClass) (dt : Nat) (x : Xfer) (s : State) (t : Txn),
    c ∈ addressed → s.txn = some t → t.cls = some c →
    (t.count < 2 → t.addrBytes.length = t.count →
      exec (row c dt [x] none) s = .next
        (passed s dt x x.miso
          { t with count := t.count + 1, addrBytes := t.addrBytes ++ [x.mosi], start := 0, addr := 0 }))
    ∧ (∀ b₀ b₁ : Byte, t.count = 2 → t.addrBytes = [b₀, b₁] →
      let a := (65536 * b₀.toNat + 256 * b₁.toNat + x.mosi.toNat) % t.cfg.memSize
      let u := passed s dt x x.miso { t with count := 3, addrBytes := [b₀, b₁, x.mosi], start := a, addr := a }
      (c = .read ∨ c = .readFast →
        ∃ w, exec (row c dt [x] none) s = .next { u with window := w } ∧ Latched (later s dt) t a w)
      ∧ (c ≠ .read → c ≠ .readFast → exec (row c dt [x] none) s = .next u))

/-- R108, R109, R115: the bytes after a command without an address, or after the address of an erase, pass both ways and are counted; a
data byte of a program is written at its wrapped offset in the image of its page besides. -/
def Obligations.BytesOfWritesAndCommands : Prop :=
  ∀ (c : CmdClass) (dt : Nat) (x : Xfer) (s : State) (t : Txn), s.txn = some t → t.cls = some c →
    (c ∈ [CmdClass.wren, .wrdi, .suspend, .resume, .eraseAll, .pass, .block]
        ∨ c ∈ [CmdClass.erase4k, .erase64k] ∧ 3 ≤ t.count →
      exec (row c dt [x] none) s = .next (passed s dt x x.miso { t with count := t.count + 1 }))
    ∧ (c = .program → 3 ≤ t.count →
      exec (.program dt [x] none) s = .next
        (passed s dt x x.miso
          { t with
            count := t.count + 1
            addr := t.start - t.start % 256 + (t.addr + 1) % 256
            image := t.image.set (t.addr % 256) (some x.mosi) }))

/-- R103, R113, R158: outside the WINDOW sector a data byte of a read is returned as the memory sent it, and captured exactly if the capture
condition holds; a dummy byte passes, neither substituted nor captured. At the end of a data byte the address of the next is known, and in
the window its record's latch is filled. -/
def Obligations.ReadBytesPass : Prop :=
  ∀ (c : CmdClass) (dt : Nat) (x : Xfer) (s : State) (t : Txn),
    c = .read ∨ c = .readFast → s.txn = some t → t.cls = some c → 3 ≤ t.count →
    (t.count < 3 + t.dummy →
      exec (row c dt [x] none) s = .next (passed s dt x x.miso { t with count := t.count + 1 }))
    ∧ (3 + t.dummy ≤ t.count → ¬ InWindow s t t.addr →
      let a := (t.addr + 1) % t.cfg.memSize
      let shown := if t.cond.holds t.addr then some x.miso else none
      ∃ w, exec (row c dt [x] none) s = .next
          { passed s dt x x.miso { t with count := t.count + 1, addr := a, stream := shown :: t.stream } with window := w }
        ∧ Latched (later s dt) t a w)

/-- R113, R157, R158: a byte of the WINDOW sector is served from its record's latch, and the memory's byte is neither returned nor captured;
at its end the address of the next byte is known, and the latch of that one is filled. An incomplete last byte carries the leading bits
of the byte that would have been served. -/
def Obligations.WindowBytesAreServed : Prop :=
  ∀ (c : CmdClass) (dt : Nat) (x : Xfer) (s : State) (t : Txn),
    c = .read ∨ c = .readFast → s.txn = some t → t.cls = some c → 3 + t.dummy ≤ t.count → InWindow s t t.addr →
    let a := (t.addr + 1) % t.cfg.memSize
    ∃ b, Supplied s (t.addr % 4096) b
      ∧ (∃ w, exec (row c dt [x] none) s = .next
            { passed s dt x b { t with count := t.count + 1, addr := a, stream := none :: t.stream } with window := w }
          ∧ Latched (later s dt) t a w)
      ∧ ∀ r : Release, ∃ u, exec (row c dt [] (some r)) s = .next u ∧ u.ports = (ended s dt r b .asSent).ports ∧ u.txn = none

/-- R159 to R165 and 10.5 to 10.7: every byte of the box record, of a present string's record and of an absent string's, with the code
values that they show. A search's step count shows its low 16 bits (log 27), a paused erase timer is rounded up like a running one (log 25),
and the tail before journal adoption is the one computed from the sector table (log 28). -/
def Obligations.WindowRecords : Prop :=
  CodeValues ∧ ∀ s : State,
    (∃ (flags : Byte) (w : Half) (tail : Nat) (sectors : List Byte), Flags s flags ∧ Reasons s w ∧ IsTail s tail
      ∧ sectors.length = 8
      ∧ (∀ k y, k < 8 → k < ringSectors s → s.journal.sectors[k]? = some y → sectors[k]? = some y.state.code)
      ∧ (∀ k, k < 8 → ringSectors s ≤ k → sectors[k]? = some 0xFF)
      ∧ boxRecord s =
        [0x24, 0x40, 0x01, s.capture.state.code, s.journal.state.code, flags]
          ++ wide16 w.toNat ++ wide16 s.journal.head ++ wide16 s.journal.nextSeq.toNat
          ++ [BitVec.ofNat 8 tail, s.mirror.state.code, s.mirror.wel.code, 0x00]
          ++ sectors ++ programField s ++ eraseField s
          ++ [codeOr0 s.mirror.lastRefusal.code, stringOrFF s.mirror.lastRefusal.str, CmdClass.code s.mirror.lastRefusal.cls]
          ++ wide24 s.mirror.lastRefusal.addr
          ++ [s.journal.outcome.kind.code, s.journal.outcome.result.code] ++ wide24 s.journal.outcome.addr
          ++ [s.search.phase.code] ++ wide16 s.scan.boxScan.toNat ++ wide16 s.scan.bus ++ wideInt (s.scan.median.getD (-32768))
          ++ wide16 s.iso.value ++ [s.iso.status.code, s.search.result.code, BitVec.ofNat 8 s.search.suspects.length]
          ++ wide16 s.search.steps
          ++ [stringOrFF s.search.found, BitVec.ofNat 8 (grantsInUse s), BitVec.ofNat 8 s.arb.queue.length]
      ∧ (boxRecord s).length = 64)
    ∧ ∀ i : Str, (stringRecord s i).length = 32
      ∧ (i.val < s.cfg.stringCount → stringRecord s i =
          [BitVec.ofNat 8 i.val, 0x01, s.table[i].recorded.code, s.table[i].target.code, s.seqs[i].state.code,
            s.table[i].coherence.code, s.evid[i].latched, s.evid[i].present, s.evid[i].noted, codeOr0 s.table[i].lastRefusal]
          ++ wide16 (s.table[i].liveSlot.getD 0xFFFF) ++ [mark s.table[i].damaged, s.table[i].role.code]
          ++ wideInt s.meas[i].current ++ [mark s.meas[i].saturated] ++ wide16 s.meas[i].voltage ++ wide16 s.meas[i].scan.toNat
          ++ [BitVec.ofNat 8 s.seqs[i].probation, BitVec.ofNat 8 s.seqs[i].qual, BitVec.ofNat 8 s.evid[i].revCount,
            BitVec.ofNat 8 s.evid[i].ovcCount, BitVec.ofNat 8 s.evid[i].devWindows, 0, 0, 0, 0, 0, 0])
      ∧ (s.cfg.stringCount ≤ i.val → stringRecord s i = BitVec.ofNat 8 i.val :: List.replicate 31 0x00)

/-- R117: the releases of WREN, WRDI, SUSPEND and RESUME, and the releases that are not clean. -/
def Obligations.ReleasesMoveTheMirror : Prop :=
  ∀ (dt : Nat) (r : Release) (s : State) (t : Txn), s.txn = some t →
    let u := ended s dt r r.x.miso .asSent
    (r.bits = 0 →
      (t.cls = some .wren →
        (s.mirror.state = .idle ∨ s.mirror.state = .eraseSuspended →
          exec (.wren dt [] (some r)) s = .next { u with mirror := { s.mirror with wel := .set } })
        ∧ (s.mirror.state = .unknown →
          exec (.wren dt [] (some r)) s = .next { u with mirror := { s.mirror with wel := .unknown } })
        ∧ (s.mirror.state = .busyProgram ∨ s.mirror.state = .busyErase ∨ s.mirror.state = .busyProgramInSuspend →
          exec (.wren dt [] (some r)) s = .next u))
      ∧ (t.cls = some .wrdi →
        exec (.wrdi dt [] (some r)) s = .next { u with mirror := { s.mirror with wel := .clear } })
      ∧ (t.cls = some .suspend → exec (.suspend dt [] (some r)) s = .next u)
      ∧ (t.cls = some .resume →
        (∀ c left, s.mirror.state = .eraseSuspended → s.journal.erase = some c → c.timer = .paused left →
          exec (.resume dt [] (some r)) s = .next
            { u with
              mirror := { s.mirror with state := .busyErase }
              journal := { s.journal with erase := some { c with timer := .running (s.now + dt + left) } } })
        ∧ (s.mirror.state ≠ .eraseSuspended → exec (.resume dt [] (some r)) s = .next u)))
    ∧ ∀ c ∈ [CmdClass.wren, .wrdi, .suspend, .resume, .program, .erase4k, .erase64k, .eraseAll], t.cls = some c →
        r.bits ≠ 0 ∨ ¬ Complete t c →
        exec (row c dt [] (some r)) s = .next { u with mirror := { s.mirror with wel := .clear } }

/-- R109: a code of no used entry has class BLOCK; a transaction of class PASS is passed through untouched; one of class BLOCK is passed
through until its release, clean or not, and refused there. -/
def Obligations.PassAndBlock : Prop :=
  ∀ (dt : Nat) (x : Xfer) (r : Release) (s : State) (t : Txn), s.txn = some t →
    (t.cls = some .pass →
      exec (.pass dt [x] none) s = .next (passed s dt x x.miso { t with count := t.count + 1 })
      ∧ exec (.pass dt [] (some r)) s = .next (ended s dt r r.x.miso .asSent))
    ∧ (t.cls = some .block →
      exec (.block dt [x] none) s = .next (passed s dt x x.miso { t with count := t.count + 1 })
      ∧ exec (.block dt [] (some r)) s = .next (refused s dt t .block r .blockedCommand none))
    ∧ ∀ (cmd : Xfer) (w : State), w.inReset = false → (∀ e ∈ w.cfg.commands, e.cls = .none ∨ e.code ≠ cmd.mosi) →
      ∃ v t', exec (.chipSelectAssert dt (some cmd)) w = .next v ∧ v.txn = some t' ∧ t'.cls = some .block

/-! ## Status -/

/-- R114, R116, R127: a status byte is returned as the memory sent it, but for the error bit while the refusal flag is set; the mirror
takes the memory's own byte. The release of the transaction moves nothing else. -/
def Obligations.StatusByteReturned : Prop :=
  ∀ (dt : Nat) (x : Xfer) (s : State) (t : Txn), s.txn = some t → t.cls = some .status → t.cfg.errBit < 8 →
    ∃ u b, exec (.status dt [x] none) s = .next u
      ∧ u.ports = (passed s dt x b t).ports ∧ u.txn = some { t with count := t.count + 1 }
      ∧ (s.mirror.refusalFlag = false → b = x.miso)
      ∧ (s.mirror.refusalFlag = true → ∀ k < 8, b.getLsbD k = (x.miso.getLsbD k || k == t.cfg.errBit))
      ∧ u.mirror.refusalFlag = s.mirror.refusalFlag ∧ u.mirror.lastRefusal = s.mirror.lastRefusal
      ∧ u.mirror.wel = (if x.miso.getLsbD t.cfg.welBit then .set else .clear)
      ∧ u.mirror.state = mirrorTable s.mirror.state (x.miso.getLsbD t.cfg.busyBit) (x.miso.getLsbD t.cfg.suspBit)
      ∧ u.inputs = s.inputs ∧ u.lines = s.lines ∧ SameMeasurement s u
      ∧ SameBus { s with ports := u.ports, txn := u.txn, capture := u.capture } u
      ∧ ∀ r : Release, ∃ b',
          exec (.status dt [] (some r)) s = .next (ended s dt r b' .asSent) ∧ (s.mirror.refusalFlag = false → b' = r.x.miso)

/-- R14, R53, R62, R75, R116, R142: an observation that resolves the pending program with the error bit clear applies its records, a
released WELD takes a FAILED switch out of that state, and every other sequencer takes the target that the records leave, row by row of R62.
Where it shows the memory out of a suspension as well, the erase ends UNRESOLVED at the same event (R150); the outcome shown is open (log
12). -/
def Obligations.StatusConfirmsProgram : Prop :=
  ∀ (dt : Nat) (x : Xfer) (s : State) (t : Txn) (susp : Bool) (c : ProgCommit),
    Observed s t x false susp false → s.journal.prog = some c →
    (ResolvesProgram s susp →
      ∃ u, exec (.status dt [x] none) s = .next u
        ∧ u.journal = { s.journal with prog := none, outcome := ⟨.program, .confirmed, c.addr⟩ }
        ∧ Applied s u (numbered c.first c.records) ∧ SameAround s u)
    ∧ (∀ e, s.mirror.state = .busyProgramInSuspend → susp = false → s.journal.erase = some e →
      ∃ u slots o, exec (.status dt [x] none) s = .next u ∧ u.mirror.state = .idle
        ∧ u.journal = { s.journal with
            prog := none, erase := none, sectors := endedSectors s.journal e, slots := slots, outcome := o }
        ∧ EndedSlots s e slots ∧ EitherOutcome o .confirmed c .unresolved e
        ∧ Applied s u (numbered c.first c.records) ∧ SameAround s u)

/-- R15, R143, R154: an observation that resolves the pending program with the error bit set applies no record and latches nothing. It leaves
the slots of the range DOUBTFUL and the journal with them; while the journal is INCONSISTENT the slots become UNSEEN and the state stays.
The head, the next sequence and the counts stand, and a CONFIG or GUARDED program leaves all of the journal but the outcome. Where it shows
the memory out of a suspension as well, the erase ends UNRESOLVED at the same event (R150); the outcome shown is open (log 12). -/
def Obligations.StatusFailsProgram : Prop :=
  ∀ (dt : Nat) (x : Xfer) (s : State) (t : Txn) (susp : Bool) (c : ProgCommit),
    Observed s t x false susp true → s.journal.prog = some c →
    let leaves := fun j : Journal => ∃ u, exec (.status dt [x] none) s = .next u ∧ u.journal = j
      ∧ u.mirror.state = mirrorTable s.mirror.state false susp ∧ u.evid = s.evid ∧ ∀ i : Str, SameRecord s.table[i] u.table[i]
    (ResolvesProgram s susp →
      (c.kind ≠ .journal → leaves { s.journal with prog := none, outcome := ⟨.program, .commitFailed, c.addr⟩ })
      ∧ (InRing s c → ∃ slots, leaves (endedProgram s c .commitFailed slots) ∧ EndedRange s c slots))
    ∧ (∀ e, s.mirror.state = .busyProgramInSuspend → susp = false → s.journal.erase = some e →
      (c.kind ≠ .journal → ∃ slots o,
        leaves { s.journal with
          prog := none, erase := none, sectors := endedSectors s.journal e, slots := slots, outcome := o }
        ∧ EndedSlots s e slots ∧ EitherOutcome o .commitFailed c .unresolved e)
      ∧ (InRing s c → ∃ slots o,
        leaves { endedProgram s c .commitFailed slots with
          erase := none, sectors := endedSectors s.journal e, outcome := o }
        ∧ EndedBoth s c e slots ∧ EitherOutcome o .commitFailed c .unresolved e))

/-- R116, R132, R149, R150, R152 to R154: an observation ends the pending erase. Confirmed, a journal erase makes its sector ERASED, or HEAD
if it holds the head slot, with every slot ERASED; a recovery erase, and one that stands while the journal is INCONSISTENT, also covers
the pages of its sector, which may bring the adoption. With the error bit set, or out of a suspension without a resume that the part saw,
the sector becomes UNKNOWN with every slot UNSEEN, but a recovery erase leaves the tables. A CONFIG or GUARDED erase moves the outcome
alone. That the sector that holds the head slot becomes HEAD also while the journal is INCONSISTENT is read from R132 beside R152
(log 39). -/
def Obligations.StatusEndsErase : Prop :=
  ∀ (dt : Nat) (x : Xfer) (s : State) (t : Txn) (err : Bool) (c : EraseCommit),
    Observed s t x false false err → s.journal.erase = some c →
    (∀ j, s.mirror.state = .busyErase → err = false → c.sector = some j → c.recovery = false → s.journal.state ≠ .inconsistent →
      j < ringSectors s → j < s.journal.sectors.length →
      ∃ u sectors slots, exec (.status dt [x] none) s = .next u ∧ u.mirror.state = .idle
        ∧ u.journal = { s.journal with
            erase := none, sectors := sectors, slots := slots, outcome := ⟨.erase, .confirmed, c.base⟩ }
        ∧ (∀ k, sectors[k]? =
            if k = j then some ⟨if s.journal.head / 512 = j then .head else .erased, 0⟩
            else if k = s.journal.head / 512 ∧ (s.journal.sectors[k]?.map (·.state)) = some .erased ∧ k < ringSectors s then
              s.journal.sectors[k]?.map fun y => ⟨.head, y.count⟩
            else s.journal.sectors[k]?)
        ∧ (∀ k, slots[k]? = if k / 512 = j ∧ k < s.journal.slots.length then some .erased else s.journal.slots[k]?)
        ∧ u.evid = s.evid ∧ ∀ i : Str, SameRecord s.table[i] u.table[i])
    ∧ (s.mirror.state = .busyErase → err = false → c.sector = none →
      ∃ u, exec (.status dt [x] none) s = .next u ∧ u.mirror.state = .idle
        ∧ u.journal = { s.journal with erase := none, outcome := ⟨.erase, .confirmed, c.base⟩ }
        ∧ u.evid = s.evid ∧ ∀ i : Str, SameRecord s.table[i] u.table[i])
    ∧ (∀ j, s.mirror.state = .busyErase → err = false → c.sector = some j →
      s.journal.state = .inconsistent ∨ c.recovery = true ∧ s.journal.state = .notAdopted → RingHeld s → j < ringSectors s →
      ∃ u slots cov, exec (.status dt [x] none) s = .next u ∧ u.mirror.state = .idle
        ∧ u.journal.erase = none ∧ u.journal.outcome = ⟨.erase, .confirmed, c.base⟩
        ∧ (∀ k, slots[k]? = if k / 512 = j ∧ k < s.journal.slots.length then some .erased else s.journal.slots[k]?)
        ∧ (∀ p, cov[p]? = if p / 16 = j ∧ p < s.capture.coverage.length then some true else s.capture.coverage[p]?)
        ∧ (u.journal.state = .notAdopted ∨ u.journal.state = .inconsistent →
            ∀ k, u.journal.sectors[k]? =
              if c.recovery then s.journal.sectors[k]?
              else if k = j ∧ k < s.journal.sectors.length then some ⟨if s.journal.head / 512 = j then .head else .erased, 0⟩
              else if k = s.journal.head / 512 ∧ (s.journal.sectors[k]?.map (·.state)) = some .erased ∧ k < ringSectors s then
                s.journal.sectors[k]?.map fun y => ⟨.head, y.count⟩
              else s.journal.sectors[k]?)
        ∧ Attempted s u slots cov)
    ∧ (∀ result, s.mirror.state = .busyErase ∧ err = true ∧ result = .commitFailed
          ∨ s.mirror.state = .eraseSuspended ∧ result = .unresolved →
      ∃ u slots, exec (.status dt [x] none) s = .next u ∧ u.mirror.state = .idle
        ∧ u.journal = { s.journal with
            erase := none, sectors := endedSectors s.journal c, slots := slots, outcome := ⟨.erase, result, c.base⟩ }
        ∧ EndedSlots s c slots
        ∧ u.evid = s.evid ∧ u.capture = s.capture ∧ ∀ i : Str, SameRecord s.table[i] u.table[i])

/-- R116, R148: the erase timer is paused with its remaining time at the observation that shows the erase suspended, and runs on with it
at one that shows the erase busy again. -/
def Obligations.StatusPausesErase : Prop :=
  ∀ (dt : Nat) (x : Xfer) (s : State) (t : Txn) (err : Bool) (c : EraseCommit),
    s.journal.erase = some c →
    (∀ x', s.mirror.state = .busyErase → c.timer = .running x' → Observed s t x false true err →
      ∃ u, exec (.status dt [x] none) s = .next u ∧ u.mirror.state = .eraseSuspended
        ∧ u.journal = { s.journal with erase := some { c with timer := .paused (x' - (s.now + dt)) } })
    ∧ (∀ left susp, s.mirror.state = .eraseSuspended → c.timer = .paused left → Observed s t x true susp err →
      ∃ u, exec (.status dt [x] none) s = .next u ∧ u.mirror.state = .busyErase
        ∧ u.journal = { s.journal with erase := some { c with timer := .running (s.now + dt + left) } })

/-! ## Verdicts -/

/-- R112: the sectors that the span of a program or an erase touches, and the protected ones: those that touch a kind other than PASS. An
ERASE_ALL touches the CONFIG sector, so it is protected. -/
def Obligations.WriteSpans : Prop :=
  ∀ (s : State) (t : Txn) (k : RegionKind),
    let kind := sectorKind t.cfg s.cfgBase
    (touches s t .program k = true ↔ kind (t.start / 4096) = k)
    ∧ (touches s t .erase4k k = true ↔ kind (t.start / 4096) = k)
    ∧ (touches s t .erase64k k = true ↔ ∃ j < 16, kind (t.start / 65536 * 16 + j) = k)
    ∧ (touches s t .eraseAll k = true ↔ ∃ j, j * 4096 < t.cfg.memSize ∧ kind j = k)
    ∧ (∀ c ∈ writes, isProtected s t c = true ↔ ∃ k ≠ RegionKind.pass, touches s t c k = true)
    ∧ (s.cfgBase < t.cfg.memSize → isProtected s t .eraseAll = true)

/-- R19, R104, R126: what a refusal does, for every class that can be refused; no code of the bus passage names a string. -/
def Obligations.RefusalEffects : Prop :=
  ∀ (dt : Nat) (r : Release) (s : State) (t : Txn), s.txn = some t →
    (∀ c ∈ writes, t.cls = some c → r.bits = 0 → Complete t c → ∀ code str,
      verdict (later s dt) t c = .refused code str →
        exec (row c dt [] (some r)) s = .next (refused s dt t c r code str)
        ∧ (code ∈ [RefusalCode.memoryStateUnknown, .welNotSet, .commitPending, .chipErase, .windowWrite, .eraseSpan,
            .configWrite, .guarded] → str = none))
    ∧ (t.cls = some .block → exec (.block dt [] (some r)) s = .next (refused s dt t .block r .blockedCommand none))

/-- R121: a protected write is refused while the mirror is UNKNOWN, and while the write-enable mirror is not SET. -/
def Obligations.MirrorChecks : Prop :=
  ∀ (c : CmdClass) (dt : Nat) (r : Release) (s : State) (t : Txn),
    c ∈ writes → s.txn = some t → t.cls = some c → r.bits = 0 → Complete t c → isProtected s t c = true →
    (s.mirror.state = .unknown →
      exec (row c dt [] (some r)) s = .next (refused s dt t c r .memoryStateUnknown none))
    ∧ (s.mirror.state ≠ .unknown → s.mirror.wel = .clear ∨ s.mirror.wel = .unknown →
      exec (row c dt [] (some r)) s = .next (refused s dt t c r .welNotSet none))

/-- R120, R122, R123: the checks 3 to 8 on a protected write, in their order. -/
def Obligations.RegionChecks : Prop :=
  ∀ (c : CmdClass) (dt : Nat) (r : Release) (s : State) (t : Txn),
    c ∈ writes → s.txn = some t → t.cls = some c → r.bits = 0 → Complete t c → isProtected s t c = true →
    let answers := fun code => exec (row c dt [] (some r)) s = .next (refused s dt t c r code none)
    let hits := fun k => touches s t c k = true
    (s.mirror.state ≠ .unknown → s.mirror.wel = .set → InTheWay s t c → answers .commitPending)
    ∧ (Ready s t c →
      (c = .eraseAll → answers .chipErase)
      ∧ (c ≠ .eraseAll → hits .window → answers .windowWrite)
      ∧ (c = .erase64k → ¬ hits .window → hits .journal → answers .eraseSpan)
      ∧ (c ≠ .eraseAll → ¬ hits .window → ¬ (c = .erase64k ∧ hits .journal) → s.inputs.maintActive = false →
        (hits .config → answers .configWrite) ∧ (¬ hits .config → hits .guarded → answers .guarded)))

/-- R118, R124, R127: a write whose span touches only PASS sectors is refused while a commit is pending, and is otherwise forwarded in
every mirror state; it moves the mirror to UNKNOWN and clears the refusal flag. -/
def Obligations.PassRegionWrites : Prop :=
  ∀ (c : CmdClass) (dt : Nat) (r : Release) (s : State) (t : Txn),
    c ∈ [CmdClass.program, .erase4k, .erase64k] → s.txn = some t → t.cls = some c → r.bits = 0 → Complete t c →
    isProtected s t c = false →
    (s.journal.prog.isSome = true ∨ s.journal.erase.isSome = true →
      exec (row c dt [] (some r)) s = .next (refused s dt t c r .commitPending none))
    ∧ (s.journal.prog = none → s.journal.erase = none →
      exec (row c dt [] (some r)) s = .next (released s dt r .unknown))

/-- R118, R125, R154, R171: an accepted program of a CONFIG or GUARDED page becomes a program commit without records; the segments that a
CONFIG program writes lose their marks. -/
def Obligations.GuardedProgramAccepted : Prop :=
  ∀ (dt : Nat) (r : Release) (s : State) (t : Txn) (k : RegionKind),
    s.txn = some t → t.cls = some .program → r.bits = 0 → 4 ≤ t.count →
    k = .config ∨ k = .guarded → sectorKind t.cfg s.cfgBase (t.start / 4096) = k →
    s.inputs.maintActive = true → s.mirror.wel = .set →
    (s.mirror.state = .idle ∧ s.journal.prog = none ∧ s.journal.erase = none
      ∨ s.mirror.state = .eraseSuspended ∧ ¬ InTheWay s t .program) →
    ∃ segs : Vector Segment 8,
      exec (.program dt [] (some r)) s = .next
        { released s dt r (if s.mirror.state = .idle then .busyProgram else .busyProgramInSuspend) with
          journal := { s.journal with
            prog := some ⟨k, t.start - t.start % 256, 0, [], s.now + dt + s.cfg.tPc * 1000⟩ }
          capture := { s.capture with segments := segs } }
      ∧ ∀ j : Fin 8, segs[j] = ⟨s.capture.segments[j].valid
          && !(k == .config && decide (t.start - t.start % 256 = s.cfgBase)
              && ((t.image.drop (32 * j.val)).take 32).any Option.isSome),
          s.capture.segments[j].bytes⟩

/-- R118, R123, R125, R154, R171: an accepted erase of CONFIG and GUARDED sectors becomes an erase commit with its span and its timer; one
that touches the CONFIG sector clears every segment mark. -/
def Obligations.GuardedEraseAccepted : Prop :=
  ∀ (c : CmdClass) (dt : Nat) (r : Release) (s : State) (t : Txn) (base size : Nat),
    c = .erase4k ∧ base = t.start - t.start % 4096 ∧ size = 4096
      ∨ c = .erase64k ∧ base = t.start - t.start % 65536 ∧ size = 65536 →
    s.txn = some t → t.cls = some c → r.bits = 0 → 3 ≤ t.count →
    touches s t c .config = true ∨ touches s t c .guarded = true →
    touches s t c .window = false → touches s t c .journal = false →
    s.inputs.maintActive = true → s.mirror.state = .idle → s.mirror.wel = .set →
    s.journal.prog = none → s.journal.erase = none →
    ∃ segs : Vector Segment 8,
      exec (row c dt [] (some r)) s = .next
        { released s dt r .busyErase with
          journal := { s.journal with
            erase := some ⟨if touches s t c .config then .config else .guarded, base, size, none, false,
              .running (s.now + dt + s.cfg.tEc * 1000)⟩ }
          capture := { s.capture with segments := segs } }
      ∧ ∀ j : Fin 8, segs[j] = ⟨s.capture.segments[j].valid && !touches s t c .config, s.capture.segments[j].bytes⟩

/-- R147, R148, R153: while ADOPTED, an erase of the tail sector or of an UNKNOWN sector that is not HEAD and holds no live record is
accepted; the sector becomes ERASING and the erase timer starts. Another sector is refused, and so is one with a live record, naming the
lowest string. While DOUBTFUL every journal erase is refused. While NOT_ADOPTED or INCONSISTENT a recovery erase is accepted with
maintenance active: its slots become UNSEEN, its pages lose their marks, and the sector table stands. -/
def Obligations.JournalEraseVerdict : Prop :=
  ∀ (dt : Nat) (r : Release) (s : State) (t : Txn) (j : Nat),
    s.txn = some t → t.cls = some .erase4k → r.bits = 0 → 3 ≤ t.count →
    sectorKind t.cfg s.cfgBase (t.start / 4096) = .journal → j = (t.start - ringBase s) / 4096 →
    s.mirror.state = .idle → s.mirror.wel = .set → s.journal.prog = none → s.journal.erase = none →
    let accepted := fun recovery : Bool => (⟨.journal, ringBase s + 4096 * j, 4096, some j, recovery,
      .running (s.now + dt + s.cfg.tEc * 1000)⟩ : EraseCommit)
    (∀ y, s.journal.state = .adopted → s.journal.sectors[j]? = some y →
      (IsTail s j ∨ y.state = .unknown → y.state ≠ .head → (∀ i : Str, i.val < s.cfg.stringCount →
          ∀ k, s.table[i].liveSlot = some k → k / 512 ≠ j) →
        exec (.erase4k dt [] (some r)) s = .next
          { released s dt r .busyErase with
            journal := { s.journal with
              sectors := s.journal.sectors.set j ⟨.erasing, y.count⟩
              erase := some (accepted false) } })
      ∧ ((¬ IsTail s j ∧ y.state ≠ .unknown) ∨ y.state = .head →
        exec (.erase4k dt [] (some r)) s = .next (refused s dt t .erase4k r .eraseNotTail none))
      ∧ (∀ (i : Str) (k : Nat), IsTail s j ∨ y.state = .unknown → y.state ≠ .head →
        i.val < s.cfg.stringCount → s.table[i].liveSlot = some k → k / 512 = j →
        (∀ i' : Str, i'.val < i.val → ∀ k', s.table[i'].liveSlot = some k' → k' / 512 ≠ j) →
        exec (.erase4k dt [] (some r)) s = .next (refused s dt t .erase4k r .eraseLive (some i))))
    ∧ (s.journal.state = .doubtful →
      exec (.erase4k dt [] (some r)) s = .next (refused s dt t .erase4k r .doubtfulSlots none))
    ∧ (s.journal.state = .notAdopted ∨ s.journal.state = .inconsistent →
      (s.inputs.maintActive = false →
        exec (.erase4k dt [] (some r)) s = .next (refused s dt t .erase4k r .notAdopted none))
      ∧ (s.inputs.maintActive = true →
        ∃ slots cov, exec (.erase4k dt [] (some r)) s = .next
            { released s dt r .busyErase with
              journal := { s.journal with slots := slots, erase := some (accepted true) }
              capture := { s.capture with coverage := cov } }
          ∧ (∀ k, slots[k]? = if k / 512 = j ∧ k < s.journal.slots.length then some .unseen else s.journal.slots[k]?)
          ∧ (∀ p, cov[p]? = if p / 16 = j ∧ p < s.capture.coverage.length then some false else s.capture.coverage[p]?)))

/-- R13, R132, R134, R136 to R141: an append whose checks all pass is accepted: of the mirror and the commits, of the range, and of each record
against the projection that the records before it leave. It takes its slots as RECORD, moves the head and the next sequence on, counts in its
sector, starts the commit timer and makes its strings PENDING; no disposition, live slot or cause changes. With the last slot of its sector
taken the sector is FULL, and the sector that then holds the head becomes HEAD if it is ERASED. -/
def Obligations.AppendAccepted : Prop :=
  ∀ (dt : Nat) (r : Release) (s : State) (t : Txn) (contents : List (List Byte)) (y : Sector),
    s.txn = some t → t.cls = some .program → r.bits = 0 → 4 ≤ t.count →
    sectorKind t.cfg s.cfgBase (t.start / 4096) = .journal →
    Ready s t .program → AtHead s t contents → (∃ p, Projects s (asItStands s) contents p) →
    s.journal.head + contents.length ≤ s.journal.slots.length → s.journal.sectors[s.journal.head / 512]? = some y →
    s.journal.head % 512 + contents.length ≤ 512 → s.journal.head < ringSlots s →
    let head' := (s.journal.head + contents.length) % ringSlots s
    let full := s.journal.head % 512 + contents.length = 512
    ∃ u slots sectors, exec (.program dt [] (some r)) s = .next u
      ∧ u.mirror = (released s dt r (if s.mirror.state = .eraseSuspended then .busyProgramInSuspend else .busyProgram)).mirror
      ∧ u.ports = (ended s dt r r.x.miso .asSent).ports ∧ u.txn = none
      ∧ u.journal = { s.journal with
          slots := slots
          sectors := sectors
          head := head'
          nextSeq := s.journal.nextSeq + BitVec.ofNat 16 contents.length
          prog := some ⟨.journal, ringBase s + 8 * s.journal.head, s.journal.head, contents.map recordFields,
            s.now + dt + s.cfg.tPc * 1000⟩ }
      ∧ (∀ k, slots[k]? =
          if s.journal.head ≤ k then
            ((contents[k - s.journal.head]?).map fun bs => Summary.record (recordFields bs)).or s.journal.slots[k]?
          else s.journal.slots[k]?)
      ∧ (∀ k, sectors[k]? =
          if k = s.journal.head / 512 then some ⟨if full then .full else y.state, y.count + contents.length⟩
          else if full ∧ k = head' / 512 ∧ (s.journal.sectors[k]?.map (·.state)) = some .erased then
            s.journal.sectors[k]?.map fun z => ⟨.head, z.count⟩
          else s.journal.sectors[k]?)
      ∧ (∀ (i : Str), i.val < s.cfg.stringCount → (∃ bs ∈ contents, (byteAt bs 1).toNat = i.val) →
          u.table[i].coherence = .pending)
      ∧ u.evid = s.evid ∧ u.capture = s.capture ∧ u.cfg = s.cfg ∧ (∀ i : Str, SameRecord s.table[i] u.table[i])

/-- R19, R126, R136 to R140: which append is refused, with which code, and which string the refusal names: the checks of the range, of the
journal state and of the HEAD sector in their order, and then the first record in slot order that fails a check against the projection
that the records before it leave. -/
def Obligations.AppendsAreRefused : Prop :=
  ∀ (dt : Nat) (r : Release) (s : State) (t : Txn),
    s.txn = some t → t.cls = some .program → r.bits = 0 → 4 ≤ t.count →
    sectorKind t.cfg s.cfgBase (t.start / 4096) = .journal → Ready s t .program →
    let answers := fun code str => exec (.program dt [] (some r)) s = .next (refused s dt t .program r code str)
    let head := s.journal.head
    let inSuspended := s.mirror.state = .eraseSuspended ∧ ∃ e, s.journal.erase = some e ∧ e.sector = some (head / 512)
    ((∀ contents, ¬ Whole t.image contents) → answers .misaligned none)
    ∧ ∀ contents, Whole t.image contents →
      (s.journal.state = .notAdopted → answers .notAdopted none)
      ∧ (s.journal.state = .doubtful → answers .doubtfulSlots none)
      ∧ (s.journal.state = .inconsistent → answers .journalInconsistent none)
      ∧ (s.journal.state = .adopted →
        (writtenRange s t ≠ (List.range contents.length).map (head + ·) → answers .notHead none)
        ∧ (writtenRange s t = (List.range contents.length).map (head + ·) →
          (inSuspended → answers .suspendedSector none)
          ∧ (¬ inSuspended → stateOf s (head / 512) ≠ some .head → answers .sectorNotErased none)))
      ∧ (AtHead s t contents → ∀ before bs after p code, contents = before ++ bs :: after →
          Projects s (asItStands s) before p → Fails s p bs code →
          (∀ i, Names s bs i → answers code (some i)) ∧ ((∀ i, ¬ Names s bs i) → answers code none))

/-- R128, R180: the check is a register that starts at 0xFFFF and takes each byte from bit 7 down to bit 0, with the polynomial 0x8005. Eight
bytes 0xFF are judged ERASED; a marker 0xA5 with the check of the first six bytes, whose high byte comes first, a record with the fields of
bytes 1 to 5; anything else CORRUPT. The eight bytes of a record are judged as that record. -/
def Obligations.SlotsAreJudged : Prop :=
  crc16 [] = 0xFFFF
    ∧ (∀ (bs : List Byte) (b : Byte), crc16 (bs ++ [b]) = [7, 6, 5, 4, 3, 2, 1, 0].foldl (fun r k => shifted r (b.getLsbD k)) (crc16 bs))
    ∧ judgeSlot (List.replicate 8 0xFF) = .erased
    ∧ (∀ b₀ b₁ b₂ b₃ b₄ b₅ b₆ b₇ : Byte,
        let bs := [b₀, b₁, b₂, b₃, b₄, b₅, b₆, b₇]
        let good := b₀ = 0xA5 ∧ 256 * b₆.toNat + b₇.toNat = (crc16 [b₀, b₁, b₂, b₃, b₄, b₅]).toNat
        (good → judgeSlot bs = .record ⟨b₁, b₂, b₃, BitVec.ofNat 16 (256 * b₄.toNat + b₅.toNat)⟩)
        ∧ (¬ good → bs ≠ List.replicate 8 0xFF → judgeSlot bs = .corrupt))
    ∧ ∀ r : Record, (Record.bytes r).length = 8 ∧ judgeSlot (Record.bytes r) = .record r

/-! ## Reads -/

/-- R170, R172 to R176, R181 to R183: a read captures the segments that it streams over whole, and the others stay as they were, captured by
earlier reads or not. Once all eight are valid the block is judged and every mark is cleared. A block that passes is adopted, with K as R79
takes it; one that fails leaves the configuration as it was and the state BAD. The first adoption after reset takes every field, coverage
starts empty, and the strings at and above the new count leave presence (R2, R81). A later one leaves the string count, the memory size and
the region map, and says by the deferred flag whether any of the three differs (that two maps agree if their used entries do is the model's
reading, log 35). An adoption that changes a field of 5.1 ends a search in progress ABORTED_CONFIG, and one that changes none does not
(R100); that the re-arm timer then takes the new T_rearm is the model's choice (log 32). -/
def Obligations.ConfigurationsAdopted : Prop :=
  ∀ (c : CmdClass) (dt : Nat) (r : Release) (s : State) (t : Txn), ReadEnds s t c r →
    let ok := BlockPasses (s.cfgBase / 4096) (blockAfter s t)
    ∃ u, exec (row c dt [] (some r)) s = .next u
      ∧ ((∃ j, (segmentAfter s t j).valid = false) →
        u.cfg = s.cfg ∧ u.capture.state = s.capture.state ∧ u.capture.adopted = s.capture.adopted
        ∧ u.capture.deferred = s.capture.deferred ∧ ∀ j : Fin 8, u.capture.segments[j] = segmentAfter s t j)
      ∧ ((∀ j, (segmentAfter s t j).valid = true) →
        (∀ j : Fin 8, u.capture.segments[j].valid = false)
        ∧ (¬ ok → u.cfg = s.cfg ∧ u.capture.state = .bad ∧ u.capture.adopted = s.capture.adopted
            ∧ u.capture.deferred = s.capture.deferred ∧ u.pins.attnLow = true)
        ∧ (ok → ∃ new, HoldsConfig (blockAfter s t) new
          ∧ u.capture.state = .adopted ∧ u.capture.adopted = true ∧ AdoptedK s u new.grants
          ∧ (s.search.phase ≠ .idle → SearchFieldsDiffer s.cfg u.cfg →
            SearchEnds { s with cfg := u.cfg } u (s.now + dt) .abortedConfig none)
          ∧ (¬ SearchFieldsDiffer s.cfg u.cfg → s.search.result ≠ .abortedConfig → u.search.result ≠ .abortedConfig)
          ∧ (s.capture.adopted = true →
            u.cfg = { new with stringCount := s.cfg.stringCount, memSize := s.cfg.memSize, regions := s.cfg.regions }
            ∧ (u.capture.deferred = true ↔
                new.stringCount ≠ s.cfg.stringCount ∨ new.memSize ≠ s.cfg.memSize ∨ new.regions ≠ s.cfg.regions))
          ∧ (s.capture.adopted = false → u.cfg = new ∧ u.capture.deferred = false
            ∧ u.capture.coverage = List.replicate 128 false
            ∧ (t.cfg.regions = [] → s.search.phase = .idle → s.search.stage = .none →
                ∀ i : Str, new.stringCount ≤ i.val → i.val < s.cfg.stringCount → LeavesPresence s u dt i)
            ∧ (t.cfg.regions = [] → s.journal.state = .notAdopted → u.pins.attnLow = true)))
        ∧ (s.capture.adopted = false → t.cfg.regions = [] → u.journal = s.journal ∧ u.mirror = s.mirror))

/-- R62, R145, R146, R150 to R152: the release of a read while the journal is ADOPTED or DOUBTFUL. A change or a gap makes the journal
INCONSISTENT: every summary is UNSEEN, the coverage is empty, and the sector table, the head, the tail and the next sequence stand (that a
gap leaves the last commit outcome is the model's choice, log 33). Damage makes a slot CORRUPT and marks the string whose live slot it is,
and an UNKNOWN sector shown erased becomes ERASED, or HEAD if it holds the head slot, whatever else the read shows. A read of every doubtful
slot frees the slots after the last that is not erased, applies the records that read as expected, and leaves the others CORRUPT; the slots
and sectors around them are as the comparison leaves them, and the sequencers take the targets that the records give. Where a wrapped read
shows an address several times, that the last showing counts for a slot, and that every showing must be 0xFF for a sector, is the model's
choice (log 34). That the start address lies in the memory is kept by every step. -/
def Obligations.JournalReadsAreCompared : Prop :=
  ∀ (c : CmdClass) (dt : Nat) (r : Release) (s : State) (t : Txn),
    ReadEnds s t c r → journalRegion t.cfg ≠ none → s.journal.state = .adopted ∨ s.journal.state = .doubtful →
    s.capture.adopted = true →
    (Changes s t ∨ Gap s t →
      ∃ u tail, exec (row c dt [] (some r)) s = .next u
        ∧ IsTail s tail ∧ u.journal = inconsistentFrom s tail ∧ (∀ b ∈ u.capture.coverage, b = false)
        ∧ u.evid = s.evid ∧ ∀ i : Str, SameRecord s.table[i] u.table[i])
    ∧ (¬ Changes s t → (∀ d seen, ¬ ShowsDoubt s t d seen) →
      ((∃ j, stateOf s j = some .unknown) → t.start < t.cfg.memSize) →
      ∃ u slots sectors, exec (row c dt [] (some r)) s = .next u
        ∧ u.journal = { s.journal with slots := slots, sectors := sectors }
        ∧ Compared s t slots sectors ∧ Marked s t u.table ∧ u.evid = s.evid)
    ∧ (∀ d shown freed recs rest, ¬ Changes s t → ((∃ j, stateOf s j = some .unknown) → t.start < t.cfg.memSize) →
      ShowsDoubt s t d (shown ++ List.replicate freed .erased) → (∀ x ∈ shown, x ≠ Summary.erased) →
      d.records = recs ++ rest → recs.length = shown.length → d.first + d.records.length ≤ s.journal.slots.length →
      RingHeld s → d.first < ringSlots s → d.first / 512 < s.journal.sectors.length →
      ∃ u before table entries y slots sectors, exec (row c dt [] (some r)) s = .next u
        ∧ Compared s t before table ∧ Marked s t entries ∧ table[d.first / 512]? = some y
        ∧ u.journal = { s.journal with
            state := .adopted, doubt := none, slots := slots, sectors := sectors
            head := if freed = 0 then s.journal.head else d.first + shown.length
            nextSeq := (rest.head?.map (·.seq)).getD s.journal.nextSeq
            outcome := ⟨.program, .resolved, ringBase s + 8 * d.first⟩ }
        ∧ (∀ k q x, recs[k]? = some q → shown[k]? = some x →
            slots[d.first + k]? = some (if x = .record q then .record q else .corrupt))
        ∧ (∀ k < freed, slots[d.first + shown.length + k]? = some .erased)
        ∧ (∀ k, ¬ InRange d.first d.records.length k → slots[k]? = before[k]?)
        ∧ (∀ k, sectors[k]? =
            if freed = 0 then table[k]?
            else if k = d.first / 512 then some ⟨if y.state = .full then .head else y.state, y.count - freed⟩
            else if y.state = .full ∧ k = (d.first / 512 + 1) % ringSectors s ∧ (table[k]?.map (·.state)) = some .head then
              table[k]?.map fun z => ⟨.erased, z.count⟩
            else table[k]?)
        ∧ Applied { s with table := entries } u (confirmedSlots d.first recs shown))

/-- R62, R176 to R179: the release of a read while the journal is NOT_ADOPTED or INCONSISTENT. Every page that the read shows whole has its
slots judged and is covered, every other page keeps its mark and its slots, and the last uncovered page brings the attempt at an adoption,
after which the sequencers take the targets that it gives. Where a wrapped read shows a page several times the last showing counts, which is
the model's choice (log 34). -/
def Obligations.RingIsAdopted : Prop :=
  ∀ (c : CmdClass) (dt : Nat) (r : Release) (s : State) (t : Txn),
    ReadEnds s t c r → journalRegion t.cfg ≠ none → s.journal.state = .notAdopted ∨ s.journal.state = .inconsistent →
    s.capture.adopted = true → RingHeld s →
    let page := fun p => t.readStream.bytes (ringBase s + 256 * p) 256
    ∃ u slots cov, exec (row c dt [] (some r)) s = .next u
      ∧ (∀ p < 16 * ringSectors s, ∀ bs, page p = some bs →
          cov[p]? = some true ∧ ∀ k < 32, slots[32 * p + k]? = some (judgeSlot ((bs.drop (8 * k)).take 8)))
      ∧ (∀ p, page p = none ∨ 16 * ringSectors s ≤ p →
          cov[p]? = s.capture.coverage[p]? ∧ ∀ k < 32, slots[32 * p + k]? = s.journal.slots[32 * p + k]?)
      ∧ Attempted s u slots cov

/-! ## Measurement -/

/-- R24 to R26: a current code that is not full scale gives c × I_fs / 2048 mA, rounded toward zero, and a full-scale one ±32767 mA with the
saturated flag; voltage code 4095 gives V_fs and any other code k × V_fs / 4096, rounded down, so that a value lies in 0..V_fs. That a voltage
code below 0 counts as 0 and one above 4095 as 4095 is the model's choice (log 23). -/
def Obligations.Conversions : Prop :=
  (∀ (iFs : Nat) (c : Int), -2047 ≤ c → c ≤ 2047 →
    saturatedOf c = false
      ∧ (currentOf iFs c).natAbs = c.natAbs * iFs / 2048
      ∧ (0 ≤ c → 0 ≤ currentOf iFs c) ∧ (c ≤ 0 → currentOf iFs c ≤ 0))
    ∧ saturatedOf 2048 = true ∧ saturatedOf (-2048) = true
    ∧ currentOf 32000 2047 = 31984 ∧ currentOf 32000 (-2047) = -31984 ∧ currentOf 16000 2047 = 15992
    ∧ (∀ iFs, currentOf iFs 0 = 0 ∧ currentOf iFs 2048 = 32767 ∧ currentOf iFs (-2048) = -32767)
    ∧ (∀ (vFs : Nat) (k : Int), 0 ≤ k → k ≤ 4094 → voltageOf vFs k = k.toNat * vFs / 4096)
    ∧ (∀ (vFs : Nat), voltageOf vFs 4095 = vFs)
    ∧ (∀ (vFs : Nat) (k : Int), k ≤ 0 → voltageOf vFs k = 0)
    ∧ (∀ (vFs : Nat) (k : Int), voltageOf vFs k ≤ vFs)
    ∧ voltageOf 15000 4094 = 14992 ∧ voltageOf 15000 2048 = 7500

/-- SCAN_START and SCAN_COMPLETION (R22, R24 to R30): at its start a scan reloads the timer and takes N, I_fs and V_fs, and its completion
falls four fifths of T_scan later. At the completion the scan number advances, the records of the present strings and the box record are
written, and the median is that of the eligible strings. -/
def Obligations.ScansStartAndComplete : Prop :=
  (∀ (dt : Nat) (s : State) (x : Nat), s.scan.timer = some x → x ≤ s.now + dt → s.scan.job = none →
    exec (.scanStart dt) s = .next
      { later s dt with
        scan := { s.scan with
          timer := some (s.now + dt + s.cfg.tScan * 1000)
          job := some ⟨s.now + dt, s.now + dt + s.cfg.tScan * 1000 * 4 / 5, s.cfg.stringCount, s.cfg.iFs, s.cfg.vFs⟩ } })
  ∧ ∀ (dt : Nat) (samples : Vector Sample 24) (bus : Int) (s : State) (job : ScanJob), ScanDue s dt job →
    ∃ u, exec (.scanCompletion dt samples bus) s = .next u
      ∧ (∀ i : Str, i.val < s.cfg.stringCount → i.val < job.count →
          u.meas[i] = ⟨true, currentOf job.iFs samples[i].current, saturatedOf samples[i].current,
            voltageOf job.vFs samples[i].voltage, some samples[i].closed, s.scan.number + 1⟩)
      ∧ (∀ i : Str, s.cfg.stringCount ≤ i.val ∨ job.count ≤ i.val → u.meas[i] = s.meas[i])
      ∧ u.scan = { s.scan with
          job := none, number := s.scan.number + 1, found := true, boxValid := true, boxScan := s.scan.number + 1
          bus := voltageOf job.vFs bus, median := medianOf (eligibleCurrents s u.meas) }
      ∧ SameBus s u ∧ SameJournal s u ∧ u.inputs = s.inputs ∧ u.lines = s.lines ∧ u.iso.value = s.iso.value
      ∧ u.iso.status = s.iso.status ∧ u.iso.fault = s.iso.fault

/-- R29: the median is one of the currents, the lower of the two middle values where their number is even; with fewer than three there
is none. -/
def Obligations.MedianIsLowerMiddle : Prop :=
  ∀ xs : List Int,
    (xs.length < 3 → medianOf xs = none)
    ∧ (3 ≤ xs.length → ∃ m ∈ xs, medianOf xs = some m
        ∧ (xs.filter fun x => decide (x < m)).length ≤ (xs.length - 1) / 2
        ∧ (xs.length - 1) / 2 < (xs.filter fun x => decide (x ≤ m)).length)

/-- R50, R61: at the first completion a string found open is OPEN with HELD of origin FOUND_OPEN; one found closed is CLOSED without
probation while its target is CONNECTED, and with the target ISOLATED, as when shutdown is already active, it moves on to OPEN_QUEUED and
asks for its grant. That FOUND_OPEN is the origin also where HELD of origin OTHER is latched already is the model's choice (log 31). -/
def Obligations.FoundState : Prop :=
  ∀ (dt : Nat) (samples : Vector Sample 24) (bus : Int) (s : State) (job : ScanJob) (i : Str),
    ScanDue s dt job → s.scan.found = false → i.val < s.cfg.stringCount → i.val < job.count →
    s.seqs[i] = Seq.reset →
    ∃ u, exec (.scanCompletion dt samples bus) s = .next u
      ∧ (samples[i].closed = false → u.seqs[i].state = .opened ∧ u.table[i].target = .isolated
          ∧ CauseSet.has u.evid[i].latched .held = true ∧ u.evid[i].heldOrigin = some .foundOpen)
      ∧ (samples[i].closed = true → u.evid[i].latched = s.evid[i].latched
          ∧ AtTarget u i .connected { Seq.reset with state := .closed }
          ∧ (u.table[i].target = .isolated → Asks u i { Seq.reset with state := .openQueued } .open_))

/-- R38, R41 to R48: the causes of a string at a scan completion. Running, it is judged for REVERSE and OVERCURRENT, and for DEVIATION
where a deviation window closes; on probation, for PROBATION; not closed, for none. A cause that is not judged is not present, and its
counters are 0. A confirmed cause is latched where it is trip-enabled, and the target is ISOLATED at that completion; else it is
noted. -/
def Obligations.CausesAreConfirmed : Prop :=
  ∀ (dt : Nat) (samples : Vector Sample 24) (bus : Int) (s : State) (job : ScanJob) (i : Str),
    ScanDue s dt job → s.scan.found = true → i.val < s.cfg.stringCount → i.val < job.count →
    ∃ u, exec (.scanCompletion dt samples bus) s = .next u
      ∧ (u.evid[i].latched ≠ 0 → u.table[i].target = .isolated)
      ∧ (let e := s.evid[i]
        let e' := u.evid[i]
        let current := currentOf job.iFs samples[i].current
        let rev := decide (current ≤ -(s.cfg.iRev : Int))
        let ovc := decide ((s.cfg.iMax : Int) ≤ current) || (saturatedOf samples[i].current && decide (0 < current))
        let cleared := Judged e e' .reverse false false s.cfg.enRev ∧ Judged e e' .overcurrent false false s.cfg.enOvc
          ∧ Judged e e' .deviation false false s.cfg.enDev ∧ e'.revCount = 0 ∧ e'.ovcCount = 0 ∧ e'.winScans = 0
          ∧ e'.winDeviant = 0 ∧ e'.devWindows = 0
        (s.seqs[i].state = .closed → s.seqs[i].probation = 0 →
          Judged e e' .probation false false s.cfg.enPrb
          ∧ e'.revCount = counted e.revCount rev ∧ e'.ovcCount = counted e.ovcCount ovc
          ∧ Judged e e' .reverse rev (rev && decide (s.cfg.cRev ≤ e'.revCount)) s.cfg.enRev
          ∧ Judged e e' .overcurrent ovc (ovc && decide (s.cfg.cOvc ≤ e'.ovcCount)) s.cfg.enOvc
          ∧ (let deviants := e.winDeviant + if deviates s.cfg u.scan.median current then 1 else 0
            let deviant := decide (s.cfg.devWindow < 2 * deviants)
            (e.winScans + 1 < s.cfg.devWindow →
              e'.winScans = e.winScans + 1 ∧ e'.winDeviant = deviants ∧ e'.devWindows = e.devWindows
                ∧ Unjudged e e' .deviation)
            ∧ (s.cfg.devWindow ≤ e.winScans + 1 →
              e'.winScans = 0 ∧ e'.winDeviant = 0 ∧ e'.devWindows = counted e.devWindows deviant
                ∧ Judged e e' .deviation deviant (deviant && decide (s.cfg.nDev ≤ e'.devWindows)) s.cfg.enDev)))
        ∧ (s.seqs[i].state = .closed → s.seqs[i].probation ≠ 0 →
          cleared ∧ Judged e e' .probation (rev || ovc) (rev || ovc) s.cfg.enPrb)
        ∧ (s.seqs[i].state ≠ .closed → cleared ∧ Judged e e' .probation false false s.cfg.enPrb))

/-- R51, R62, R63, R68, R70, R73, R74: a sequencer's own work at a scan completion, and the WELD present flag, which is set exactly where
the switch was FAILED and the sample reads closed, but for a switch that fails at this completion. In QUALIFY matching voltages count, and
at Q the switch asks for its close; on probation the count falls by one. The second sample in a row that shows the contact elsewhere than
the state expects moves the switch to where the contact is: out of CLOSED and of OPEN_QUEUED to OPEN, with the request withdrawn, and on the
open side to OPEN_QUEUED, with any close withdrawn. HELD of origin OTHER is latched, but for a switch in OPEN_QUEUED. In QUALIFY this goes
before the close that the same completion would bring (log 10). A switch at rest whose count stays below two, and one in CLOSING, takes the
target that the completion leaves, row by row of R62. At the first completion of a scan that started after the bypass went off, an open
below I_zero has succeeded, and one with current flowing leaves the switch FAILED with WELD latched, which ends a search in progress
ABORTED_SWITCH (R99). -/
def Obligations.SwitchesMoveAtScans : Prop :=
  ∀ (dt : Nat) (samples : Vector Sample 24) (bus : Int) (s : State) (job : ScanJob) (i : Str),
    ScanDue s dt job → i.val < s.cfg.stringCount → i.val < job.count →
    let q := s.seqs[i]
    let closed := samples[i].closed
    let near := Near s.cfg.vMatch (voltageOf job.vFs samples[i].voltage) (voltageOf job.vFs bus)
    ∃ u, exec (.scanCompletion dt samples bus) s = .next u
      ∧ (q.state ≠ .opening ∨ u.seqs[i].state ≠ .failed →
          CauseSet.has u.evid[i].present .weld = (decide (q.state = .failed) && closed))
      ∧ (q.state = .qualify → mismatches q false closed < 2 → NoTestStarts s u →
        let n := min 255 (q.qual + 1)
        let asks := { q with state := .closeQueued, qual := n, mismatch := 0 }
        (near → s.cfg.qualCount ≤ n →
          (u.table[i].target = .connected →
            u.seqs[i] = asks ∧ (q.grant ≠ .none ∨ ⟨i, .close_⟩ ∈ u.arb.queue)
              ∨ u.seqs[i].state = .closing ∧ u.seqs[i].grant = .held ∧ u.seqs[i].qual = n)
          ∧ (u.table[i].target = .isolated → u.seqs[i] = { asks with state := .opened }))
        ∧ (near → n < s.cfg.qualCount → AtTarget u i .connected { q with qual := n, mismatch := mismatches q false closed })
        ∧ (¬ near → AtTarget u i .connected { q with qual := 0, mismatch := mismatches q false closed })
        ∧ (¬ (near ∧ s.cfg.qualCount ≤ n) → u.table[i].target = .isolated → u.seqs[i].state = .opened ∧ u.seqs[i].qual = 0))
      ∧ (q.state = .closed → mismatches q true closed < 2 → NoTestStarts s u →
        TakesTarget { q with probation := q.probation - 1, mismatch := mismatches q true closed } u i)
      ∧ (q.state = .closed → 2 ≤ mismatches q true closed →
        u.seqs[i] = { q with state := .opened, probation := q.probation - 1, mismatch := 0 }
        ∧ CauseSet.has u.evid[i].latched .held = true ∧ u.evid[i].heldOrigin = some .other ∧ u.table[i].target = .isolated)
      ∧ (q.state = .openQueued → 2 ≤ mismatches q true closed → u.evid[i].latched = s.evid[i].latched
        ∧ (u.table[i].target = .isolated → NoTestStarts s u →
            u.seqs[i] = { q with state := .opened, mismatch := 0 } ∧ NotQueued u i))
      ∧ (q.state ∈ [SwitchState.opened, .qualify, .closeQueued] → 2 ≤ mismatches q false closed →
        OpensNext u.seqs[i] ∧ (∀ e ∈ u.arb.queue, e.str = i → e.kind = .open_) ∧ u.table[i].target = .isolated
        ∧ CauseSet.has u.evid[i].latched .held = true ∧ u.evid[i].heldOrigin = some .other)
      ∧ (q.state ∈ [SwitchState.opened, .closeQueued, .openQueued] → mismatches q (q.state == .openQueued) closed < 2 →
        NoTestStarts s u → TakesTarget { q with mismatch := mismatches q (q.state == .openQueued) closed } u i)
      ∧ (q.state = .closing → NoTestStarts s u → TakesTarget q u i)
      ∧ (q.state = .opening → q.act = none → q.bypassOffAt < job.start →
        ((currentOf job.iFs samples[i].current).natAbs < s.cfg.iZero → saturatedOf samples[i].current = false →
            (u.table[i].target = .isolated → u.seqs[i].state = .opened)
            ∧ (u.table[i].target = .connected → u.seqs[i].state = .qualify ∧ u.seqs[i].qual = 0))
        ∧ (s.cfg.iZero ≤ (currentOf job.iFs samples[i].current).natAbs ∨ saturatedOf samples[i].current = true →
            u.seqs[i].state = .failed ∧ CauseSet.has u.evid[i].latched .weld = true
            ∧ CauseSet.has u.evid[i].present .weld = s.lines[i] ∧ u.pins.attnLow = true
            ∧ (s.search.phase ≠ .idle → SearchEnds s u (s.now + dt) .abortedSwitch none)))

/-- INSULATION_COMPLETION (R32 to R35, R62): the last result by the self-check and the disturbed mark, MONITOR_FAULT, and the start of the
next measurement, whose disturbed mark is set where a bypass or pulse is on, and clear where none is on before or after the event. Where the
completion moves targets, by a step or the end of a search, the sequencers take them, row by row of R62. -/
def Obligations.InsulationResult : Prop :=
  ∀ (dt kohm : Nat) (inBand : Bool) (s : State) (job : IsoJob), IsoDue s dt job →
    ∃ u next, exec (.insulationCompletion dt kohm inBand) s = .next u
      ∧ u.iso.start = job.start ∧ u.iso.job = some next
      ∧ next.start = s.now + dt ∧ next.doneAt = s.now + dt + s.cfg.tIso * 1000
      ∧ ((∃ i : Str, s.seqs[i].act.isSome = true) → next.disturbed = true)
      ∧ ((∀ i : Str, s.seqs[i].act = none) → (∀ i : Str, u.seqs[i].act = none) → next.disturbed = false)
      ∧ (inBand = true → u.iso.fault = false ∧ u.iso.value = (if 65535 ≤ kohm then 65535 else kohm)
          ∧ u.iso.status = (if job.disturbed then .disturbed else .valid))
      ∧ (inBand = false → u.iso.fault = true ∧ u.iso.value = 0 ∧ u.iso.status = .invalid ∧ u.pins.attnLow = true
          ∧ u.search.phase = .idle)
      ∧ (NoTestStarts s u → TargetsAreTaken s u fun _ => True)
      ∧ SameBus s u ∧ SameJournal s u ∧ u.inputs = s.inputs ∧ u.meas = s.meas ∧ u.scan = s.scan ∧ u.lines = s.lines

/-! ## The search -/

/-- R84, R85, R87, R88, R101: an INSULATION_COMPLETION and the start of a search. While the phase is IDLE the trigger counter follows the
table of R84; a VALID result at or above R_ok meets re-arm and clears the reason SEARCH, here and wherever a search goes on. With every
condition of R85 met a search starts with the closed strings out of probation as its suspects, and its switch wait is judged; with no such
string it ends UNLOCATED at once; with a condition not met nothing else moves. That re-arm is met and the reason cleared also where the
completion follows an abort at the same instant, at which R99 says that it updates the trigger counter only, is the model's reading (log
41). -/
def Obligations.SearchStarts : Prop :=
  ∀ (dt kohm : Nat) (inBand : Bool) (s : State) (job : IsoJob), IsoDue s dt job →
    let healthy := inBand && !job.disturbed && decide (s.cfg.rOk ≤ min 65535 kohm)
    let n := triggerAfter s inBand job.disturbed kohm
    let starts := s.cfg.cIso ≤ n ∧ s.cfg.enSrch = true ∧ s.inputs.shdnActive = false ∧ s.journal.state = .adopted
      ∧ (s.search.rearmMet = true ∨ healthy = true) ∧ inBand = true
    let closed := fun i : Str => i.val < s.cfg.stringCount ∧ s.seqs[i].state = .closed ∧ s.seqs[i].probation = 0
    ∃ u, exec (.insulationCompletion dt kohm inBand) s = .next u
      ∧ (s.search.phase ≠ .idle → u.search.phase ≠ .idle →
        SameRearm u.search (rearmed s.search healthy) ∧ u.search.trigger = s.search.trigger)
      ∧ (s.search.phase = .idle → s.search.stage = .none → ¬ starts →
        u.search = { rearmed s.search healthy with trigger := n } ∧ ∀ i : Str, u.table[i].role = s.table[i].role)
      ∧ (s.search.phase = .idle → starts → (∃ i, closed i) →
        u.search.phase = .baseline ∧ u.search.steps = 0 ∧ u.search.timer = some (s.now + dt + s.cfg.tStmo * 60000000)
        ∧ u.search.trigger = 0 ∧ u.search.disturbed = 0 ∧ SameRearm u.search (rearmed s.search healthy)
        ∧ u.search.originals = u.search.suspects ∧ u.search.suspects.Pairwise (· < ·)
        ∧ (∀ i : Str, i ∈ u.search.suspects ↔ closed i)
        ∧ (∀ i : Str, u.table[i].role = if i ∈ u.search.suspects then .suspect else .none)
        ∧ WaitJudged u)
      ∧ (s.search.phase = .idle → starts → (∀ i, ¬ closed i) →
        u.search = { endedSearch s (s.now + dt) .unlocated none true with steps := 0 } ∧ ∀ i : Str, u.table[i].role = .none)

/-- R86, R89 to R97: a completion while a stage measures. One whose measurement began before the stage did is passed over. A DISTURBED
candidate is counted, and the third ends the search ABORTED_MONITOR, as an INVALID completion does; a VALID one judges the stage. In the
BASELINE a value at or above R_ok ends the search CLEARED, and one below starts the first step (that a single suspect is confirmed at once is
the model's reading, log 11). A halving step holds the first half of its suspects, rounded up: at or above R_ok the fault is among the strings
held, and one string is found, or the half is halved again; below R_ok it is among the others, which are halved again, or confirmed if one is
left. The confirming step finds its suspect at or above R_ok; if not, the sweep is entered, or the search ends UNLOCATED. A sweep's test
latches GROUND against its string below R_min, and the next test starts, or the sweep ends. That an end stands over the clear of R101 and
the re-arm of R87 at the same completion, so that the reason SEARCH is raised and re-arm is not met even at or above R_ok, is the model's
reading (log 19). -/
def Obligations.SearchStagesAreJudged : Prop :=
  ∀ (dt kohm : Nat) (s : State) (job : IsoJob), IsoDue s dt job → s.search.stage = .measure →
    let v := min 65535 kohm
    let now := s.now + dt
    (s.search.phase ≠ .idle →
      ∃ u, exec (.insulationCompletion dt kohm false) s = .next u ∧ SearchEnds s u now .abortedMonitor none)
    ∧ ∃ u, exec (.insulationCompletion dt kohm true) s = .next u
      ∧ (job.start < s.search.measureAt → s.search.phase ≠ .idle → u.evid = s.evid
        ∧ u.search = rearmed s.search (!job.disturbed && decide (s.cfg.rOk ≤ v)) ∧ ∀ i : Str, u.table[i].role = s.table[i].role)
      ∧ (s.search.measureAt ≤ job.start → s.search.phase ≠ .idle → job.disturbed = true → u.evid = s.evid
        ∧ (s.search.disturbed < 2 → u.search = { s.search with disturbed := s.search.disturbed + 1 }
            ∧ ∀ i : Str, u.table[i].role = s.table[i].role)
        ∧ (2 ≤ s.search.disturbed → SearchEnds s u now .abortedMonitor none))
      ∧ (s.search.measureAt ≤ job.start → job.disturbed = false →
        (s.search.phase = .baseline → u.evid = s.evid
          ∧ (s.cfg.rOk ≤ v → SearchEnds s u now .cleared none)
          ∧ (v < s.cfg.rOk → StepBegins s u now s.search.suspects))
        ∧ (∀ held rest, s.search.phase = .halving → s.search.suspects = held ++ rest →
          held.length = (s.search.suspects.length + 1) / 2 → rest ≠ [] →
          (s.cfg.rOk ≤ v →
            (∀ i, held = [i] → Found s u now i)
            ∧ (2 ≤ held.length → Halves s u held ∧ u.evid = s.evid))
          ∧ (v < s.cfg.rOk → StepBegins s u now rest ∧ u.evid = s.evid))
        ∧ (∀ i, s.search.phase = .confirm → s.search.suspects = [i] →
          (s.cfg.rOk ≤ v → Found s u now i)
          ∧ (v < s.cfg.rOk → NotConfirmed s u now (sweepSet s u) ∧ u.evid = s.evid))
        ∧ (∀ i, s.search.phase = .sweep → s.search.underTest = some i →
          (v < s.cfg.rMin →
            CauseSet.has u.evid[i].latched .ground = true ∧ (∀ j : Str, j ≠ i → u.evid[j] = s.evid[j])
            ∧ SweepGoesOn s u now (s.search.suspects.filter (· != i)) (s.search.swept ++ [i]))
          ∧ (s.cfg.rMin ≤ v →
            u.evid = s.evid ∧ SweepGoesOn s u now (s.search.suspects.filter (· != i)) s.search.swept)))

/-- SEARCH_SETTLE_EXPIRY, REARM_TIMER_EXPIRY and SEARCH_TIMEOUT (R86, R87, R89, R99, R101): the stage measures; re-arm is met; the search
ends ABORTED_TIMEOUT, every role is NONE, re-arm is not met until T_rearm, the holds are released, and the reason SEARCH rises. An event
that changes the own targets of suspects from CONNECTED to ISOLATED overtakes them (R98), all at once: a trip at a scan completion, a
confirmed ISOLATE or LOCKOUT, the expiry of a program commit, a failed close, or a resolution or an adoption by a read. They leave the
suspect set, and the phase says what the search then does; where no suspect is overtaken the search goes on as it was. At a switch state
change the switch wait is judged (R88): where it holds the BASELINE measures, any other stage that waits settles for T_ss, and a sweep's
hold stage is over. -/
def Obligations.SearchTimersAndOvertaken : Prop :=
  ∀ (dt : Nat) (s : State),
    (s.search.stage = .settle → s.search.settleAt ≤ s.now + dt →
      exec (.searchSettleExpiry dt) s = .next
        { later s dt with search := { s.search with stage := .measure, measureAt := s.now + dt } })
    ∧ (∀ x, s.search.rearmAt = some x → x ≤ s.now + dt →
      exec (.rearmTimerExpiry dt) s = .next
        { later s dt with search := { s.search with rearmMet := true, rearmAt := none } })
    ∧ (∀ x, s.search.timer = some x → x ≤ s.now + dt →
      ∃ u, exec (.searchTimeout dt) s = .next u
        ∧ SearchEnds s u (s.now + dt) .abortedTimeout none ∧ u.pins.attnLow = true ∧ (TargetsAreTaken s u fun _ => True)
        ∧ SameBus s u ∧ SameJournal s u ∧ SameMeasurement s u ∧ SameEvidence s u ∧ u.lines = s.lines)
    ∧ (∀ (i : Str) (a : Act), Due s dt i a .close_ .travel a.travelEnd → s.seqs[i].state = .closing → i.val < s.cfg.stringCount →
      ownTargetOf s i = .connected → i ∈ s.search.suspects → s.search.phase ≠ .idle →
      ∃ u, exec (.closeTravelExpiry dt i) s = .next u ∧ u.table[i].target = .isolated
        ∧ Overtaken s u (s.now + dt) [i] (s.search.suspects.filter (· != i)))
    ∧ (∀ (i : Str) (x : Xfer) (r : Release) (samples : Vector Sample 24) (bus : Int),
      ∀ c ∈ [Instr.scanCompletion dt samples bus, .status dt [x] none, .programCommitTimeout dt, .closeTravelExpiry dt i,
        .read dt [] (some r), .readFast dt [] (some r)],
      s.search.phase ≠ .idle →
      ∃ u, exec c s = .next u
        ∧ (u.cfg.stringCount = s.cfg.stringCount → ¬ SearchFieldsDiffer s.cfg u.cfg →
          (∀ j : Str, j.val < s.cfg.stringCount → u.seqs[j].state = .failed → s.seqs[j].state = .failed) →
          (gone s u ≠ [] → Overtaken s u (s.now + dt) (gone s u) (s.search.suspects.filter fun j => j ∉ gone s u))
          ∧ (gone s u = [] → s.search.stage ≠ .hold → SearchGoesOn s u)))
    ∧ (∀ (i : Str) (closed : Bool) (samples : Vector Sample 24) (bus : Int),
      ∀ c ∈ [Instr.coilPulseEnd dt i, .feedbackLineChange dt i closed, .closeTravelExpiry dt i, .openTravelExpiry dt i,
        .grantReturn dt i, .scanCompletion dt samples bus],
      s.search.phase ≠ .idle → s.search.stage = .switchWait ∨ s.search.stage = .hold →
      ∃ u, exec c s = .next u
        ∧ ((∃ j : Str, u.seqs[j].state ≠ s.seqs[j].state) → u.search.phase = s.search.phase →
          u.search.suspects = s.search.suspects →
          (s.search.stage = .switchWait → WaitJudged u) ∧ (u.search.stage = .hold → ¬ WaitHolds u)))

/-! ## The inputs -/

/-- SHDN_LEVEL_CHANGE, MAINT_LEVEL_CHANGE, MAINT_ACTIVATION and MAINT_RELEASE (R55, R58): a change of level starts the timing afresh, 10 ms
for SHDN and 50 ms for MAINT, and a level that has stood for its time becomes the debounced state. -/
def Obligations.InputsAreDebounced : Prop :=
  ∀ (dt : Nat) (level : Bool) (s : State),
    (s.inReset = false → s.inputs.shdnRaw ≠ level →
      exec (.shdnLevelChange dt level) s = .next
        { later s dt with inputs := { s.inputs with
            shdnRaw := level
            shdnTiming := if level = s.inputs.shdnActive then none else some (s.now + dt + 10000) } })
    ∧ (s.inReset = false → s.inputs.maintRaw ≠ level →
      exec (.maintLevelChange dt level) s = .next
        { later s dt with inputs := { s.inputs with
            maintRaw := level
            maintTiming := if level = s.inputs.maintActive then none else some (s.now + dt + 50000) } })
    ∧ (s.inReset = true →
      exec (.shdnLevelChange dt level) s = .next { later s dt with inputs := { s.inputs with
          shdnRaw := level, shdnTiming := if s.inputs.shdnRaw = level then s.inputs.shdnTiming else none } }
      ∧ exec (.maintLevelChange dt level) s = .next { later s dt with inputs := { s.inputs with
          maintRaw := level, maintTiming := if s.inputs.maintRaw = level then s.inputs.maintTiming else none } })
    ∧ (∀ x, s.inputs.maintTiming = some x → x ≤ s.now + dt →
      (s.inputs.maintRaw = true → s.inputs.maintActive = false →
        exec (.maintActivation dt) s = .next
          { later s dt with inputs := { s.inputs with maintActive := true, maintTiming := none } })
      ∧ (s.inputs.maintRaw = false → s.inputs.maintActive = true →
        exec (.maintRelease dt) s = .next
          { later s dt with inputs := { s.inputs with maintActive := false, maintTiming := none } }))

/-- SHUTDOWN_ACTIVATION (R10, R56, R62, R99): the snapshot is taken, every present string targets ISOLATED, and an active search ends
ABORTED_SHUTDOWN. Every sequencer takes the target: CLOSED goes to OPEN_QUEUED, or to OPENING with a grant; QUALIFY goes to OPEN with its
count 0; CLOSE_QUEUED goes to OPEN with its entry withdrawn; the settle of a close ends in OPEN with the bypass off and the grant returned;
OPEN_QUEUED goes on asking for its grant; OPEN, OPENING, FAILED and a close past its settle stay. -/
def Obligations.ShutdownIsolatesAll : Prop :=
  ∀ (dt : Nat) (s : State) (x : Nat),
    s.inputs.shdnRaw = true → s.inputs.shdnActive = false → s.inputs.shdnTiming = some x → x ≤ s.now + dt →
    ∃ u, exec (.shutdownActivation dt) s = .next u
      ∧ u.inputs.shdnActive = true ∧ u.inputs.shdnTiming = none
      ∧ (∀ i : Str, i ∈ u.inputs.snapshot ↔ i.val < s.cfg.stringCount ∧ s.seqs[i].state = .closed)
      ∧ (∀ i : Str, i.val < s.cfg.stringCount → u.table[i].target = .isolated ∧ u.seqs[i].state ≠ .closed)
      ∧ (TargetsAreTaken s u fun _ => True)
      ∧ (s.search.phase ≠ .idle → u.search.phase = .idle ∧
          (u.search.result = .abortedShutdown ∧ ∀ i : Str, u.table[i].role = .none))
      ∧ SameBus s u ∧ SameJournal s u ∧ SameMeasurement s u ∧ u.evid = s.evid ∧ u.lines = s.lines

/-- SHUTDOWN_RELEASE (R10, R57, R62): shutdown is inactive and the snapshot is dropped; with OPT_SDL on, HELD of origin OTHER is latched
against every string of the snapshot still present, which stays ISOLATED; with it off no cause is latched. Every sequencer takes the target
that the release leaves: with target CONNECTED an OPEN switch goes to QUALIFY with count 0, and one in OPEN_QUEUED goes to CLOSED with the
probation that it had and its entry withdrawn. -/
def Obligations.ShutdownReleases : Prop :=
  ∀ (dt : Nat) (s : State) (x : Nat),
    s.inputs.shdnRaw = false → s.inputs.shdnActive = true → s.inputs.shdnTiming = some x → x ≤ s.now + dt →
    ∃ u, exec (.shutdownRelease dt) s = .next u
      ∧ u.inputs.shdnActive = false ∧ u.inputs.snapshot = []
      ∧ (s.cfg.optSdl = false → u.evid = s.evid)
      ∧ (∀ i : Str, s.cfg.optSdl = true → i.val < s.cfg.stringCount → i ∈ s.inputs.snapshot →
          CauseSet.has u.evid[i].latched .held = true ∧ u.evid[i].heldOrigin = some .other ∧ u.table[i].target = .isolated)
      ∧ (∀ i : Str, i.val < s.cfg.stringCount → u.evid[i].latched = 0 → u.table[i].recorded = .connect →
          u.table[i].role ≠ .held → u.table[i].target = .connected)
      ∧ (NoTestStarts s u → TargetsAreTaken s u fun _ => True)
      ∧ SameBus s u ∧ SameJournal s u ∧ SameMeasurement s u ∧ u.lines = s.lines

/-! ## The switches -/

/-- CLOSE_SETTLE_END, OPEN_SETTLE_END and RETRY_WAIT_END (R64, R69, R72): a coil pulse and its travel window start; a close pulse only with
nothing latched, no shutdown and the target CONNECTED. -/
def Obligations.PulsesStart : Prop :=
  ∀ (dt : Nat) (s : State) (i : Str) (a : Act) (c : Coil),
    (Due s dt i a .close_ .settle a.until_ → s.evid[i].latched = 0 → s.inputs.shdnActive = false →
      s.table[i].target = .connected → exec (.closeSettleEnd dt i) s = .next (pulsed s dt i a))
    ∧ (Due s dt i a .close_ .settle a.until_ →
      s.evid[i].latched ≠ 0 ∨ s.inputs.shdnActive = true ∨ s.table[i].target = .isolated →
      exec (.closeSettleEnd dt i) s = .next (later s dt))
    ∧ (Due s dt i a .open_ .settle a.until_ → exec (.openSettleEnd dt i) s = .next (pulsed s dt i a))
    ∧ (Due s dt i a c .retryWait a.until_ → exec (.retryWaitEnd dt i) s = .next (pulsed s dt i a))

/-- COIL_PULSE_END (R65, R66, R69, R77, R81): with the position not yet shown the travel goes on with the bypass on; with it shown the bypass goes off,
and a close is CLOSED on probation while an open goes to its zero check. The end of the last pulse of the sequence leaves the grant to its
recharge, and a grant whose recharge is over is returned at once; that the first pulse of an open is the last only once its travel has
succeeded is the model's reading (log 9). A close that ends with the target ISOLATED goes through CLOSED to OPEN_QUEUED. A drive carried to
its end on a string without a switch state ends with its bypass and nothing else. -/
def Obligations.PulseEnds : Prop :=
  ∀ (dt : Nat) (s : State) (i : Str) (a : Act) (c : Coil),
    Due s dt i a c .pulse a.until_ →
    s.seqs[i].state = (if c = .close_ then .closing else .opening) ∨ s.seqs[i].state = .unfound →
    ∃ u, exec (.coilPulseEnd dt i) s = .next u
      ∧ (s.seqs[i].state = .unfound →
          u.seqs[i] = { s.seqs[i] with
            pulseEndedAt := s.now + dt
            bypassOffAt := if a.seen then s.now + dt else s.seqs[i].bypassOffAt
            act := if a.seen then none else some { a with phase := .travel }
            grant := leftGrant s.seqs[i].grant (s.now + dt) (s.now + dt) a.tRch })
      ∧ (s.seqs[i].state ≠ .unfound → a.seen = false →
          u.seqs[i] = { s.seqs[i] with
            pulseEndedAt := s.now + dt
            act := some { a with phase := .travel }
            grant :=
              if c = .close_ ∨ s.seqs[i].retry = true then leftGrant s.seqs[i].grant (s.now + dt) (s.now + dt) a.tRch
              else s.seqs[i].grant })
      ∧ (s.seqs[i].state ≠ .unfound → a.seen = true → c = .open_ →
          u.seqs[i] = bypassOff s dt { s.seqs[i] with pulseEndedAt := s.now + dt } a)
      ∧ (s.seqs[i].state ≠ .unfound → a.seen = true → c = .close_ →
          AtTarget u i .connected
            { bypassOff s dt { s.seqs[i] with pulseEndedAt := s.now + dt } a with
              state := .closed, mismatch := 0, probation := s.cfg.probation }
          ∧ OpenedAfterClose s u i)
      ∧ SameBus s u ∧ SameJournal s u ∧ SameMeasurement s u ∧ SameEvidence s u ∧ u.lines = s.lines

/-- FEEDBACK_LINE_CHANGE (R65, R66, R69, R81, R83): in a travel the first showing of the position ends it; during the pulse it is only seen;
a level that shows no position waited for only stands on its line. A grant whose recharge is over is returned at once (log 9). A close that
ends with the target ISOLATED goes through CLOSED to OPEN_QUEUED. A drive carried to its end on a string without a switch state ends in its
travel with its bypass and nothing else, and in its pulse is only seen. In reset a drive carried on only remembers that its position has
been shown; its end takes it from there (log 20). Before the first pulse and before the second of an open the line alone moves. -/
def Obligations.FeedbackEndsTravel : Prop :=
  ∀ (dt : Nat) (s : State) (i : Str) (closed : Bool), s.lines[i] ≠ closed →
    (∀ a, s.inReset = false → s.seqs[i].act = some a → a.phase = .travel → closed = a.coil.goal →
      s.seqs[i].state = (if a.coil = .close_ then .closing else .opening) →
      ∃ u, exec (.feedbackLineChange dt i closed) s = .next u
        ∧ u.lines = s.lines.set i closed
        ∧ (a.coil = .open_ → u.seqs[i] = bypassOff s dt s.seqs[i] a)
        ∧ (a.coil = .close_ →
            AtTarget u i .connected
              { bypassOff s dt s.seqs[i] a with state := .closed, mismatch := 0, probation := s.cfg.probation }
            ∧ OpenedAfterClose s u i)
        ∧ SameBus s u ∧ SameJournal s u ∧ SameMeasurement s u ∧ SameEvidence s u)
    ∧ (∀ a, s.inReset = false → s.seqs[i].act = some a → a.phase = .travel → closed = a.coil.goal → s.seqs[i].state = .unfound →
      ∃ u, exec (.feedbackLineChange dt i closed) s = .next u ∧ DriveEnds s u dt i ∧ u.lines = s.lines.set i closed)
    ∧ (∀ a, s.inReset = false → s.seqs[i].act = some a → a.phase = .pulse → closed = a.coil.goal →
      s.seqs[i].state = (if a.coil = .close_ then .closing else .opening) ∨ s.seqs[i].state = .unfound →
      ∃ u, exec (.feedbackLineChange dt i closed) s = .next u
        ∧ u.lines = s.lines.set i closed ∧ u.seqs[i] = { s.seqs[i] with act := some { a with seen := true } })
    ∧ (∀ a, s.inReset = true → s.seqs[i].act = some a → closed = a.coil.goal →
      (a.phase = .pulse ∨ a.phase = .travel →
        exec (.feedbackLineChange dt i closed) s = .next
          { later s dt with lines := s.lines.set i closed, seqs := s.seqs.set i { s.seqs[i] with act := some { a with seen := true } } })
      ∧ (a.phase = .settle ∨ a.phase = .retryWait →
        exec (.feedbackLineChange dt i closed) s = .next { later s dt with lines := s.lines.set i closed }))
    ∧ (∀ a, s.inReset = false → s.seqs[i].act = some a → closed = a.coil.goal → a.phase = .settle ∨ a.phase = .retryWait →
      s.seqs[i].state = (if a.coil = .close_ then .closing else .opening) →
      ∃ u, exec (.feedbackLineChange dt i closed) s = .next u ∧ u.lines = s.lines.set i closed
        ∧ (a.coil = .open_ → u.seqs[i] = s.seqs[i])
        ∧ (a.coil = .close_ → i.val < s.cfg.stringCount → NoTestStarts s u → TakesTarget s.seqs[i] u i)
        ∧ SameBus s u ∧ SameJournal s u ∧ SameMeasurement s u ∧ SameEvidence s u)
    ∧ ((∀ a, s.seqs[i].act = some a → closed ≠ a.coil.goal) →
      exec (.feedbackLineChange dt i closed) s = .next { later s dt with lines := s.lines.set i closed })

/-- CLOSE_TRAVEL_EXPIRY and OPEN_TRAVEL_EXPIRY (R50, R51, R67, R72, R73, R80): a close fails, the switch is OPEN and HELD of origin OTHER
is latched. The first expiry of an open waits for the second pulse with the bypass on; the second leaves the switch FAILED with WELD
latched, WELD present exactly if the line shows closed, and BTRIP as OPT_BTRIP says, and ends a search in progress ABORTED_SWITCH (R99).
That a FAILED switch shows 0 for probation and qualification, and that a grant still held at the end of the travel is then left to its
recharge, are the model's readings (logs 18 and 9). A drive carried to its end on a string without a switch state (R81) ends with its
bypass and latches nothing. -/
def Obligations.TravelExpiries : Prop :=
  ∀ (dt : Nat) (s : State) (i : Str) (a : Act),
    (Due s dt i a .close_ .travel a.travelEnd → s.seqs[i].state = .closing → i.val < s.cfg.stringCount →
      ∃ u, exec (.closeTravelExpiry dt i) s = .next u
        ∧ u.seqs[i] = { bypassOff s dt s.seqs[i] a with state := .opened, mismatch := 0 }
        ∧ CauseSet.has u.evid[i].latched .held = true ∧ u.evid[i].heldOrigin = some .other
        ∧ u.table[i].target = .isolated
        ∧ (∀ j : Str, j ≠ i → u.evid[j] = s.evid[j])
        ∧ SameBus s u ∧ SameJournal s u ∧ SameMeasurement s u ∧ u.inputs = s.inputs ∧ u.lines = s.lines)
    ∧ (Due s dt i a .open_ .travel a.travelEnd → s.seqs[i].state = .opening →
      (s.seqs[i].retry = false →
        ∃ u, exec (.openTravelExpiry dt i) s = .next u
          ∧ u.seqs[i] = { s.seqs[i] with
              retry := true
              act := some { a with phase := .retryWait, until_ := max (s.now + dt) (s.seqs[i].pulseEndedAt + a.tRch) } }
          ∧ SameBus s u ∧ SameJournal s u ∧ SameMeasurement s u ∧ SameEvidence s u ∧ u.lines = s.lines)
      ∧ (s.seqs[i].retry = true → i.val < s.cfg.stringCount →
        ∃ u, exec (.openTravelExpiry dt i) s = .next u
          ∧ u.seqs[i] = { bypassOff s dt s.seqs[i] a with state := .failed, mismatch := 0, probation := 0, qual := 0 }
          ∧ CauseSet.has u.evid[i].latched .weld = true ∧ CauseSet.has u.evid[i].present .weld = s.lines[i]
          ∧ u.table[i].target = .isolated ∧ u.pins.attnLow = true
          ∧ (s.cfg.optBtrip = true → s.lines[i] = true → u.pins.btrip = true)
          ∧ (s.cfg.optBtrip = false → u.pins.btrip = false)
          ∧ (s.search.phase ≠ .idle → SearchEnds s u (s.now + dt) .abortedSwitch none)
          ∧ (∀ j : Str, j ≠ i → u.evid[j] = s.evid[j])
          ∧ SameBus s u ∧ SameJournal s u ∧ SameMeasurement s u ∧ u.inputs = s.inputs ∧ u.lines = s.lines))
    ∧ (∀ c, Due s dt i a c .travel a.travelEnd → s.seqs[i].state = .unfound →
      ∃ u, exec (if c = .close_ then .closeTravelExpiry dt i else .openTravelExpiry dt i) s = .next u
        ∧ DriveEnds s u dt i ∧ u.lines = s.lines)

/-- GRANT_RETURN (R77 to R79): the grant is returned; if the string then holds one again, it is that of a sequence started at this event.
The deferred request of the string joins the queue first, and the head of the queue is granted and starts its sequence; no other sequencer
moves. While a lower K is pending no grant is given; the return that brings the grants down to it makes it active. The premises of the
second half are kept by every step. -/
def Obligations.GrantReturns : Prop :=
  ∀ (dt : Nat) (s : State) (i : Str) (x : Nat), s.seqs[i].grant = .recharging x → x ≤ s.now + dt →
    let returned := fun j : Str => if j = i then { s.seqs[i] with grant := .none } else s.seqs[j]
    ∃ u, exec (.grantReturn dt i) s = .next u
      ∧ (u.seqs[i].grant = .none
          ∨ u.seqs[i].grant = .held ∧ ∃ a, u.seqs[i].act = some a ∧ a.phase = .settle
            ∧ a.until_ = s.now + dt + s.cfg.tSettle * 1000)
      ∧ (TableAgrees s → TargetsTaken s → QueueAgrees s → ArbiterRests s → grantsInUse s ≤ s.arb.k → HoldWaits s →
          (s.arb.kPending = none →
            (joined s i = [] → u.arb = { s.arb with queue := [] } ∧ ∀ j : Str, u.seqs[j] = returned j)
            ∧ ∀ e rest, joined s i = e :: rest → u.arb = { s.arb with queue := rest }
              ∧ ∀ j : Str, u.seqs[j] = if j = e.str then startedAt s.seqs[j] e.kind s.cfg (s.now + dt) else returned j)
          ∧ ∀ k, s.arb.kPending = some k →
            u.arb = (if grantsInUse s = k + 1 then ⟨joined s i, k, none⟩ else { s.arb with queue := joined s i })
            ∧ ∀ j : Str, u.seqs[j] = returned j)
      ∧ SameBus s u ∧ SameJournal s u ∧ SameMeasurement s u ∧ SameEvidence s u ∧ u.lines = s.lines

/-! ## The commit timers -/

/-- PROGRAM_COMMIT_TIMEOUT (R15, R50, R62, R119, R144, R154): the commit ends unresolved and the mirror is UNKNOWN. Of a journal program no
record is applied, the slots are DOUBTFUL, or UNSEEN while the journal is INCONSISTENT, and HELD of origin OTHER is latched against the
string of each ISOLATE or LOCKOUT record; of a CONFIG or GUARDED program only the outcome is written. An erase under the suspension ends at
the same event (R150); the outcome shown is then open (log 12). The sequencers take the targets that the latched causes give. -/
def Obligations.ProgramTimesOut : Prop :=
  ∀ (dt : Nat) (s : State) (c : ProgCommit), s.journal.prog = some c → c.expiry ≤ s.now + dt →
    ∃ u slots, exec (.programCommitTimeout dt) s = .next u
      ∧ u.mirror = { s.mirror with state := .unknown }
      ∧ (s.mirror.state = .busyProgram →
        (InRing s c → u.journal = endedProgram s c .commitTimeout slots ∧ EndedRange s c slots)
        ∧ (c.kind ≠ .journal → u.journal = { s.journal with prog := none, outcome := ⟨.program, .commitTimeout, c.addr⟩ }))
      ∧ (∀ e, s.mirror.state = .busyProgramInSuspend → s.journal.erase = some e →
        ∃ o, EitherOutcome o .commitTimeout c .commitTimeout e
          ∧ (InRing s c →
            u.journal = { endedProgram s c .commitTimeout slots with
              erase := none, sectors := endedSectors s.journal e, outcome := o }
            ∧ EndedBoth s c e slots)
          ∧ (c.kind ≠ .journal →
            u.journal = { s.journal with
              prog := none, erase := none, sectors := endedSectors s.journal e, slots := slots, outcome := o }
            ∧ EndedSlots s e slots))
      ∧ (c.kind = .journal → HeldFor s u c.records) ∧ (c.kind ≠ .journal → u.evid = s.evid)
      ∧ (NoTestStarts s u → TargetsAreTaken s u fun _ => True)
      ∧ SameBus s u ∧ SameMeasurement s u ∧ u.inputs = s.inputs ∧ ∀ i : Str, SameRecord s.table[i] u.table[i]

/-- ERASE_COMMIT_TIMEOUT (R119, R150, R152 to R154): the erase ends unresolved and the mirror is UNKNOWN; the sector of a journal erase is
UNKNOWN with every slot UNSEEN, and a recovery erase and a CONFIG or GUARDED erase leave the journal's tables alone. -/
def Obligations.EraseTimesOut : Prop :=
  ∀ (dt : Nat) (s : State) (c : EraseCommit) (x : Nat),
    s.journal.erase = some c → c.timer = .running x → x ≤ s.now + dt →
    ∃ slots, exec (.eraseCommitTimeout dt) s = .next
        { later s dt with
          mirror := { s.mirror with state := .unknown }
          journal := { s.journal with
            erase := none, sectors := endedSectors s.journal c, slots := slots, outcome := ⟨.erase, .commitTimeout, c.base⟩ } }
      ∧ EndedSlots s c slots
end

