-- ==== Sys2Proof/Laws/State.lean ====
section
/-! SUPPORT. What each named update of State does to each field. -/

namespace Sys2Proof.Machine

section advance
variable (s : State) (dt : Nat)

@[simp] theorem advance_now : (s.advance dt).now = s.now + dt := rfl
@[simp] theorem advance_inReset : (s.advance dt).inReset = s.inReset := rfl
@[simp] theorem advance_cfg : (s.advance dt).cfg = s.cfg := rfl
@[simp] theorem advance_cfgBase : (s.advance dt).cfgBase = s.cfgBase := rfl
@[simp] theorem advance_ports : (s.advance dt).ports = s.ports := rfl
@[simp] theorem advance_txn : (s.advance dt).txn = s.txn := rfl
@[simp] theorem advance_mirror : (s.advance dt).mirror = s.mirror := rfl
@[simp] theorem advance_capture : (s.advance dt).capture = s.capture := rfl
@[simp] theorem advance_journal : (s.advance dt).journal = s.journal := rfl
@[simp] theorem advance_table : (s.advance dt).table = s.table := rfl
@[simp] theorem advance_evid : (s.advance dt).evid = s.evid := rfl
@[simp] theorem advance_inputs : (s.advance dt).inputs = s.inputs := rfl
@[simp] theorem advance_meas : (s.advance dt).meas = s.meas := rfl
@[simp] theorem advance_scan : (s.advance dt).scan = s.scan := rfl
@[simp] theorem advance_iso : (s.advance dt).iso = s.iso := rfl
@[simp] theorem advance_search : (s.advance dt).search = s.search := rfl
@[simp] theorem advance_seqs : (s.advance dt).seqs = s.seqs := rfl
@[simp] theorem advance_lines : (s.advance dt).lines = s.lines := rfl
@[simp] theorem advance_arb : (s.advance dt).arb = s.arb := rfl
@[simp] theorem advance_window : (s.advance dt).window = s.window := rfl
@[simp] theorem advance_pins : (s.advance dt).pins = s.pins := rfl
@[simp] theorem advance_free : (s.advance dt).free = s.free := rfl
@[simp] theorem advance_pending : (s.advance dt).pending = s.pending := rfl

end advance

section setEntry
variable (s : State) (i : Str) (e : Entry)

@[simp] theorem setEntry_now : (s.setEntry i e).now = s.now := rfl
@[simp] theorem setEntry_inReset : (s.setEntry i e).inReset = s.inReset := rfl
@[simp] theorem setEntry_cfg : (s.setEntry i e).cfg = s.cfg := rfl
@[simp] theorem setEntry_cfgBase : (s.setEntry i e).cfgBase = s.cfgBase := rfl
@[simp] theorem setEntry_ports : (s.setEntry i e).ports = s.ports := rfl
@[simp] theorem setEntry_txn : (s.setEntry i e).txn = s.txn := rfl
@[simp] theorem setEntry_mirror : (s.setEntry i e).mirror = s.mirror := rfl
@[simp] theorem setEntry_capture : (s.setEntry i e).capture = s.capture := rfl
@[simp] theorem setEntry_journal : (s.setEntry i e).journal = s.journal := rfl
@[simp] theorem setEntry_table : (s.setEntry i e).table = s.table.set i e := rfl
@[simp] theorem setEntry_evid : (s.setEntry i e).evid = s.evid := rfl
@[simp] theorem setEntry_inputs : (s.setEntry i e).inputs = s.inputs := rfl
@[simp] theorem setEntry_meas : (s.setEntry i e).meas = s.meas := rfl
@[simp] theorem setEntry_scan : (s.setEntry i e).scan = s.scan := rfl
@[simp] theorem setEntry_iso : (s.setEntry i e).iso = s.iso := rfl
@[simp] theorem setEntry_search : (s.setEntry i e).search = s.search := rfl
@[simp] theorem setEntry_seqs : (s.setEntry i e).seqs = s.seqs := rfl
@[simp] theorem setEntry_lines : (s.setEntry i e).lines = s.lines := rfl
@[simp] theorem setEntry_arb : (s.setEntry i e).arb = s.arb := rfl
@[simp] theorem setEntry_window : (s.setEntry i e).window = s.window := rfl
@[simp] theorem setEntry_pins : (s.setEntry i e).pins = s.pins := rfl
@[simp] theorem setEntry_free : (s.setEntry i e).free = s.free := rfl
@[simp] theorem setEntry_pending : (s.setEntry i e).pending = s.pending := rfl

end setEntry

section setEvid
variable (s : State) (i : Str) (e : Evidence)

@[simp] theorem setEvid_now : (s.setEvid i e).now = s.now := rfl
@[simp] theorem setEvid_inReset : (s.setEvid i e).inReset = s.inReset := rfl
@[simp] theorem setEvid_cfg : (s.setEvid i e).cfg = s.cfg := rfl
@[simp] theorem setEvid_cfgBase : (s.setEvid i e).cfgBase = s.cfgBase := rfl
@[simp] theorem setEvid_ports : (s.setEvid i e).ports = s.ports := rfl
@[simp] theorem setEvid_txn : (s.setEvid i e).txn = s.txn := rfl
@[simp] theorem setEvid_mirror : (s.setEvid i e).mirror = s.mirror := rfl
@[simp] theorem setEvid_capture : (s.setEvid i e).capture = s.capture := rfl
@[simp] theorem setEvid_journal : (s.setEvid i e).journal = s.journal := rfl
@[simp] theorem setEvid_table : (s.setEvid i e).table = s.table := rfl
@[simp] theorem setEvid_evid : (s.setEvid i e).evid = s.evid.set i e := rfl
@[simp] theorem setEvid_inputs : (s.setEvid i e).inputs = s.inputs := rfl
@[simp] theorem setEvid_meas : (s.setEvid i e).meas = s.meas := rfl
@[simp] theorem setEvid_scan : (s.setEvid i e).scan = s.scan := rfl
@[simp] theorem setEvid_iso : (s.setEvid i e).iso = s.iso := rfl
@[simp] theorem setEvid_search : (s.setEvid i e).search = s.search := rfl
@[simp] theorem setEvid_seqs : (s.setEvid i e).seqs = s.seqs := rfl
@[simp] theorem setEvid_lines : (s.setEvid i e).lines = s.lines := rfl
@[simp] theorem setEvid_arb : (s.setEvid i e).arb = s.arb := rfl
@[simp] theorem setEvid_window : (s.setEvid i e).window = s.window := rfl
@[simp] theorem setEvid_pins : (s.setEvid i e).pins = s.pins := rfl
@[simp] theorem setEvid_free : (s.setEvid i e).free = s.free := rfl
@[simp] theorem setEvid_pending : (s.setEvid i e).pending = s.pending := rfl

end setEvid

section setSeq
variable (s : State) (i : Str) (q : Seq)

@[simp] theorem setSeq_now : (s.setSeq i q).now = s.now := rfl
@[simp] theorem setSeq_inReset : (s.setSeq i q).inReset = s.inReset := rfl
@[simp] theorem setSeq_cfg : (s.setSeq i q).cfg = s.cfg := rfl
@[simp] theorem setSeq_cfgBase : (s.setSeq i q).cfgBase = s.cfgBase := rfl
@[simp] theorem setSeq_ports : (s.setSeq i q).ports = s.ports := rfl
@[simp] theorem setSeq_txn : (s.setSeq i q).txn = s.txn := rfl
@[simp] theorem setSeq_mirror : (s.setSeq i q).mirror = s.mirror := rfl
@[simp] theorem setSeq_capture : (s.setSeq i q).capture = s.capture := rfl
@[simp] theorem setSeq_journal : (s.setSeq i q).journal = s.journal := rfl
@[simp] theorem setSeq_table : (s.setSeq i q).table = s.table := rfl
@[simp] theorem setSeq_evid : (s.setSeq i q).evid = s.evid := rfl
@[simp] theorem setSeq_inputs : (s.setSeq i q).inputs = s.inputs := rfl
@[simp] theorem setSeq_meas : (s.setSeq i q).meas = s.meas := rfl
@[simp] theorem setSeq_scan : (s.setSeq i q).scan = s.scan := rfl
@[simp] theorem setSeq_iso : (s.setSeq i q).iso = s.iso := rfl
@[simp] theorem setSeq_search : (s.setSeq i q).search = s.search := rfl
@[simp] theorem setSeq_seqs : (s.setSeq i q).seqs = s.seqs.set i q := rfl
@[simp] theorem setSeq_lines : (s.setSeq i q).lines = s.lines := rfl
@[simp] theorem setSeq_arb : (s.setSeq i q).arb = s.arb := rfl
@[simp] theorem setSeq_window : (s.setSeq i q).window = s.window := rfl
@[simp] theorem setSeq_pins : (s.setSeq i q).pins = s.pins := rfl
@[simp] theorem setSeq_free : (s.setSeq i q).free = s.free := rfl
@[simp] theorem setSeq_pending : (s.setSeq i q).pending = s.pending := rfl

end setSeq

section disturb
variable (s : State)

@[simp] theorem disturb_now : (s.disturb).now = s.now := rfl
@[simp] theorem disturb_inReset : (s.disturb).inReset = s.inReset := rfl
@[simp] theorem disturb_cfg : (s.disturb).cfg = s.cfg := rfl
@[simp] theorem disturb_cfgBase : (s.disturb).cfgBase = s.cfgBase := rfl
@[simp] theorem disturb_ports : (s.disturb).ports = s.ports := rfl
@[simp] theorem disturb_txn : (s.disturb).txn = s.txn := rfl
@[simp] theorem disturb_mirror : (s.disturb).mirror = s.mirror := rfl
@[simp] theorem disturb_capture : (s.disturb).capture = s.capture := rfl
@[simp] theorem disturb_journal : (s.disturb).journal = s.journal := rfl
@[simp] theorem disturb_table : (s.disturb).table = s.table := rfl
@[simp] theorem disturb_evid : (s.disturb).evid = s.evid := rfl
@[simp] theorem disturb_inputs : (s.disturb).inputs = s.inputs := rfl
@[simp] theorem disturb_meas : (s.disturb).meas = s.meas := rfl
@[simp] theorem disturb_scan : (s.disturb).scan = s.scan := rfl
@[simp] theorem disturb_search : (s.disturb).search = s.search := rfl
@[simp] theorem disturb_seqs : (s.disturb).seqs = s.seqs := rfl
@[simp] theorem disturb_lines : (s.disturb).lines = s.lines := rfl
@[simp] theorem disturb_arb : (s.disturb).arb = s.arb := rfl
@[simp] theorem disturb_window : (s.disturb).window = s.window := rfl
@[simp] theorem disturb_pins : (s.disturb).pins = s.pins := rfl
@[simp] theorem disturb_free : (s.disturb).free = s.free := rfl
@[simp] theorem disturb_pending : (s.disturb).pending = s.pending := rfl

end disturb

section spendFree
variable (s : State) (n : Nat)

@[simp] theorem spendFree_now : (s.spendFree n).now = s.now := rfl
@[simp] theorem spendFree_inReset : (s.spendFree n).inReset = s.inReset := rfl
@[simp] theorem spendFree_cfg : (s.spendFree n).cfg = s.cfg := rfl
@[simp] theorem spendFree_cfgBase : (s.spendFree n).cfgBase = s.cfgBase := rfl
@[simp] theorem spendFree_ports : (s.spendFree n).ports = s.ports := rfl
@[simp] theorem spendFree_txn : (s.spendFree n).txn = s.txn := rfl
@[simp] theorem spendFree_mirror : (s.spendFree n).mirror = s.mirror := rfl
@[simp] theorem spendFree_capture : (s.spendFree n).capture = s.capture := rfl
@[simp] theorem spendFree_journal : (s.spendFree n).journal = s.journal := rfl
@[simp] theorem spendFree_table : (s.spendFree n).table = s.table := rfl
@[simp] theorem spendFree_evid : (s.spendFree n).evid = s.evid := rfl
@[simp] theorem spendFree_inputs : (s.spendFree n).inputs = s.inputs := rfl
@[simp] theorem spendFree_meas : (s.spendFree n).meas = s.meas := rfl
@[simp] theorem spendFree_scan : (s.spendFree n).scan = s.scan := rfl
@[simp] theorem spendFree_iso : (s.spendFree n).iso = s.iso := rfl
@[simp] theorem spendFree_search : (s.spendFree n).search = s.search := rfl
@[simp] theorem spendFree_seqs : (s.spendFree n).seqs = s.seqs := rfl
@[simp] theorem spendFree_lines : (s.spendFree n).lines = s.lines := rfl
@[simp] theorem spendFree_arb : (s.spendFree n).arb = s.arb := rfl
@[simp] theorem spendFree_window : (s.spendFree n).window = s.window := rfl
@[simp] theorem spendFree_pins : (s.spendFree n).pins = s.pins := rfl
@[simp] theorem spendFree_free : (s.spendFree n).free = s.free + n := rfl
@[simp] theorem spendFree_pending : (s.spendFree n).pending = s.pending := rfl

end spendFree

section setJournal
variable (s : State) (j : Journal)

@[simp] theorem setJournal_now : (s.setJournal j).now = s.now := rfl
@[simp] theorem setJournal_inReset : (s.setJournal j).inReset = s.inReset := rfl
@[simp] theorem setJournal_cfg : (s.setJournal j).cfg = s.cfg := rfl
@[simp] theorem setJournal_cfgBase : (s.setJournal j).cfgBase = s.cfgBase := rfl
@[simp] theorem setJournal_ports : (s.setJournal j).ports = s.ports := rfl
@[simp] theorem setJournal_txn : (s.setJournal j).txn = s.txn := rfl
@[simp] theorem setJournal_mirror : (s.setJournal j).mirror = s.mirror := rfl
@[simp] theorem setJournal_capture : (s.setJournal j).capture = s.capture := rfl
@[simp] theorem setJournal_journal : (s.setJournal j).journal = j := rfl
@[simp] theorem setJournal_table : (s.setJournal j).table = s.table := rfl
@[simp] theorem setJournal_evid : (s.setJournal j).evid = s.evid := rfl
@[simp] theorem setJournal_inputs : (s.setJournal j).inputs = s.inputs := rfl
@[simp] theorem setJournal_meas : (s.setJournal j).meas = s.meas := rfl
@[simp] theorem setJournal_scan : (s.setJournal j).scan = s.scan := rfl
@[simp] theorem setJournal_iso : (s.setJournal j).iso = s.iso := rfl
@[simp] theorem setJournal_search : (s.setJournal j).search = s.search := rfl
@[simp] theorem setJournal_seqs : (s.setJournal j).seqs = s.seqs := rfl
@[simp] theorem setJournal_lines : (s.setJournal j).lines = s.lines := rfl
@[simp] theorem setJournal_arb : (s.setJournal j).arb = s.arb := rfl
@[simp] theorem setJournal_window : (s.setJournal j).window = s.window := rfl
@[simp] theorem setJournal_pins : (s.setJournal j).pins = s.pins := rfl
@[simp] theorem setJournal_free : (s.setJournal j).free = s.free := rfl
@[simp] theorem setJournal_pending : (s.setJournal j).pending = s.pending := rfl

end setJournal

section setTxn
variable (s : State) (t : Txn)

@[simp] theorem setTxn_now : (s.setTxn t).now = s.now := rfl
@[simp] theorem setTxn_inReset : (s.setTxn t).inReset = s.inReset := rfl
@[simp] theorem setTxn_cfg : (s.setTxn t).cfg = s.cfg := rfl
@[simp] theorem setTxn_cfgBase : (s.setTxn t).cfgBase = s.cfgBase := rfl
@[simp] theorem setTxn_ports : (s.setTxn t).ports = s.ports := rfl
@[simp] theorem setTxn_txn : (s.setTxn t).txn = some t := rfl
@[simp] theorem setTxn_mirror : (s.setTxn t).mirror = s.mirror := rfl
@[simp] theorem setTxn_capture : (s.setTxn t).capture = s.capture := rfl
@[simp] theorem setTxn_journal : (s.setTxn t).journal = s.journal := rfl
@[simp] theorem setTxn_table : (s.setTxn t).table = s.table := rfl
@[simp] theorem setTxn_evid : (s.setTxn t).evid = s.evid := rfl
@[simp] theorem setTxn_inputs : (s.setTxn t).inputs = s.inputs := rfl
@[simp] theorem setTxn_meas : (s.setTxn t).meas = s.meas := rfl
@[simp] theorem setTxn_scan : (s.setTxn t).scan = s.scan := rfl
@[simp] theorem setTxn_iso : (s.setTxn t).iso = s.iso := rfl
@[simp] theorem setTxn_search : (s.setTxn t).search = s.search := rfl
@[simp] theorem setTxn_seqs : (s.setTxn t).seqs = s.seqs := rfl
@[simp] theorem setTxn_lines : (s.setTxn t).lines = s.lines := rfl
@[simp] theorem setTxn_arb : (s.setTxn t).arb = s.arb := rfl
@[simp] theorem setTxn_window : (s.setTxn t).window = s.window := rfl
@[simp] theorem setTxn_pins : (s.setTxn t).pins = s.pins := rfl
@[simp] theorem setTxn_free : (s.setTxn t).free = s.free := rfl
@[simp] theorem setTxn_pending : (s.setTxn t).pending = s.pending := rfl

end setTxn

section exchange
variable (s : State) (x : Xfer) (b : Byte)

@[simp] theorem exchange_now : (s.exchange x b).now = s.now := rfl
@[simp] theorem exchange_inReset : (s.exchange x b).inReset = s.inReset := rfl
@[simp] theorem exchange_cfg : (s.exchange x b).cfg = s.cfg := rfl
@[simp] theorem exchange_cfgBase : (s.exchange x b).cfgBase = s.cfgBase := rfl
@[simp] theorem exchange_ports : (s.exchange x b).ports = { s.ports with returned := b :: s.ports.returned, memReceived := x.mosi :: s.ports.memReceived } := rfl
@[simp] theorem exchange_txn : (s.exchange x b).txn = s.txn := rfl
@[simp] theorem exchange_mirror : (s.exchange x b).mirror = s.mirror := rfl
@[simp] theorem exchange_capture : (s.exchange x b).capture = s.capture := rfl
@[simp] theorem exchange_journal : (s.exchange x b).journal = s.journal := rfl
@[simp] theorem exchange_table : (s.exchange x b).table = s.table := rfl
@[simp] theorem exchange_evid : (s.exchange x b).evid = s.evid := rfl
@[simp] theorem exchange_inputs : (s.exchange x b).inputs = s.inputs := rfl
@[simp] theorem exchange_meas : (s.exchange x b).meas = s.meas := rfl
@[simp] theorem exchange_scan : (s.exchange x b).scan = s.scan := rfl
@[simp] theorem exchange_iso : (s.exchange x b).iso = s.iso := rfl
@[simp] theorem exchange_search : (s.exchange x b).search = s.search := rfl
@[simp] theorem exchange_seqs : (s.exchange x b).seqs = s.seqs := rfl
@[simp] theorem exchange_lines : (s.exchange x b).lines = s.lines := rfl
@[simp] theorem exchange_arb : (s.exchange x b).arb = s.arb := rfl
@[simp] theorem exchange_window : (s.exchange x b).window = s.window := rfl
@[simp] theorem exchange_pins : (s.exchange x b).pins = s.pins := rfl
@[simp] theorem exchange_free : (s.exchange x b).free = s.free := rfl
@[simp] theorem exchange_pending : (s.exchange x b).pending = s.pending := rfl

end exchange

section release
variable (s : State) (r : Release) (b : Byte) (e : MemEnd)

@[simp] theorem release_now : (s.release r b e).now = s.now := rfl
@[simp] theorem release_inReset : (s.release r b e).inReset = s.inReset := rfl
@[simp] theorem release_cfg : (s.release r b e).cfg = s.cfg := rfl
@[simp] theorem release_cfgBase : (s.release r b e).cfgBase = s.cfgBase := rfl
@[simp] theorem release_ports : (s.release r b e).ports = { s.ports with ctlSelected := false, memSelected := false, returnedTail := tailOf r b, memEnd := e } := rfl
@[simp] theorem release_txn : (s.release r b e).txn = none := rfl
@[simp] theorem release_mirror : (s.release r b e).mirror = s.mirror := rfl
@[simp] theorem release_capture : (s.release r b e).capture = s.capture := rfl
@[simp] theorem release_journal : (s.release r b e).journal = s.journal := rfl
@[simp] theorem release_table : (s.release r b e).table = s.table := rfl
@[simp] theorem release_evid : (s.release r b e).evid = s.evid := rfl
@[simp] theorem release_inputs : (s.release r b e).inputs = s.inputs := rfl
@[simp] theorem release_meas : (s.release r b e).meas = s.meas := rfl
@[simp] theorem release_scan : (s.release r b e).scan = s.scan := rfl
@[simp] theorem release_iso : (s.release r b e).iso = s.iso := rfl
@[simp] theorem release_search : (s.release r b e).search = s.search := rfl
@[simp] theorem release_seqs : (s.release r b e).seqs = s.seqs := rfl
@[simp] theorem release_lines : (s.release r b e).lines = s.lines := rfl
@[simp] theorem release_arb : (s.release r b e).arb = s.arb := rfl
@[simp] theorem release_window : (s.release r b e).window = s.window := rfl
@[simp] theorem release_pins : (s.release r b e).pins = s.pins := rfl
@[simp] theorem release_free : (s.release r b e).free = s.free := rfl
@[simp] theorem release_pending : (s.release r b e).pending = s.pending := rfl

end release

section mirrorTo
variable (s : State) (x : MirrorState)

@[simp] theorem mirrorTo_now : (s.mirrorTo x).now = s.now := rfl
@[simp] theorem mirrorTo_inReset : (s.mirrorTo x).inReset = s.inReset := rfl
@[simp] theorem mirrorTo_cfg : (s.mirrorTo x).cfg = s.cfg := rfl
@[simp] theorem mirrorTo_cfgBase : (s.mirrorTo x).cfgBase = s.cfgBase := rfl
@[simp] theorem mirrorTo_ports : (s.mirrorTo x).ports = s.ports := rfl
@[simp] theorem mirrorTo_txn : (s.mirrorTo x).txn = s.txn := rfl
@[simp] theorem mirrorTo_mirror : (s.mirrorTo x).mirror = { s.mirror with state := x } := rfl
@[simp] theorem mirrorTo_capture : (s.mirrorTo x).capture = s.capture := rfl
@[simp] theorem mirrorTo_journal : (s.mirrorTo x).journal = s.journal := rfl
@[simp] theorem mirrorTo_table : (s.mirrorTo x).table = s.table := rfl
@[simp] theorem mirrorTo_evid : (s.mirrorTo x).evid = s.evid := rfl
@[simp] theorem mirrorTo_inputs : (s.mirrorTo x).inputs = s.inputs := rfl
@[simp] theorem mirrorTo_meas : (s.mirrorTo x).meas = s.meas := rfl
@[simp] theorem mirrorTo_scan : (s.mirrorTo x).scan = s.scan := rfl
@[simp] theorem mirrorTo_iso : (s.mirrorTo x).iso = s.iso := rfl
@[simp] theorem mirrorTo_search : (s.mirrorTo x).search = s.search := rfl
@[simp] theorem mirrorTo_seqs : (s.mirrorTo x).seqs = s.seqs := rfl
@[simp] theorem mirrorTo_lines : (s.mirrorTo x).lines = s.lines := rfl
@[simp] theorem mirrorTo_arb : (s.mirrorTo x).arb = s.arb := rfl
@[simp] theorem mirrorTo_window : (s.mirrorTo x).window = s.window := rfl
@[simp] theorem mirrorTo_pins : (s.mirrorTo x).pins = s.pins := rfl
@[simp] theorem mirrorTo_free : (s.mirrorTo x).free = s.free := rfl
@[simp] theorem mirrorTo_pending : (s.mirrorTo x).pending = s.pending := rfl

end mirrorTo

section setWel
variable (s : State) (w : Wel)

@[simp] theorem setWel_now : (s.setWel w).now = s.now := rfl
@[simp] theorem setWel_inReset : (s.setWel w).inReset = s.inReset := rfl
@[simp] theorem setWel_cfg : (s.setWel w).cfg = s.cfg := rfl
@[simp] theorem setWel_cfgBase : (s.setWel w).cfgBase = s.cfgBase := rfl
@[simp] theorem setWel_ports : (s.setWel w).ports = s.ports := rfl
@[simp] theorem setWel_txn : (s.setWel w).txn = s.txn := rfl
@[simp] theorem setWel_mirror : (s.setWel w).mirror = { s.mirror with wel := w } := rfl
@[simp] theorem setWel_capture : (s.setWel w).capture = s.capture := rfl
@[simp] theorem setWel_journal : (s.setWel w).journal = s.journal := rfl
@[simp] theorem setWel_table : (s.setWel w).table = s.table := rfl
@[simp] theorem setWel_evid : (s.setWel w).evid = s.evid := rfl
@[simp] theorem setWel_inputs : (s.setWel w).inputs = s.inputs := rfl
@[simp] theorem setWel_meas : (s.setWel w).meas = s.meas := rfl
@[simp] theorem setWel_scan : (s.setWel w).scan = s.scan := rfl
@[simp] theorem setWel_iso : (s.setWel w).iso = s.iso := rfl
@[simp] theorem setWel_search : (s.setWel w).search = s.search := rfl
@[simp] theorem setWel_seqs : (s.setWel w).seqs = s.seqs := rfl
@[simp] theorem setWel_lines : (s.setWel w).lines = s.lines := rfl
@[simp] theorem setWel_arb : (s.setWel w).arb = s.arb := rfl
@[simp] theorem setWel_window : (s.setWel w).window = s.window := rfl
@[simp] theorem setWel_pins : (s.setWel w).pins = s.pins := rfl
@[simp] theorem setWel_free : (s.setWel w).free = s.free := rfl
@[simp] theorem setWel_pending : (s.setWel w).pending = s.pending := rfl

end setWel

section setFlag
variable (s : State) (b : Bool)

@[simp] theorem setFlag_now : (s.setFlag b).now = s.now := rfl
@[simp] theorem setFlag_inReset : (s.setFlag b).inReset = s.inReset := rfl
@[simp] theorem setFlag_cfg : (s.setFlag b).cfg = s.cfg := rfl
@[simp] theorem setFlag_cfgBase : (s.setFlag b).cfgBase = s.cfgBase := rfl
@[simp] theorem setFlag_ports : (s.setFlag b).ports = s.ports := rfl
@[simp] theorem setFlag_txn : (s.setFlag b).txn = s.txn := rfl
@[simp] theorem setFlag_mirror : (s.setFlag b).mirror = { s.mirror with refusalFlag := b } := rfl
@[simp] theorem setFlag_capture : (s.setFlag b).capture = s.capture := rfl
@[simp] theorem setFlag_journal : (s.setFlag b).journal = s.journal := rfl
@[simp] theorem setFlag_table : (s.setFlag b).table = s.table := rfl
@[simp] theorem setFlag_evid : (s.setFlag b).evid = s.evid := rfl
@[simp] theorem setFlag_inputs : (s.setFlag b).inputs = s.inputs := rfl
@[simp] theorem setFlag_meas : (s.setFlag b).meas = s.meas := rfl
@[simp] theorem setFlag_scan : (s.setFlag b).scan = s.scan := rfl
@[simp] theorem setFlag_iso : (s.setFlag b).iso = s.iso := rfl
@[simp] theorem setFlag_search : (s.setFlag b).search = s.search := rfl
@[simp] theorem setFlag_seqs : (s.setFlag b).seqs = s.seqs := rfl
@[simp] theorem setFlag_lines : (s.setFlag b).lines = s.lines := rfl
@[simp] theorem setFlag_arb : (s.setFlag b).arb = s.arb := rfl
@[simp] theorem setFlag_window : (s.setFlag b).window = s.window := rfl
@[simp] theorem setFlag_pins : (s.setFlag b).pins = s.pins := rfl
@[simp] theorem setFlag_free : (s.setFlag b).free = s.free := rfl
@[simp] theorem setFlag_pending : (s.setFlag b).pending = s.pending := rfl

end setFlag

end Sys2Proof.Machine
end

