-- ==== Sys2Proof/Laws/Carry.lean ====
section
/-! SUPPORT. What the end of an event can do: recomputation, sequencers, arbiter and search unit change targets, coherence, roles, switch
states, grants, the queue, the disturbed mark, the search and the pins, and nothing else. -/

namespace Sys2Proof.Machine

/-- The fields of an entry that only records and reads write. -/
structure SameRecord (e e' : Entry) : Prop where
  recorded    : e'.recorded = e.recorded
  liveSlot    : e'.liveSlot = e.liveSlot
  damaged     : e'.damaged = e.damaged
  lastRefusal : e'.lastRefusal = e.lastRefusal

/-- `t` differs from `s` at most where the end of an event may change a state. -/
structure Carries (s t : State) : Prop where
  now     : t.now = s.now
  inReset : t.inReset = s.inReset
  cfg     : t.cfg = s.cfg
  cfgBase : t.cfgBase = s.cfgBase
  ports   : t.ports = s.ports
  txn     : t.txn = s.txn
  mirror  : t.mirror = s.mirror
  capture : t.capture = s.capture
  journal : t.journal = s.journal
  record  : ∀ i : Str, SameRecord s.table[i] t.table[i]
  evid    : t.evid = s.evid
  inputs  : t.inputs = s.inputs
  meas    : t.meas = s.meas
  scan    : t.scan = s.scan
  isoValue  : t.iso.value = s.iso.value
  isoStatus : t.iso.status = s.iso.status
  isoStart  : t.iso.start = s.iso.start
  isoFault  : t.iso.fault = s.iso.fault
  lines   : t.lines = s.lines
  window  : t.window = s.window
  free    : t.free = s.free
  pending : t.pending = s.pending

theorem SameRecord.refl (e : Entry) : SameRecord e e := ⟨rfl, rfl, rfl, rfl⟩

theorem SameRecord.trans {a b c : Entry} (h : SameRecord a b) (k : SameRecord b c) : SameRecord a c :=
  ⟨k.recorded.trans h.recorded, k.liveSlot.trans h.liveSlot, k.damaged.trans h.damaged, k.lastRefusal.trans h.lastRefusal⟩

theorem Carries.refl (s : State) : Carries s s :=
  ⟨rfl, rfl, rfl, rfl, rfl, rfl, rfl, rfl, rfl, fun _ => .refl _, rfl, rfl, rfl, rfl, rfl, rfl, rfl, rfl, rfl, rfl, rfl, rfl⟩

theorem Carries.trans {a b c : State} (h : Carries a b) (k : Carries b c) : Carries a c :=
  ⟨k.now.trans h.now, k.inReset.trans h.inReset, k.cfg.trans h.cfg, k.cfgBase.trans h.cfgBase, k.ports.trans h.ports,
    k.txn.trans h.txn, k.mirror.trans h.mirror, k.capture.trans h.capture, k.journal.trans h.journal,
    fun i => (h.record i).trans (k.record i), k.evid.trans h.evid, k.inputs.trans h.inputs, k.meas.trans h.meas,
    k.scan.trans h.scan, k.isoValue.trans h.isoValue, k.isoStatus.trans h.isoStatus, k.isoStart.trans h.isoStart,
    k.isoFault.trans h.isoFault, k.lines.trans h.lines, k.window.trans h.window, k.free.trans h.free,
    k.pending.trans h.pending⟩

theorem mapAll_get {α : Type} (f : Str → α → α) (v : Vector α 24) (i : Str) : (mapAll f v)[i] = f i v[i] := by
  simp [mapAll]

/-- A fold of steps that carry carries. -/
theorem Carries.foldl {α : Type} (f : State → α → State) (h : ∀ s a, Carries s (f s a)) (xs : List α) (s : State) :
    Carries s (xs.foldl f s) := by
  induction xs generalizing s with
  | nil => exact .refl s
  | cons x xs ih => exact (h s x).trans (ih (f s x))

theorem carries_disturb (s : State) : Carries s s.disturb :=
  ⟨rfl, rfl, rfl, rfl, rfl, rfl, rfl, rfl, rfl, fun _ => .refl _, rfl, rfl, rfl, rfl, rfl, rfl, rfl, rfl, rfl, rfl, rfl, rfl⟩

theorem carries_seqs (s : State) (v : Vector Seq 24) : Carries s { s with seqs := v } :=
  ⟨rfl, rfl, rfl, rfl, rfl, rfl, rfl, rfl, rfl, fun _ => .refl _, rfl, rfl, rfl, rfl, rfl, rfl, rfl, rfl, rfl, rfl, rfl, rfl⟩

theorem carries_arb (s : State) (a : Arb) : Carries s { s with arb := a } :=
  ⟨rfl, rfl, rfl, rfl, rfl, rfl, rfl, rfl, rfl, fun _ => .refl _, rfl, rfl, rfl, rfl, rfl, rfl, rfl, rfl, rfl, rfl, rfl, rfl⟩

theorem carries_search (s : State) (x : Search) : Carries s { s with search := x } :=
  ⟨rfl, rfl, rfl, rfl, rfl, rfl, rfl, rfl, rfl, fun _ => .refl _, rfl, rfl, rfl, rfl, rfl, rfl, rfl, rfl, rfl, rfl, rfl, rfl⟩

theorem carries_pins (s : State) (p : Pins) : Carries s { s with pins := p } :=
  ⟨rfl, rfl, rfl, rfl, rfl, rfl, rfl, rfl, rfl, fun _ => .refl _, rfl, rfl, rfl, rfl, rfl, rfl, rfl, rfl, rfl, rfl, rfl, rfl⟩

/-- A rewriting of the table that keeps what records write. -/
theorem carries_table (s : State) (f : Str → Entry → Entry) (h : ∀ i e, SameRecord e (f i e)) :
    Carries s { s with table := mapAll f s.table } :=
  ⟨rfl, rfl, rfl, rfl, rfl, rfl, rfl, rfl, rfl, fun i => by simpa only [mapAll_get] using h i _,
    rfl, rfl, rfl, rfl, rfl, rfl, rfl, rfl, rfl, rfl, rfl, rfl⟩

theorem carries_recompute (s : State) : Carries s (recompute s) :=
  carries_table s _ fun i e => by split <;> exact ⟨rfl, rfl, rfl, rfl⟩

theorem carries_actuate (s : State) (i : Str) (q : Seq) : Carries s (s.actuate i q) :=
  (carries_seqs s _).trans (carries_disturb _)

theorem carries_reconcile (s : State) : Carries s (reconcile s) := by
  unfold reconcile
  simp only
  split
  · exact (carries_seqs s _).trans (carries_disturb _)
  · exact carries_seqs s _

/-! ## The arbiter -/

theorem carries_giveGrant (s : State) (i : Str) (c : Coil) : Carries s (giveGrant s i c) := carries_actuate ..

theorem carries_withdraw (s : State) : Carries s (withdraw s) := carries_arb ..

theorem carries_applyPendingK (s : State) : Carries s (applyPendingK s) := by
  unfold applyPendingK
  split
  · split
    · exact carries_arb ..
    · exact .refl s
  · exact .refl s

theorem carries_request (s : State) (i : Str) : Carries s (request s i) := by
  unfold request
  repeat' split
  · exact .refl s
  · exact carries_giveGrant ..
  · exact carries_arb ..
  · exact .refl s

theorem carries_grantHeads (n : Nat) (s : State) : Carries s (grantHeads n s) := by
  induction n generalizing s with
  | zero => exact .refl s
  | succ n ih =>
    unfold grantHeads
    repeat' split
    · exact .refl s
    · exact ((carries_arb s _).trans (carries_giveGrant ..)).trans (ih _)
    · exact .refl s

theorem carries_arbitrate (s : State) : Carries s (arbitrate s) :=
  (((carries_withdraw s).trans (carries_applyPendingK _)).trans (Carries.foldl request carries_request allStrings _)).trans
    (carries_grantHeads ..)

theorem carries_carryOut (s : State) : Carries s (carryOut s) :=
  ((carries_recompute s).trans (carries_reconcile _)).trans (carries_arbitrate _)

/-! ## The search unit -/

theorem carries_setRoles (s : State) (held suspect : List Str) : Carries s (setRoles s held suspect) :=
  carries_table s _ fun _ _ => ⟨rfl, rfl, rfl, rfl⟩

theorem carries_endSearch (s : State) (r : SearchResult) (f : Option Str) : Carries s (endSearch s r f) :=
  (carries_setRoles s [] []).trans (carries_search _ _)

theorem carries_beginHalving (s : State) (xs : List Str) : Carries s (beginHalving s xs) :=
  (carries_setRoles s _ _).trans (carries_search _ _)

theorem carries_beginConfirm (s : State) (i : Str) : Carries s (beginConfirm s i) :=
  (carries_setRoles s _ _).trans (carries_search _ _)

theorem carries_nextTest (s : State) (xs : List Str) : Carries s (nextTest s xs) := by
  unfold nextTest
  split
  · split <;> exact carries_endSearch ..
  · exact (carries_setRoles s _ _).trans (carries_search _ _)

theorem carries_enterSweep (s : State) : Carries s (enterSweep s) := by
  unfold enterSweep
  simp only
  split
  · exact carries_endSearch ..
  · exact (carries_setRoles s _ _).trans (carries_search _ _)

theorem carries_notConfirmed (s : State) : Carries s (notConfirmed s) := by
  unfold notConfirmed
  split
  · exact carries_enterSweep s
  · exact carries_endSearch ..

theorem carries_beginStep (s : State) (xs : List Str) : Carries s (beginStep s xs) := by
  unfold beginStep
  split
  · exact (carries_search s _).trans (carries_notConfirmed _)
  · exact carries_beginConfirm ..
  · exact carries_beginHalving ..

theorem carries_takeOvertaken (s : State) (gone : List Str) : Carries s (takeOvertaken s gone) := by
  have h : Carries s { s with
      table := mapAll (fun i e => if gone.contains i then { e with role := .none } else e) s.table } :=
    carries_table s _ fun i e => by split <;> exact ⟨rfl, rfl, rfl, rfl⟩
  refine h.trans ?_
  unfold takeOvertaken
  simp only
  repeat' split
  · exact .refl _
  · exact carries_endSearch ..
  · exact carries_search ..
  · exact carries_beginStep ..
  · exact (carries_search _ _).trans (carries_notConfirmed _)
  · exact (carries_search _ _).trans (carries_nextTest _ _)
  · exact carries_search ..
  · exact (carries_search _ _).trans (carries_endSearch _ _ _)
  · exact carries_search ..

theorem carries_searchReact (s₀ s₁ : State) : Carries s₁ (searchReact s₀ s₁) := by
  unfold searchReact
  simp only
  repeat' split
  · exact .refl _
  · exact carries_endSearch ..
  · exact carries_endSearch ..
  · exact carries_endSearch ..
  · exact .refl _
  · exact carries_takeOvertaken ..

theorem carries_judgeSwitchWait (s : State) : Carries s (judgeSwitchWait s) := by
  unfold judgeSwitchWait
  repeat' split
  · exact carries_search ..
  · exact carries_search ..
  · exact carries_nextTest ..
  all_goals exact .refl _

/-- The end of an event changes nothing but what `Carries` leaves free. -/
theorem carries_finish (s₀ s₁ : State) : Carries s₁ (finish s₀ s₁) :=
  ((((carries_searchReact s₀ s₁).trans (carries_carryOut _)).trans (carries_judgeSwitchWait _)).trans
    (carries_carryOut _)).trans (carries_pins _ _)

end Sys2Proof.Machine
end

