-- ==== Sys2Proof/Laws/Keeps.lean ====
section
/-! SUPPORT. What no operation of a block touches: the clock, the reset, the queue of commands, the transaction record, the found mark of
the scan unit and the lines at the inputs. -/

namespace Sys2Proof.Machine

/-- `t` keeps what belongs to no block. -/
structure Keeps (s t : State) : Prop where
  now     : t.now = s.now
  inReset : t.inReset = s.inReset
  pending : t.pending = s.pending
  txn     : t.txn = s.txn
  lines   : t.lines = s.lines
  cfgBase : t.cfgBase = s.cfgBase

theorem Keeps.refl (s : State) : Keeps s s := ⟨rfl, rfl, rfl, rfl, rfl, rfl⟩

theorem Keeps.trans {a b c : State} (h : Keeps a b) (k : Keeps b c) : Keeps a c :=
  ⟨k.now.trans h.now, k.inReset.trans h.inReset, k.pending.trans h.pending, k.txn.trans h.txn, k.lines.trans h.lines,
    k.cfgBase.trans h.cfgBase⟩

theorem Keeps.foldl {α : Type} (f : State → α → State) (h : ∀ s a, Keeps s (f s a)) (xs : List α) (s : State) :
    Keeps s (xs.foldl f s) := by
  induction xs generalizing s with
  | nil => exact .refl s
  | cons x xs ih => exact (h s x).trans (ih (f s x))

theorem Keeps.ite {s a b : State} {p : Prop} [Decidable p] (ha : Keeps s a) (hb : Keeps s b) : Keeps s (if p then a else b) := by
  split
  · exact ha
  · exact hb

theorem Carries.keeps {s t : State} (h : Carries s t) : Keeps s t :=
  ⟨h.now, h.inReset, h.pending, h.txn, h.lines, h.cfgBase⟩

theorem keeps_finish (s₀ s₁ : State) : Keeps s₁ (finish s₀ s₁) := (carries_finish s₀ s₁).keeps

/-! ## Single updates -/

theorem keeps_setJournal (s : State) (j : Journal) : Keeps s (s.setJournal j) := ⟨rfl, rfl, rfl, rfl, rfl, rfl⟩

theorem keeps_setSector (s : State) (j : Nat) (x : Sector) : Keeps s (s.setSector j x) := ⟨rfl, rfl, rfl, rfl, rfl, rfl⟩

theorem keeps_setSlots (s : State) (k : Nat) (xs : List Summary) : Keeps s (s.setSlots k xs) := ⟨rfl, rfl, rfl, rfl, rfl, rfl⟩

theorem keeps_fillSector (s : State) (j : Nat) (x : Summary) : Keeps s (s.fillSector j x) := ⟨rfl, rfl, rfl, rfl, rfl, rfl⟩

theorem keeps_setEntry (s : State) (i : Str) (e : Entry) : Keeps s (s.setEntry i e) := ⟨rfl, rfl, rfl, rfl, rfl, rfl⟩

theorem keeps_setEvid (s : State) (i : Str) (e : Evidence) : Keeps s (s.setEvid i e) := ⟨rfl, rfl, rfl, rfl, rfl, rfl⟩

theorem keeps_setSeq (s : State) (i : Str) (q : Seq) : Keeps s (s.setSeq i q) := ⟨rfl, rfl, rfl, rfl, rfl, rfl⟩

theorem keeps_latchHeld (s : State) (i : Str) (o : Origin) : Keeps s (s.latchHeld i o) := ⟨rfl, rfl, rfl, rfl, rfl, rfl⟩

theorem keeps_latch (s : State) (i : Str) (c : Cause) : Keeps s (s.latch i c) := ⟨rfl, rfl, rfl, rfl, rfl, rfl⟩

theorem keeps_actuate (s : State) (i : Str) (q : Seq) : Keeps s (s.actuate i q) := ⟨rfl, rfl, rfl, rfl, rfl, rfl⟩

theorem keeps_setOutcome (s : State) (k : CommitKind) (r : CommitResult) (a : Nat) : Keeps s (s.setOutcome k r a) :=
  ⟨rfl, rfl, rfl, rfl, rfl, rfl⟩

theorem keeps_capture (s : State) (c : Capture) : Keeps s { s with capture := c } := ⟨rfl, rfl, rfl, rfl, rfl, rfl⟩

theorem keeps_mirror (s : State) (m : Mirror) : Keeps s { s with mirror := m } := ⟨rfl, rfl, rfl, rfl, rfl, rfl⟩

theorem keeps_spendFree (s : State) (n : Nat) : Keeps s (s.spendFree n) := ⟨rfl, rfl, rfl, rfl, rfl, rfl⟩

/-! ## The journal tracker -/

theorem keeps_openHead (s : State) : Keeps s s.openHead := by
  unfold State.openHead
  simp only
  split
  · exact keeps_setSector ..
  · exact .refl s

theorem keeps_weldCleared (s : State) (i : Str) : Keeps s (weldCleared s i) := by
  unfold weldCleared
  simp only
  split
  · exact keeps_setSeq ..
  · exact .refl s

theorem keeps_applyRecord (s : State) (k : Nat) (r : Record) : Keeps s (applyRecord s k r) := by
  unfold applyRecord
  split
  · exact .refl s
  · simp only
    split
    · exact ((keeps_setEntry s _ _).trans (keeps_setEvid _ _ _)).trans (keeps_weldCleared _ _)
    · exact (keeps_setEntry s _ _).trans (keeps_setEvid _ _ _)

theorem keeps_applyRecords (s : State) (rs : List (Nat × Record)) : Keeps s (applyRecords s rs) :=
  Keeps.foldl (fun (s : State) (x : Nat × Record) => applyRecord s x.1 x.2)
    (fun s x => keeps_applyRecord s x.1 x.2) rs s

theorem keeps_doubtRange (s : State) (c : ProgCommit) : Keeps s (doubtRange s c) := by
  unfold doubtRange
  split
  · exact keeps_setSlots ..
  · exact (keeps_setSlots s _ _).trans (keeps_setJournal _ _)
  · exact keeps_setSlots ..
  · exact keeps_setSlots ..

theorem keeps_dropProg (s : State) : Keeps s s.dropProg := ⟨rfl, rfl, rfl, rfl, rfl, rfl⟩

theorem keeps_dropErase (s : State) : Keeps s s.dropErase := ⟨rfl, rfl, rfl, rfl, rfl, rfl⟩

theorem keeps_resolveProgram (s : State) (err : Bool) : Keeps s (resolveProgram s err) := by
  unfold resolveProgram
  split
  · exact .refl s
  · simp only
    refine (keeps_dropProg s).trans ?_
    split
    · split
      · exact (keeps_doubtRange _ _).trans (keeps_setOutcome ..)
      · exact keeps_setOutcome ..
    · exact (keeps_applyRecords _ _).trans (keeps_setOutcome ..)

theorem keeps_holdRecords (s : State) (rs : List Record) : Keeps s (holdRecords s rs) := by
  refine Keeps.foldl _ (fun s r => ?_) rs s
  split
  · split
    · exact keeps_latchHeld ..
    · exact .refl s
  · exact .refl s

theorem keeps_expireProgram (s : State) : Keeps s (expireProgram s) := by
  unfold expireProgram
  split
  · exact .refl s
  · simp only
    refine (keeps_dropProg s).trans ?_
    split
    · exact ((keeps_doubtRange _ _).trans (keeps_holdRecords _ _)).trans (keeps_setOutcome ..)
    · exact keeps_setOutcome ..

theorem keeps_eraseSector (s : State) (j : Nat) : Keeps s (s.eraseSector j) :=
  (keeps_setSector s _ _).trans (keeps_fillSector _ _ _)

theorem keeps_sectorErased (s : State) (j : Nat) : Keeps s (sectorErased s j) := (keeps_eraseSector s j).trans (keeps_openHead _)

theorem keeps_failErase (s : State) (r : CommitResult) : Keeps s (failErase s r) := by
  unfold failErase
  split
  · exact .refl s
  · simp only
    refine (keeps_dropErase s).trans ?_
    split
    · split
      · exact keeps_setOutcome ..
      · exact ((keeps_setSector _ _ _).trans (keeps_fillSector _ _ _)).trans (keeps_setOutcome ..)
    · exact keeps_setOutcome ..

theorem keeps_becomeInconsistent (s : State) : Keeps s (becomeInconsistent s) := ⟨rfl, rfl, rfl, rfl, rfl, rfl⟩

theorem keeps_adoptRing (s : State) (r : Ring) : Keeps s (adoptRing s r) := ⟨rfl, rfl, rfl, rfl, rfl, rfl⟩

theorem keeps_attemptAdoption (s : State) : Keeps s (attemptAdoption s) := by
  unfold attemptAdoption
  simp only
  split
  · split
    · exact keeps_adoptRing ..
    · exact keeps_becomeInconsistent s
  · exact .refl s

theorem keeps_coverSector (s : State) (j : Nat) (b : Bool) : Keeps s (s.coverSector j b) := ⟨rfl, rfl, rfl, rfl, rfl, rfl⟩

theorem keeps_confirmErase (s : State) : Keeps s (confirmErase s) := by
  unfold confirmErase
  split
  · exact .refl s
  · next c _ =>
    simp only
    have h : Keeps s (s.dropErase.setOutcome .erase .confirmed c.base) := (keeps_dropErase s).trans (keeps_setOutcome ..)
    refine h.trans ?_
    split
    · exact .refl _
    · split
      · exact ((keeps_fillSector _ _ _).trans (keeps_coverSector _ _ _)).trans (keeps_attemptAdoption _)
      · split
        · exact (keeps_sectorErased _ _).trans ((keeps_coverSector _ _ _).trans (keeps_attemptAdoption _))
        · exact keeps_sectorErased _ _

theorem keeps_resolveErase (s : State) (err : Bool) : Keeps s (resolveErase s err) := by
  unfold resolveErase
  split
  · exact keeps_failErase ..
  · exact keeps_confirmErase s

theorem keeps_pauseErase (s : State) : Keeps s (pauseErase s) := by
  unfold pauseErase
  repeat' split
  · exact keeps_setJournal ..
  · exact .refl s
  · exact .refl s

theorem keeps_resumeErase (s : State) : Keeps s (resumeErase s) := by
  unfold resumeErase
  repeat' split
  · exact keeps_setJournal ..
  · exact .refl s
  · exact .refl s

/-! ## The transaction tracker -/

theorem keeps_endBoth (s : State) (f : State → State) (h : ∀ s, Keeps s (f s)) (r : CommitResult) :
    Keeps s (endBoth s f r) := by
  unfold endBoth
  simp only
  exact (((h s).trans (keeps_failErase _ r)).trans (keeps_setJournal _ _)).trans (keeps_spendFree _ _)

theorem keeps_mirrorTo (s : State) (x : MirrorState) : Keeps s (s.mirrorTo x) := ⟨rfl, rfl, rfl, rfl, rfl, rfl⟩

theorem keeps_moveMirror (s : State) (busy susp err : Bool) : Keeps s (moveMirror s busy susp err) := by
  unfold moveMirror
  split
  · exact keeps_mirrorTo ..
  · exact keeps_mirrorTo ..
  · split
    · exact .refl s
    · exact (keeps_resolveProgram s err).trans (keeps_mirrorTo ..)
  · repeat' split
    · exact .refl s
    · exact (keeps_pauseErase s).trans (keeps_mirrorTo ..)
    · exact (keeps_resolveErase s err).trans (keeps_mirrorTo ..)
  · repeat' split
    · exact (keeps_resumeErase s).trans (keeps_mirrorTo ..)
    · exact .refl s
    · exact (keeps_failErase s _).trans (keeps_mirrorTo ..)
  · repeat' split
    · exact .refl s
    · exact (keeps_resolveProgram s err).trans (keeps_mirrorTo ..)
    · exact (keeps_endBoth s _ (fun s => keeps_resolveProgram s err) _).trans (keeps_mirrorTo ..)

theorem keeps_observe (s : State) (cfg : Config) (b : Byte) : Keeps s (observe s cfg b) := by
  unfold observe
  exact (keeps_mirror s _).trans (keeps_moveMirror _ _ _ _)

theorem keeps_programTimeout (s : State) : Keeps s (programTimeout s) := by
  unfold programTimeout
  split
  · exact (keeps_endBoth s _ keeps_expireProgram _).trans (keeps_mirrorTo ..)
  · exact (keeps_expireProgram s).trans (keeps_mirrorTo ..)

theorem keeps_noteRefusal (s : State) (c : RefusalCode) (i : Option Str) : Keeps s (noteRefusal s c i) := by
  unfold noteRefusal
  split
  · exact keeps_setEntry ..
  · exact .refl s

theorem keeps_advanceHead (s : State) (n : Nat) : Keeps s (advanceHead s n) := by
  unfold advanceHead
  simp only
  exact ((keeps_setSector s _ _).trans (keeps_setJournal _ _)).trans (keeps_openHead _)

theorem keeps_acceptAppend (s : State) (image : List (Option Byte)) : Keeps s (acceptAppend s image) := by
  unfold acceptAppend
  simp only
  exact ((keeps_setSlots s _ _).trans (keeps_advanceHead _ _)).trans (keeps_setJournal _ _)

theorem keeps_acceptJournalErase (s : State) (j : Nat) : Keeps s (acceptJournalErase s j) := by
  unfold acceptJournalErase startErase
  simp only
  split
  · exact ((keeps_setJournal s _).trans (keeps_fillSector _ _ _)).trans (keeps_coverSector _ _ _)
  · exact (keeps_setJournal s _).trans (keeps_setSector _ _ _)

theorem keeps_invalidateWritten (s : State) (t : Txn) : Keeps s (invalidateWritten s t) := ⟨rfl, rfl, rfl, rfl, rfl, rfl⟩

theorem keeps_invalidateAll (s : State) : Keeps s (invalidateAll s) := ⟨rfl, rfl, rfl, rfl, rfl, rfl⟩

theorem keeps_commitProgram (s : State) (t : Txn) : Keeps s (commitProgram s t) := by
  unfold commitProgram
  simp only
  split
  · exact keeps_acceptAppend ..
  · split
    · exact (keeps_setJournal s _).trans (keeps_invalidateWritten _ _)
    · exact keeps_setJournal ..

theorem keeps_commitErase (s : State) (t : Txn) (c : CmdClass) : Keeps s (commitErase s t c) := by
  unfold commitErase startErase
  simp only
  split
  · exact keeps_acceptJournalErase ..
  · split
    · exact (keeps_setJournal s _).trans (keeps_invalidateAll _)
    · exact keeps_setJournal ..

/-! ## Reads -/

theorem keeps_coverPage (r : ReadStream) (s : State) (p : Nat) : Keeps s (coverPage r s p) := by
  unfold coverPage
  split
  · exact .refl s
  · exact (keeps_setSlots s _ _).trans (keeps_capture _ _)

theorem keeps_coverRead (s : State) (r : ReadStream) : Keeps s (coverRead s r) :=
  (Keeps.foldl _ (fun s p => keeps_coverPage r s p) _ s).trans (keeps_attemptAdoption _)

theorem keeps_markDamage (s : State) (k : Nat) : Keeps s (markDamage s k) := ⟨rfl, rfl, rfl, rfl, rfl, rfl⟩

theorem keeps_freeSlots (s : State) (d : Doubt) (n : Nat) : Keeps s (freeSlots s d n) := by
  unfold freeSlots
  simp only
  refine Keeps.ite (.refl s) (Keeps.ite ?_ ?_)
  · exact (((keeps_setJournal s _).trans (keeps_setSlots _ _ _)).trans (keeps_setSector _ _ _)).trans (keeps_setSector _ _ _)
  · exact ((keeps_setJournal s _).trans (keeps_setSlots _ _ _)).trans (keeps_setSector _ _ _)

theorem keeps_resolveDoubt (s : State) (d : Doubt) (seen : List Summary) : Keeps s (resolveDoubt s d seen) := by
  unfold resolveDoubt
  simp only
  exact ((((keeps_setSlots s _ _).trans (keeps_freeSlots _ _ _)).trans (keeps_applyRecords _ _)).trans
    (keeps_setJournal _ _)).trans (keeps_setOutcome ..)

theorem keeps_compareRead (s : State) (r : ReadStream) : Keeps s (compareRead s r) := by
  unfold compareRead
  simp only
  refine Keeps.ite (keeps_becomeInconsistent s) ?_
  have h := (Keeps.foldl markDamage keeps_markDamage
    ((upTo (ringSlots s)).filter fun k => slotDamaged (slotAt s k) (readSlot s r k)) s).trans
    (Keeps.foldl sectorErased keeps_sectorErased ((upTo (ringSectors s)).filter (readErased s r)) _)
  refine h.trans ?_
  split
  · exact keeps_resolveDoubt ..
  · exact .refl _

theorem keeps_journalRead (s : State) (t : Txn) : Keeps s (journalRead s t) := by
  unfold journalRead
  repeat' split
  · exact .refl s
  · exact keeps_coverRead ..
  · exact keeps_coverRead ..
  · exact keeps_compareRead ..
  · exact keeps_compareRead ..

theorem keeps_captureSegment (r : ReadStream) (s : State) (j : Fin 8) : Keeps s (captureSegment r s j) := by
  unfold captureSegment
  split
  · exact .refl s
  · exact keeps_capture ..

theorem keeps_dropLeaving (s : State) (n : Nat) : Keeps s (dropLeaving s n) := by
  constructor <;> simp only [dropLeaving]

theorem keeps_leavePresence (s : State) (n : Nat) : Keeps s (leavePresence s n) :=
  Keeps.ite ((keeps_dropLeaving s n).trans (carries_disturb _).keeps) (keeps_dropLeaving s n)

theorem keeps_adoptK (s : State) (k : Nat) : Keeps s (adoptK s k) := by
  unfold adoptK
  split
  · exact ⟨rfl, rfl, rfl, rfl, rfl, rfl⟩
  · exact ⟨rfl, rfl, rfl, rfl, rfl, rfl⟩

theorem keeps_firstAdoption (s : State) (c : Config) : Keeps s (firstAdoption s c) := by
  unfold firstAdoption
  exact ((keeps_leavePresence s _).trans (keeps_adoptK _ _)).trans ⟨rfl, rfl, rfl, rfl, rfl, rfl⟩

theorem keeps_laterAdoption (s : State) (c : Config) : Keeps s (laterAdoption s c) := by
  unfold laterAdoption
  exact (keeps_adoptK s _).trans ⟨rfl, rfl, rfl, rfl, rfl, rfl⟩

theorem keeps_judgeBlock (s : State) : Keeps s (judgeBlock s) := by
  unfold judgeBlock
  simp only
  have h : Keeps s (clearSegments s) := ⟨rfl, rfl, rfl, rfl, rfl, rfl⟩
  refine h.trans ?_
  repeat' split
  · exact keeps_laterAdoption ..
  · exact keeps_firstAdoption ..
  · exact keeps_capture ..

theorem keeps_configRead (s : State) (t : Txn) : Keeps s (configRead s t) := by
  unfold configRead
  simp only
  have h := Keeps.foldl (captureSegment t.readStream) (keeps_captureSegment _) (List.finRange 8) s
  exact Keeps.ite (h.trans (keeps_judgeBlock _)) h

/-- The release of a read keeps what belongs to no block. -/
theorem keeps_readEffects (s : State) (t : Txn) : Keeps s (readEffects s t) :=
  (keeps_journalRead s t).trans (keeps_configRead _ t)

/-! ## Measurement and switches -/

theorem keeps_failSwitch (s : State) (i : Str) : Keeps s (failSwitch s i) := by
  unfold failSwitch
  simp only
  split
  · exact (keeps_actuate s _ _).trans (keeps_setEvid _ _ _)
  · exact (keeps_setSeq s _ _).trans (keeps_setEvid _ _ _)

theorem keeps_failClose (s : State) (i : Str) : Keeps s (failClose s i) :=
  (keeps_actuate s _ _).trans (keeps_latchHeld _ _ _)

theorem keeps_scanString (n : Nat) (s : State) (i : Str) : Keeps s (scanString n s i) := by
  unfold scanString
  simp only
  split
  · split
    · exact keeps_setSeq ..
    · exact (keeps_setSeq s _ _).trans (keeps_latchHeld _ _ _)
    · exact (keeps_setSeq s _ _).trans (keeps_latchHeld _ _ _)
    · exact (keeps_setSeq s _ _).trans (keeps_failSwitch _ _)
  · exact .refl s

theorem keeps_scan (s : State) (x : Scan) : Keeps s { s with scan := x } := ⟨rfl, rfl, rfl, rfl, rfl, rfl⟩

theorem keeps_writeRecords (s : State) (job : ScanJob) (xs : Vector Sample 24) (bus : Int) :
    Keeps s (writeRecords s job xs bus) := by
  constructor <;> simp only [writeRecords]

theorem keeps_evaluateAll (s : State) : Keeps s (evaluateAll s) := by
  constructor <;> simp only [evaluateAll]

theorem keeps_completeScan (s : State) (job : ScanJob) (xs : Vector Sample 24) (bus : Int) :
    Keeps s (completeScan s job xs bus) := by
  unfold completeScan
  simp only
  exact ((keeps_writeRecords s job xs bus).trans (keeps_evaluateAll _)).trans
    ((Keeps.foldl _ (keeps_scanString _) _ _).trans (keeps_scan _ _))

theorem keeps_startSearch (s : State) : Keeps s (startSearch s) := by
  unfold startSearch
  simp only
  split
  · exact ((carries_setRoles s _ _).trans ((carries_search _ _).trans (carries_endSearch _ _ _))).keeps
  · exact ((carries_setRoles s _ _).trans (carries_search _ _)).keeps

theorem keeps_endFound (s : State) (i : Str) : Keeps s (endFound s i) :=
  (keeps_latch s i _).trans (carries_endSearch _ _ _).keeps

theorem keeps_judgeValue (s : State) (v : Nat) : Keeps s (judgeValue s v) := by
  unfold judgeValue
  simp only
  split
  · exact .refl s
  · split
    · exact (carries_endSearch ..).keeps
    · exact (carries_beginStep ..).keeps
  · split
    · split
      · exact keeps_endFound ..
      · exact (carries_beginStep ..).keeps
    · exact (carries_beginStep ..).keeps
  · split
    · split
      · exact keeps_endFound ..
      · exact (carries_notConfirmed _).keeps
    · exact (carries_notConfirmed _).keeps
  · split
    · exact .refl s
    · split
      · exact ((keeps_latch s _ _).trans (carries_search _ _).keeps).trans (carries_nextTest _ _).keeps
      · exact (carries_nextTest _ _).keeps

theorem keeps_judgeCompletion (s : State) : Keeps s (judgeCompletion s) := by
  unfold judgeCompletion
  repeat' split
  · exact (carries_endSearch ..).keeps
  · exact .refl s
  · exact (carries_endSearch ..).keeps
  · exact (carries_search ..).keeps
  · exact .refl s
  · exact keeps_judgeValue ..
  · exact .refl s

theorem keeps_searchOnCompletion (s : State) : Keeps s (searchOnCompletion s) := by
  have h : Keeps s (recovered s) := by
    unfold recovered
    split
    · exact (carries_search ..).keeps
    · exact .refl s
  refine h.trans ?_
  unfold searchOnCompletion
  simp only
  split
  · have k : Keeps (recovered s) (updateTrigger (recovered s)) := (carries_search ..).keeps
    split
    · exact k.trans (keeps_startSearch _)
    · exact k
  · exact keeps_judgeCompletion _

theorem keeps_writeIso (s : State) (job : IsoJob) (k : Nat) (b : Bool) : Keeps s (writeIso s job k b) := by
  constructor <;> simp only [writeIso]

theorem keeps_startIso (s : State) : Keeps s (startIso s) := by
  constructor <;> simp only [startIso]

theorem keeps_inputs (s : State) (x : Inputs) : Keeps s { s with inputs := x } := ⟨rfl, rfl, rfl, rfl, rfl, rfl⟩

theorem keeps_endPulse (s : State) (i : Str) (a : Act) : Keeps s (endPulse s i a) := by
  unfold endPulse
  simp only
  split
  · exact keeps_actuate ..
  · exact keeps_actuate ..

theorem keeps_pulse (s : State) (i : Str) (a : Act) : Keeps s (pulse s i a) := keeps_actuate ..

theorem keeps_feedbackSeen (s : State) (i : Str) (a : Act) : Keeps s (feedbackSeen s i a) := by
  unfold feedbackSeen
  simp only
  repeat' split
  · exact keeps_actuate ..
  · exact keeps_setSeq ..
  · exact .refl s

theorem keeps_retryWait (s : State) (i : Str) (a : Act) : Keeps s (retryWait s i a) := keeps_setSeq ..

theorem keeps_latchSnapshot (s : State) : Keeps s (latchSnapshot s) := by
  unfold latchSnapshot
  split
  · exact ⟨rfl, rfl, rfl, rfl, rfl, rfl⟩
  · exact .refl s

end Sys2Proof.Machine
end

