-- ==== Sys2Proof/Laws/Bus.lean ====
section
/-! SUPPORT. What a command of a bus row can do: a relation that every byte and every release keeps is kept by the whole command. -/

namespace Sys2Proof.Machine

/-- A reflexive and transitive relation that the bytes, the release and the unforwarded bus keep holds across a bus command. -/
theorem busCommand_rel {R : State → State → Prop} (refl : ∀ s, R s s) (trans : ∀ {a b c}, R a b → R b c → R a c)
    {mine : Option CmdClass → Bool} {byte : State → Xfer → State} {finally_ : State → Txn → Release → State}
    (unforw : ∀ s xs rel, s.txn = none → R s (unforwarded s xs rel))
    (bytes : ∀ s x, R s (byte s x))
    (ends : ∀ s t r, s.txn = some t → R s (finally_ s t r))
    (s : State) (xs : List Xfer) (rel : Option Release) : R s (busCommand s mine xs rel byte finally_) := by
  have hfold : ∀ (xs : List Xfer) (s : State), R s (xs.foldl byte s) := by
    intro xs
    induction xs with
    | nil => exact refl
    | cons x xs ih => exact fun s => trans (bytes s x) (ih _)
  unfold busCommand
  split
  · next h =>
    split
    · exact unforw s xs rel h
    · exact refl s
  · split
    · simp only
      split
      · next r t' h => exact trans (hfold xs s) (ends _ _ _ h)
      · exact hfold xs s
    · exact refl s

/-- A property that the bytes, the release and the unforwarded bus keep is kept by a bus command. -/
theorem busCommand_inv {I : State → Prop} {mine : Option CmdClass → Bool} {byte : State → Xfer → State}
    {finally_ : State → Txn → Release → State}
    (unforw : ∀ s xs rel, s.txn = none → I s → I (unforwarded s xs rel))
    (bytes : ∀ s x, I s → I (byte s x))
    (ends : ∀ s t r, s.txn = some t → I s → I (finally_ s t r))
    {s : State} (xs : List Xfer) (rel : Option Release) (h : I s) : I (busCommand s mine xs rel byte finally_) := by
  have hfold : ∀ (xs : List Xfer) (s : State), I s → I (xs.foldl byte s) := by
    intro xs
    induction xs with
    | nil => exact fun _ h => h
    | cons x xs ih => exact fun s h => ih _ (bytes s x h)
  unfold busCommand
  split
  · next ht =>
    split
    · exact unforw s xs rel ht h
    · exact h
  · split
    · simp only
      split
      · next r t' ht => exact ends _ _ _ ht (hfold xs s h)
      · exact hfold xs s h
    · exact h

/-- A bus command of its own class in a transaction: the bytes one by one, and then the release. -/
theorem busCommand_mine {mine : Option CmdClass → Bool} {byte : State → Xfer → State}
    {finally_ : State → Txn → Release → State} {s : State} {t : Txn} (h : s.txn = some t) (hm : mine t.cls = true)
    (xs : List Xfer) (rel : Option Release) :
    busCommand s mine xs rel byte finally_ =
      match rel, (xs.foldl byte s).txn with
      | some r, some t' => finally_ (xs.foldl byte s) t' r
      | _, _ => xs.foldl byte s := by
  simp only [busCommand, h, hm, if_true]
  all_goals rfl

/-- A bus command while the controller's chip select is asserted and nothing is forwarded. -/
theorem busCommand_unforwarded {mine : Option CmdClass → Bool} {byte : State → Xfer → State}
    {finally_ : State → Txn → Release → State} {s : State} (h : s.txn = none) (hc : s.ports.ctlSelected = true)
    (xs : List Xfer) (rel : Option Release) :
    busCommand s mine xs rel byte finally_ = unforwarded s xs rel := by
  simp only [busCommand, h, hc, if_true]

/-- In reset a byte of a bus that is not forwarded is 0xFF (R105). -/
theorem unforwardedByte_reset {s : State} (h : s.inReset = true) (ht : s.ports.returnedTail = none) (k : Nat) :
    unforwardedByte s k = 0xFF := by
  simp [unforwardedByte, h, ht, spliceTail]

/-- In reset the byte that an earlier reset cut keeps the bits read before it, and the others are high (R105). -/
theorem unforwardedByte_cut {s : State} {r : Release} (h : s.inReset = true) (ht : s.ports.returnedTail = some r) {k : Nat}
    (hk : k < 8) : (unforwardedByte s 0).getLsbD k = (decide (k < 8 - r.bits.val) || r.x.miso.getLsbD k) := by
  have e : (0xFF : Byte) = BitVec.allOnes 8 := by decide
  have hb := r.bits.isLt
  simp only [unforwardedByte, spliceTail, h, ht, if_true, e, BitVec.getLsbD_or, BitVec.getLsbD_and, BitVec.getLsbD_not,
    BitVec.getLsbD_ushiftRight, BitVec.getLsbD_allOnes, hk, decide_true, Bool.true_and,
    show ((↑r.bits : Nat) + k < 8) ↔ (k < 8 - r.bits.val) by omega]
  by_cases h1 : k < 8 - r.bits.val <;> simp [h1]

/-! ## The window -/

/-- What `latchNext` can do: only the latch of the record that holds the window byte at the running address changes, and only unfilled. -/
theorem latchNext_spec (s : State) (t : Txn) :
    ∃ w : Vector Latch 25, latchNext s t = { s with window := w } ∧ ∀ l : Fin 25,
      w[l] = if kindAt s t t.addr = .window ∧ latchOf (t.addr % 4096) = some l ∧ s.window[l].filled = false then
        ⟨true, recordOf s l⟩ else s.window[l] := by
  unfold latchNext latchAt
  split
  · rename_i hw
    split
    · rename_i h
      exact ⟨s.window, rfl, fun l => by simp [h]⟩
    · rename_i l₀ h
      unfold fillLatch
      split
      · rename_i hf
        refine ⟨s.window, rfl, fun l => ?_⟩
        by_cases e : l₀ = l
        · subst e
          exact (if_neg fun x => absurd (hf.symm.trans x.2.2) (by simp)).symm
        · simp [h, e]
      · rename_i hf
        refine ⟨_, rfl, fun l => ?_⟩
        by_cases e : l₀ = l
        · subst e
          rw [if_pos ⟨hw, h, eq_false_of_ne_true hf⟩]
          exact Vector.getElem_set_self _
        · have e' : l₀.val ≠ l.val := fun x => e (Fin.ext x)
          simp [h, e, e']
  · exact ⟨s.window, rfl, fun l => by simp_all⟩

end Sys2Proof.Machine
end

