-- ==== Sys2Proof/Laws/Causes.lean ====
section
/-! SUPPORT. Cause sets, bit by bit, and what the evaluation of one cause leaves of the others. -/

namespace Sys2Proof.Machine

@[simp] theorem CauseSet.has_add (x : CauseSet) (c d : Cause) :
    CauseSet.has (CauseSet.add x c) d = if d = c then true else CauseSet.has x d := by
  revert x
  cases c <;> cases d <;> decide +kernel

@[simp] theorem CauseSet.has_remove (x : CauseSet) (c d : Cause) :
    CauseSet.has (CauseSet.remove x c) d = if d = c then false else CauseSet.has x d := by
  revert x
  cases c <;> cases d <;> decide +kernel

@[simp] theorem CauseSet.has_put (x : CauseSet) (c d : Cause) (b : Bool) :
    CauseSet.has (CauseSet.put x c b) d = if d = c then b else CauseSet.has x d := by
  cases b
  · simp only [CauseSet.put, Bool.false_eq_true, if_false, CauseSet.has_remove]
  · simp only [CauseSet.put, if_true, CauseSet.has_add]

/-- Two values of a string's evidence agree on a cause. -/
structure SameCause (e e' : Evidence) (c : Cause) : Prop where
  present : CauseSet.has e'.present c = CauseSet.has e.present c
  noted   : CauseSet.has e'.noted c = CauseSet.has e.noted c
  latched : CauseSet.has e'.latched c = CauseSet.has e.latched c

/-- The counters of two values of a string's evidence agree. -/
structure SameCounts (e e' : Evidence) : Prop where
  rev  : e'.revCount = e.revCount
  ovc  : e'.ovcCount = e.ovcCount
  win  : e'.winScans = e.winScans ∧ e'.winDeviant = e.winDeviant
  dev  : e'.devWindows = e.devWindows

theorem judge_other (e : Evidence) {c d : Cause} (p : Bool) (h : d ≠ c) : SameCause e (e.judge c p) d := by
  constructor <;> cases p <;> simp [Evidence.judge, h]

theorem latch_other (e : Evidence) {c d : Cause} (h : d ≠ c) : SameCause e (e.latch c) d := by
  constructor <;> simp [Evidence.latch, h]

/-- The evaluation of a cause leaves every other cause alone. -/
theorem evaluate_other (e : Evidence) {c d : Cause} (present confirmed enable : Bool) (h : d ≠ c) :
    SameCause e (e.evaluate c present confirmed enable) d := by
  unfold Evidence.evaluate Evidence.confirm Evidence.judge Evidence.latch
  constructor <;> cases present <;> cases confirmed <;> cases enable <;> simp [h] <;> split <;> simp [h]

/-- The evaluation of a cause moves no counter. -/
theorem evaluate_counts (e : Evidence) (c : Cause) (present confirmed enable : Bool) :
    SameCounts e (e.evaluate c present confirmed enable) := by
  unfold Evidence.evaluate Evidence.confirm
  repeat' split
  all_goals exact ⟨rfl, rfl, ⟨rfl, rfl⟩, rfl⟩

/-- The present flag of an evaluated cause is the verdict. -/
theorem evaluate_present (e : Evidence) (c : Cause) (present confirmed enable : Bool) :
    CauseSet.has (e.evaluate c present confirmed enable).present c = present := by
  unfold Evidence.evaluate Evidence.confirm Evidence.judge Evidence.latch
  cases present <;> cases confirmed <;> cases enable <;> simp <;> split <;> simp

/-- A cause is latched after its evaluation if it was before, or is confirmed and trip-enabled (R43). -/
theorem evaluate_latched (e : Evidence) (c : Cause) (present confirmed enable : Bool) :
    CauseSet.has (e.evaluate c present confirmed enable).latched c
      = (CauseSet.has e.latched c || (present && confirmed && enable)) := by
  unfold Evidence.evaluate Evidence.confirm Evidence.judge Evidence.latch
  cases h : CauseSet.has e.latched c <;> cases present <;> cases confirmed <;> cases enable <;> simp [h]

end Sys2Proof.Machine
end

