-- ==== Sys2Proof/Laws/Finish.lean ====
section
/-! SUPPORT. What holds after the end of every event: the table, the pins and the sequences under way. -/

namespace Sys2Proof.Machine

/-! ## The table -/

theorem reconcile_table (s : State) : (reconcile s).table = s.table := by
  unfold reconcile
  simp only
  split <;> rfl

theorem giveGrant_table (s : State) (i : Str) (c : Coil) : (giveGrant s i c).table = s.table := rfl

theorem applyPendingK_table (s : State) : (applyPendingK s).table = s.table := by
  unfold applyPendingK
  split
  · split <;> rfl
  · rfl

theorem request_table (s : State) (i : Str) : (request s i).table = s.table := by
  unfold request
  repeat' split
  all_goals rfl

theorem requestAll_table (s : State) : (requestAll s).table = s.table := by
  unfold requestAll
  induction allStrings generalizing s with
  | nil => rfl
  | cons i is ih => exact (ih _).trans (request_table s i)

theorem grantHeads_table (n : Nat) (s : State) : (grantHeads n s).table = s.table := by
  induction n generalizing s with
  | zero => rfl
  | succ n ih =>
    unfold grantHeads
    repeat' split
    · rfl
    · exact ih _
    · rfl

theorem arbitrate_table (s : State) : (arbitrate s).table = s.table := by
  unfold arbitrate
  simp only [grantHeads_table, requestAll_table, applyPendingK_table]
  rfl

theorem carryOut_table (s : State) : (carryOut s).table = (recompute s).table := by
  unfold carryOut
  rw [arbitrate_table, reconcile_table]

theorem isPresent_congr {s t : State} (h : t.cfg = s.cfg) (i : Str) : isPresent t i = isPresent s i := by
  simp only [isPresent, h]

/-- What a target is computed from. -/
theorem targetOf_congr {s t : State} (i : Str) (he : t.evid = s.evid) (hi : t.inputs = s.inputs)
    (hr : t.table[i].recorded = s.table[i].recorded) (ho : t.table[i].role = s.table[i].role)
    (hj : t.journal.everAdopted = s.journal.everAdopted) : targetOf t i = targetOf s i := by
  unfold targetOf ownIsolated
  rw [he, hi, hr, ho, hj]

/-- What a coherence is computed from. -/
theorem coherenceOf_congr {s t : State} (i : Str) (he : t.evid = s.evid)
    (hr : t.table[i].recorded = s.table[i].recorded) (hp : t.journal.prog = s.journal.prog) :
    coherenceOf t i = coherenceOf s i := by
  unfold coherenceOf pendingHolds
  rw [he, hr, hp]

/-- R8, R11: targets and coherence stand as their claims give them. -/
theorem carryOut_agrees (s : State) : TableAgrees (carryOut s) := by
  intro i hi
  have hc := carries_carryOut s
  rw [isPresent_congr hc.cfg] at hi
  have hx : (carryOut s).table[i] = { s.table[i] with target := targetOf s i, coherence := coherenceOf s i } := by
    rw [carryOut_table]
    simp only [recompute, mapAll_get, hi, if_true]
  constructor
  · rw [hx]
    exact (targetOf_congr i hc.evid hc.inputs (by rw [hx]) (by rw [hx]) (by rw [hc.journal])).symm
  · rw [hx]
    exact (coherenceOf_congr i hc.evid (by rw [hx]) (by rw [hc.journal])).symm

theorem refreshPins_agrees {s : State} (h : TableAgrees s) : TableAgrees (refreshPins s) := fun i hi => h i hi

theorem refreshPins_pins (s : State) : PinsAgree (refreshPins s) := rfl

/-- R8, R11 at the end of every event. -/
theorem finish_agrees (s₀ s₁ : State) : TableAgrees (finish s₀ s₁) := by
  unfold finish
  exact refreshPins_agrees (carryOut_agrees _)

/-- R80, R166 at the end of every event. -/
theorem finish_pins (s₀ s₁ : State) : PinsAgree (finish s₀ s₁) := by
  unfold finish
  exact refreshPins_pins _

end Sys2Proof.Machine
end

