-- ==== Sys2Proof/Laws/Journal.lean ====
section
/-! SUPPORT. What the shared operations of the journal tracker do, entry by entry: ranges of slots and marks, the ends of an erase, the
attempt at an adoption, and the bytes that a read shows. -/

namespace Sys2Proof.Machine

/-! ## Ranges of lists -/

theorem length_setRange {α : Type} (lo n : Nat) (x : α) (xs : List α) : (setRange lo n x xs).length = xs.length := by
  induction xs generalizing lo n with
  | nil => rfl
  | cons y ys ih =>
    cases n with
    | zero => simp [setRange]
    | succ n => cases lo <;> simp [setRange, ih]

/-- A run of entries takes one value, and every other entry stands. -/
theorem getElem?_setRange {α : Type} (lo n : Nat) (x : α) (xs : List α) (k : Nat) :
    (setRange lo n x xs)[k]? = if lo ≤ k ∧ k < lo + n ∧ k < xs.length then some x else xs[k]? := by
  induction xs generalizing lo n k with
  | nil => simp [setRange]
  | cons y ys ih =>
    cases n with
    | zero => simp [setRange]; omega
    | succ n =>
      cases lo with
      | zero =>
        cases k with
        | zero => simp [setRange]
        | succ k =>
          simp only [setRange, List.getElem?_cons_succ, ih, List.length_cons]
          congr 1
          simp
      | succ lo =>
        cases k with
        | zero => simp [setRange]
        | succ k =>
          simp only [setRange, List.getElem?_cons_succ, ih, List.length_cons]
          congr 1
          simp
          omega

theorem length_setMany {α : Type} (lo : Nat) (ys xs : List α) : (setMany lo ys xs).length = xs.length := by
  induction xs generalizing lo ys with
  | nil => rfl
  | cons x xs ih =>
    cases ys with
    | nil => simp [setMany]
    | cons y ys => cases lo <;> simp [setMany, ih]

/-- Consecutive entries take given values, and every other entry stands. -/
theorem getElem?_setMany {α : Type} (lo : Nat) (ys xs : List α) (k : Nat) :
    (setMany lo ys xs)[k]? = if lo ≤ k ∧ k < lo + ys.length ∧ k < xs.length then ys[k - lo]? else xs[k]? := by
  induction xs generalizing lo ys k with
  | nil => simp [setMany]
  | cons x xs ih =>
    cases ys with
    | nil =>
      simp only [setMany, List.length_nil, Nat.add_zero]
      rw [if_neg (by omega)]
    | cons y ys =>
      cases lo with
      | zero =>
        cases k with
        | zero => simp [setMany]
        | succ k =>
          simp only [setMany, List.getElem?_cons_succ, ih, List.length_cons, Nat.sub_zero, Nat.zero_add, Nat.add_lt_add_iff_right,
            Nat.zero_le, true_and]
      | succ lo =>
        cases k with
        | zero => simp [setMany]
        | succ k =>
          simp only [setMany, List.getElem?_cons_succ, ih, List.length_cons, Nat.add_lt_add_iff_right, Nat.add_le_add_iff_right,
            Nat.reduceSubDiff, Nat.add_right_comm lo 1]

/-- `allSome` answers the entries exactly if none is missing. -/
theorem allSome_eq_some {α : Type} (xs : List (Option α)) (ys : List α) : allSome xs = some ys ↔ xs = ys.map some := by
  induction xs generalizing ys with
  | nil => cases ys <;> simp [allSome]
  | cons x xs ih =>
    cases x with
    | none => cases ys <;> simp [allSome]
    | some x =>
      cases ys with
      | nil => simp [allSome]
      | cons y ys => simp [allSome, ih, and_comm]

/-! ## Sectors -/

/-- A slot lies in the sector that its index divided by 512 names. -/
theorem slot_in_sector (j k : Nat) : (512 * j ≤ k ∧ k < 512 * j + 512) ↔ k / 512 = j := by omega

theorem page_in_sector (j p : Nat) : (16 * j ≤ p ∧ p < 16 * j + 16) ↔ p / 16 = j := by omega

/-- A sector's slots all take one value. -/
theorem fillSector_slots (s : State) (j : Nat) (x : Summary) (k : Nat) :
    (s.fillSector j x).journal.slots[k]? = if k / 512 = j ∧ k < s.journal.slots.length then some x else s.journal.slots[k]? := by
  rw [State.fillSector, State.setJournal, getElem?_setRange]
  exact if_congr (by rw [← and_assoc, slot_in_sector]) rfl rfl

/-- The marks of a sector's pages all take one value. -/
theorem coverSector_coverage (s : State) (j : Nat) (b : Bool) (p : Nat) :
    (s.coverSector j b).capture.coverage[p]? =
      if p / 16 = j ∧ p < s.capture.coverage.length then some b else s.capture.coverage[p]? := by
  rw [State.coverSector, getElem?_setRange]
  exact if_congr (by rw [← and_assoc, page_in_sector]) rfl rfl

/-- The sector table and the slots of an erase that has ended without confirmation (R150, R153, R154). -/
theorem failErase_eq (s : State) (c : EraseCommit) (r : CommitResult) (h : s.journal.erase = some c) :
    failErase s r = { s with
      journal := { s.journal with
        erase := none
        sectors := match c.sector with
          | some j => if c.recovery then s.journal.sectors else s.journal.sectors.set j ⟨.unknown, 0⟩
          | none => s.journal.sectors
        slots := match c.sector with
          | some j => if c.recovery then s.journal.slots else setRange (512 * j) 512 .unseen s.journal.slots
          | none => s.journal.slots
        outcome := ⟨.erase, r, c.base⟩ } } := by
  obtain ⟨kind, base, size, sector, recovery, timer⟩ := c
  simp only [failErase, h]
  cases sector with
  | none => rfl
  | some j => cases recovery <;> rfl

/-! ## What a read shows -/

/-- The bytes of a run of addresses are those that the read shows at each of them. -/
theorem bytes_eq_some (r : ReadStream) (a n : Nat) (bs : List Byte) :
    r.bytes a n = some bs ↔ bs.length = n ∧ ∀ k < n, r.byteAt (a + k) = bs[k]? := by
  rw [ReadStream.bytes, allSome_eq_some]
  constructor
  · intro h
    have hl : bs.length = n := by simpa [upTo] using (congrArg List.length h).symm
    refine ⟨hl, fun k hk => ?_⟩
    have := congrArg (·[k]?) h
    simpa [upTo, hk, hl] using this
  · rintro ⟨hl, h⟩
    apply List.ext_getElem?
    intro k
    by_cases hk : k < n
    · simp [upTo, hk, h k hk, hl]
    · simp [upTo, hk, hl]

/-- A slot is judged exactly if the read shows its eight bytes. -/
theorem readSlot_eq_some (s : State) (r : ReadStream) (k : Nat) (x : Summary) :
    readSlot s r k = some x ↔ ∃ bs, r.bytes (slotAddr s k) 8 = some bs ∧ judgeSlot bs = x := by
  rw [readSlot, Option.map_eq_some_iff]

end Sys2Proof.Machine
end

