-- ==== Sys2Proof/Laws/Rest.lean ====
section
/-! SUPPORT. What the end of an event leaves alone in one sequencer: a sequencer that waits for no grant is moved by its target only. -/

namespace Sys2Proof.Machine

/-- String `i` has the sequencer `q` and no queue entry. -/
structure Rests (i : Str) (q : Seq) (s : State) : Prop where
  seq   : s.seqs[i] = q
  queue : ∀ e ∈ s.arb.queue, e.str ≠ i

theorem rests_withdraw {s : State} {i : Str} {q : Seq} (h : s.seqs[i] = q) (hw : q.waitsFor = none) : Rests i q (withdraw s) := by
  refine ⟨h, fun e he hi => ?_⟩
  have hk := (List.mem_filter.mp he).2
  rw [beq_iff_eq] at hk
  subst hi
  rw [h, hw] at hk
  exact absurd hk (by simp)

theorem Rests.applyPendingK {s : State} {i : Str} {q : Seq} (h : Rests i q s) : Rests i q (applyPendingK s) := by
  unfold Machine.applyPendingK
  split
  · split
    · exact ⟨h.seq, h.queue⟩
    · exact h
  · exact h

theorem setSeq_other (s : State) {i j : Str} (h : j ≠ i) (q : Seq) : (s.setSeq j q).seqs[i] = s.seqs[i] := by
  have : j.val ≠ i.val := fun e => h (Fin.ext e)
  simp [State.setSeq, Vector.getElem_set_ne _ _ this]

theorem setSeq_self (s : State) (i : Str) (q : Seq) : (s.setSeq i q).seqs[i] = q := by
  simp [State.setSeq]

theorem Rests.giveGrant {s : State} {i j : Str} {q : Seq} {c : Coil} (h : Rests i q s) (hj : j ≠ i) : Rests i q (giveGrant s j c) :=
  ⟨(setSeq_other s hj _).trans h.seq, h.queue⟩

theorem mem_enqueue {queue : List QEntry} {e x : QEntry} (h : x ∈ enqueue queue e) : x = e ∨ x ∈ queue := by
  unfold enqueue at h
  split at h <;> simp only [List.mem_append, List.mem_singleton, List.mem_filter] at h <;> tauto

theorem Rests.request {s : State} {i : Str} {q : Seq} (h : Rests i q s) (hw : q.waitsFor = none) (j : Str) :
    Rests i q (request s j) := by
  unfold Machine.request
  split
  · exact h
  · next c hc =>
    have hj : j ≠ i := by
      rintro rfl
      rw [h.seq, hw] at hc
      exact absurd hc (by simp)
    split
    · split
      · exact h.giveGrant hj
      · refine ⟨h.seq, fun e he => ?_⟩
        rcases mem_enqueue he with rfl | he
        · exact hj
        · exact h.queue e he
    · exact h

theorem Rests.requestAll {s : State} {i : Str} {q : Seq} (h : Rests i q s) (hw : q.waitsFor = none) : Rests i q (requestAll s) := by
  unfold Machine.requestAll
  induction allStrings generalizing s with
  | nil => exact h
  | cons j js ih => exact ih (h.request hw j)

theorem Rests.grantHeads {i : Str} {q : Seq} (n : Nat) {s : State} (h : Rests i q s) : Rests i q (grantHeads n s) := by
  induction n generalizing s with
  | zero => exact h
  | succ n ih =>
    unfold Machine.grantHeads
    split
    · exact h
    · next e rest hq =>
      split
      · refine ih ?_
        refine Rests.giveGrant (s := { s with arb := { s.arb with queue := rest } }) ⟨h.seq, fun x hx => ?_⟩ ?_
        · exact h.queue x (by rw [hq]; exact List.mem_cons_of_mem _ hx)
        · exact h.queue e (by rw [hq]; exact List.mem_cons_self)
      · exact h

/-- The arbiter leaves a string alone that waits for no grant. -/
theorem arbitrate_rest {s : State} {i : Str} {q : Seq} (h : s.seqs[i] = q) (hw : q.waitsFor = none) :
    (arbitrate s).seqs[i] = q := by
  unfold arbitrate
  exact (((rests_withdraw h hw).applyPendingK.requestAll hw).grantHeads _).seq

theorem reconcile_seq (s : State) (i : Str) :
    (reconcile s).seqs[i] = if isPresent s i then s.seqs[i].takeTarget s.table[i].target s.now else s.seqs[i] := by
  have : (mapAll (fun i q => if isPresent s i then q.takeTarget s.table[i].target s.now else q) s.seqs)[i]
      = if isPresent s i then s.seqs[i].takeTarget s.table[i].target s.now else s.seqs[i] := mapAll_get _ _ i
  unfold reconcile
  simp only
  split <;> exact this

theorem recompute_target (s : State) (i : Str) (h : isPresent s i = true) : (recompute s).table[i].target = targetOf s i := by
  have : (recompute s).table[i] = _ := mapAll_get _ s.table i
  rw [this, if_pos h]

theorem recompute_seqs (s : State) : (recompute s).seqs = s.seqs := by
  simp only [recompute]

theorem recompute_now (s : State) : (recompute s).now = s.now := by
  simp only [recompute]

theorem isPresent_recompute (s : State) (i : Str) : isPresent (recompute s) i = isPresent s i := by
  unfold isPresent
  congr 1

/-- The sequencers and the arbiter leave a string alone that waits for no grant and takes its target without a change. -/
theorem carryOut_rest {s : State} {i : Str} {q : Seq} (h : s.seqs[i] = q) (hw : q.waitsFor = none)
    (ht : isPresent s i = true → q.takeTarget (targetOf s i) s.now = q) : (carryOut s).seqs[i] = q := by
  have hr : (recompute s).seqs[i] = q := by rw [← h]; simp only [recompute_seqs]
  have hc : (reconcile (recompute s)).seqs[i] = q := by
    rw [reconcile_seq, hr, isPresent_recompute, recompute_now]
    by_cases hp : isPresent s i = true
    · rw [if_pos hp, recompute_target s i hp]
      exact ht hp
    · rw [if_neg hp]
  unfold carryOut
  exact arbitrate_rest hc hw

theorem setRoles_seqs (s : State) (a b : List Str) : (setRoles s a b).seqs = s.seqs := by
  simp only [setRoles]

theorem endSearch_seqs (s : State) (r : SearchResult) (f : Option Str) : (endSearch s r f).seqs = s.seqs := by
  simp only [endSearch, setRoles]

theorem searchUpdate_seqs (s : State) (x : Search) : ({ s with search := x } : State).seqs = s.seqs := rfl

theorem nextTest_seqs (s : State) (u : List Str) : (nextTest s u).seqs = s.seqs := by
  unfold nextTest
  split
  · split
    · exact endSearch_seqs ..
    · exact endSearch_seqs ..
  · exact (searchUpdate_seqs _ _).trans (setRoles_seqs ..)

theorem enterSweep_seqs (s : State) : (enterSweep s).seqs = s.seqs := by
  unfold enterSweep
  simp only
  split
  · exact endSearch_seqs ..
  · exact (searchUpdate_seqs _ _).trans (setRoles_seqs ..)

theorem notConfirmed_seqs (s : State) : (notConfirmed s).seqs = s.seqs := by
  unfold notConfirmed
  split
  · exact enterSweep_seqs s
  · exact endSearch_seqs ..

theorem beginStep_seqs (s : State) (l : List Str) : (beginStep s l).seqs = s.seqs := by
  unfold beginStep
  split
  · exact (notConfirmed_seqs _).trans (searchUpdate_seqs _ _)
  · exact (searchUpdate_seqs _ _).trans (setRoles_seqs ..)
  · exact (searchUpdate_seqs _ _).trans (setRoles_seqs ..)

theorem tableUpdate_seqs (s : State) (x : Vector Entry 24) : ({ s with table := x } : State).seqs = s.seqs := rfl

theorem takeOvertaken_seqs (s : State) (g : List Str) : (takeOvertaken s g).seqs = s.seqs := by
  unfold takeOvertaken
  simp only
  repeat' split
  all_goals simp only [beginStep_seqs, notConfirmed_seqs, nextTest_seqs, endSearch_seqs]

theorem searchReact_seqs (s₀ s₁ : State) : (searchReact s₀ s₁).seqs = s₁.seqs := by
  unfold searchReact
  simp only
  split
  · rfl
  · split
    · exact endSearch_seqs ..
    · split
      · exact endSearch_seqs ..
      · split
        · exact endSearch_seqs ..
        · split
          · rfl
          · exact takeOvertaken_seqs ..

theorem judgeSwitchWait_seqs (s : State) : (judgeSwitchWait s).seqs = s.seqs := by
  unfold judgeSwitchWait
  split
  · split
    · split <;> exact searchUpdate_seqs ..
    · exact nextTest_seqs ..
    · rfl
    · rfl
    · rfl
  · rfl

theorem refreshPins_seqs (s : State) : (refreshPins s).seqs = s.seqs := rfl

/-- The end of an event leaves a string alone whose sequencer waits for no grant and takes no target (OPENING, FAILED, CLOSING after
its settle, UNFOUND). -/
theorem finish_rest (s₀ : State) {s₁ : State} {i : Str} {q : Seq} (h : s₁.seqs[i] = q) (hw : q.waitsFor = none)
    (ht : ∀ t now, q.takeTarget t now = q) : (finish s₀ s₁).seqs[i] = q := by
  have a : (carryOut (searchReact s₀ s₁)).seqs[i] = q :=
    carryOut_rest (by rw [searchReact_seqs]; exact h) hw fun _ => ht _ _
  have b : (carryOut (judgeSwitchWait (carryOut (searchReact s₀ s₁)))).seqs[i] = q :=
    carryOut_rest (by rw [judgeSwitchWait_seqs]; exact a) hw fun _ => ht _ _
  unfold finish
  rw [refreshPins_seqs]
  exact b

end Sys2Proof.Machine
end

