-- ==== Sys2Proof/Laws/Targets.lean ====
section
/-! SUPPORT. What the end of an event does to the sequencers: each takes the target that stands, the arbiter starts the sequence of some
that wait, and it leaves no slot free for one that waits. -/

namespace Sys2Proof.Machine

/-! ## One sequencer -/

theorem takeTarget_hasTaken (q : Seq) (t : Target) (now : Nat) : (q.takeTarget t now).HasTaken t := by
  rcases q with ⟨x, act, _, _, _, _, _, _, _⟩
  cases t <;> cases x <;> refine ⟨?_, ?_, ?_⟩ <;> simp [Seq.takeTarget, Seq.enter]
  all_goals (cases act <;> simp)
  all_goals split <;> simp_all [Seq.cancelSettle]

theorem takeTarget_of_hasTaken {q : Seq} {t : Target} (h : q.HasTaken t) (now : Nat) : q.takeTarget t now = q := by
  rcases q with ⟨x, act, _, _, _, _, _, _, _⟩
  obtain ⟨hc, hi, hs⟩ := h
  cases t <;> cases x <;> simp_all [Seq.takeTarget]
  cases act <;> simp_all

theorem start_hasTaken {q : Seq} {t : Target} {c : Coil} (hw : q.waitsFor = some c) (h : q.HasTaken t) (cfg : Config) (now : Nat) :
    (q.start c cfg now).HasTaken t := by
  rcases q with ⟨x, act, _, _, _, _, _, _, _⟩
  obtain ⟨hc, hi, hs⟩ := h
  cases t <;> cases x <;> simp [Seq.waitsFor] at hw <;> subst hw <;>
    refine ⟨?_, ?_, ?_⟩ <;> simp_all [Seq.start, Seq.enter, Coil.runState]

theorem start_start (q : Seq) (c : Coil) (cfg : Config) (now : Nat) : (q.start c cfg now).start c cfg now = q.start c cfg now := rfl

theorem start_waitsFor (q : Seq) (c : Coil) (cfg : Config) (now : Nat) : (q.start c cfg now).waitsFor = none := by
  cases c <;> rfl

/-! ## The arbiter -/

/-- A sequencer that the arbiter has left alone, or whose sequence it has started (R64, R69, R78). -/
def Seq.MayStart (q r : Seq) (cfg : Config) (now : Nat) : Prop := r = q ∨ ∃ c, q.waitsFor = some c ∧ r = q.start c cfg now

/-- What the arbiter's work on `s` has come to: some sequences started, and entries of strings that waited. -/
structure Arbitrated (s t : State) : Prop where
  cfg   : t.cfg = s.cfg
  now   : t.now = s.now
  seqs  : ∀ i : Str, s.seqs[i].MayStart t.seqs[i] s.cfg s.now
  queue : ∀ e ∈ t.arb.queue, s.seqs[e.str].waitsFor = some e.kind

theorem giveGrant_seq_self (s : State) (i : Str) (c : Coil) : (giveGrant s i c).seqs[i] = s.seqs[i].start c s.cfg s.now :=
  setSeq_self ..

theorem giveGrant_seq_other (s : State) {i j : Str} (h : i ≠ j) (c : Coil) : (giveGrant s i c).seqs[j] = s.seqs[j] := setSeq_other s h _

theorem Arbitrated.withdraw (s : State) : Arbitrated s (withdraw s) :=
  ⟨rfl, rfl, fun _ => .inl rfl, fun e he => by simpa using (List.mem_filter.mp he).2⟩

theorem Arbitrated.applyPendingK {s t : State} (h : Arbitrated s t) : Arbitrated s (applyPendingK t) := by
  unfold Machine.applyPendingK
  split
  · split
    · exact ⟨h.cfg, h.now, h.seqs, h.queue⟩
    · exact h
  · exact h

theorem Arbitrated.giveGrant {s t : State} (h : Arbitrated s t) {i : Str} {c : Coil} (hw : s.seqs[i].waitsFor = some c) :
    Arbitrated s (giveGrant t i c) := by
  refine ⟨h.cfg, h.now, fun j => ?_, h.queue⟩
  by_cases hj : i = j
  · subst hj
    refine .inr ⟨c, hw, ?_⟩
    rw [giveGrant_seq_self, h.cfg, h.now]
    rcases h.seqs i with e | ⟨d, hd, e⟩
    · rw [e]
    · have : d = c := Option.some.inj (hd.symm.trans hw)
      rw [e, this, start_start]
  · rw [giveGrant_seq_other t hj]
    exact h.seqs j

theorem MayStart.waitsFor {q r : Seq} {cfg : Config} {now : Nat} {c : Coil} (h : q.MayStart r cfg now) (hw : r.waitsFor = some c) :
    r = q := by
  rcases h with e | ⟨d, _, e⟩
  · exact e
  · rw [e, start_waitsFor] at hw
    exact absurd hw (by simp)

theorem Arbitrated.request {s t : State} (h : Arbitrated s t) (i : Str) : Arbitrated s (request t i) := by
  unfold Machine.request
  split
  · exact h
  · next c hc =>
    have hw : s.seqs[i].waitsFor = some c := by rw [← MayStart.waitsFor (h.seqs i) hc]; exact hc
    split
    · split
      · exact h.giveGrant hw
      · refine ⟨h.cfg, h.now, h.seqs, fun e he => ?_⟩
        rcases mem_enqueue he with rfl | he
        · exact hw
        · exact h.queue e he
    · exact h

theorem Arbitrated.requestAll {s t : State} (h : Arbitrated s t) : Arbitrated s (requestAll t) := by
  unfold Machine.requestAll
  induction allStrings generalizing t with
  | nil => exact h
  | cons i is ih => exact ih (h.request i)

theorem Arbitrated.grantHeads {s : State} (n : Nat) {t : State} (h : Arbitrated s t) : Arbitrated s (grantHeads n t) := by
  induction n generalizing t with
  | zero => exact h
  | succ n ih =>
    unfold Machine.grantHeads
    split
    · exact h
    · next e rest hq =>
      split
      · have hr : Arbitrated s { t with arb := { t.arb with queue := rest } } :=
          ⟨h.cfg, h.now, h.seqs, fun x hx => h.queue x (by rw [hq]; exact List.mem_cons_of_mem _ hx)⟩
        exact ih (hr.giveGrant (h.queue e (by rw [hq]; exact List.mem_cons_self)))
      · exact h

theorem arbitrate_arbitrated (s : State) : Arbitrated s (arbitrate s) := by
  unfold arbitrate
  exact (Arbitrated.withdraw s).applyPendingK.requestAll.grantHeads _

/-! ## Grants in use -/

theorem grantsInUse_congr {s t : State} (h : ∀ i : Str, t.seqs[i].grant = s.seqs[i].grant) : grantsInUse t = grantsInUse s := by
  unfold grantsInUse
  congr 2
  funext i
  rw [h i]

/-- With a lower K pending no slot is free. -/
theorem slotFree_pending {s : State} {k : Nat} (h : s.arb.kPending = some k) : slotFree s = false := by
  simp [slotFree, h]

theorem request_pending (s : State) (i : Str) {k : Nat} (h : s.arb.kPending = some k) :
    (request s i).seqs = s.seqs ∧ (request s i).arb.kPending = some k := by
  unfold request
  rw [slotFree_pending h]
  repeat' split
  all_goals first | exact ⟨rfl, h⟩ | simp_all

theorem requestAll_pending (s : State) {k : Nat} (h : s.arb.kPending = some k) :
    (requestAll s).seqs = s.seqs ∧ (requestAll s).arb.kPending = some k := by
  unfold requestAll
  induction allStrings generalizing s with
  | nil => exact ⟨rfl, h⟩
  | cons i is ih =>
    obtain ⟨a, b⟩ := request_pending s i h
    obtain ⟨c, d⟩ := ih _ b
    exact ⟨c.trans a, d⟩

theorem grantHeads_pending (n : Nat) (s : State) {k : Nat} (h : s.arb.kPending = some k) : grantHeads n s = s := by
  cases n with
  | zero => rfl
  | succ n =>
    unfold grantHeads
    split
    · rfl
    · rw [slotFree_pending h]
      rfl

theorem request_kPending (s : State) (i : Str) : (request s i).arb.kPending = s.arb.kPending := by
  unfold request
  repeat' split
  all_goals rfl

theorem requestAll_kPending (s : State) : (requestAll s).arb.kPending = s.arb.kPending := by
  unfold requestAll
  induction allStrings generalizing s with
  | nil => rfl
  | cons i is ih => exact (ih _).trans (request_kPending s i)

theorem grantHeads_kPending (n : Nat) (s : State) : (grantHeads n s).arb.kPending = s.arb.kPending := by
  induction n generalizing s with
  | zero => rfl
  | succ n ih =>
    unfold grantHeads
    repeat' split
    · rfl
    · exact ih _
    · rfl

theorem arbitrate_kPending (s : State) : (arbitrate s).arb.kPending = (applyPendingK (withdraw s)).arb.kPending := by
  unfold arbitrate
  simp only [grantHeads_kPending, requestAll_kPending]

theorem withdraw_seqs (s : State) : (withdraw s).seqs = s.seqs := rfl

/-- R79: a lower K stays pending only while more grants are in use. -/
theorem applyPendingK_pending {s : State} {k : Nat} (h : (applyPendingK s).arb.kPending = some k) :
    applyPendingK s = s ∧ s.arb.kPending = some k ∧ k < grantsInUse s := by
  unfold applyPendingK at h ⊢
  split at h
  · next j hj =>
    split at h
    · exact absurd h (by simp)
    · next hk =>
      have : j = k := Option.some.inj (hj.symm.trans h)
      subst this
      rw [if_neg hk]
      exact ⟨rfl, hj, by omega⟩
  · next hn => exact absurd (hn.symm.trans h) (by simp)

/-- R79: no grant is given while a lower K is pending. -/
theorem arbitrate_pending {s : State} {k : Nat} (h : (arbitrate s).arb.kPending = some k) :
    (arbitrate s).seqs = s.seqs ∧ k < grantsInUse (arbitrate s) := by
  rw [arbitrate_kPending] at h
  obtain ⟨e, hp, hk⟩ := applyPendingK_pending h
  have hs : (arbitrate s).seqs = s.seqs := by
    unfold arbitrate
    rw [e]
    obtain ⟨a, b⟩ := requestAll_pending (withdraw s) hp
    rw [grantHeads_pending _ _ b]
    exact a.trans (withdraw_seqs s)
  refine ⟨hs, ?_⟩
  rw [grantsInUse_congr (s := s) fun i => by rw [hs]]
  rwa [grantsInUse_congr (s := s) fun i => by rw [withdraw_seqs]] at hk

/-- R77, R78: each freed slot goes to the head of the queue. -/
theorem grantHeads_ends (n : Nat) (s : State) (h : s.arb.queue.length ≤ n) :
    (grantHeads n s).arb.queue = [] ∨ slotFree (grantHeads n s) = false := by
  induction n generalizing s with
  | zero => exact .inl (List.length_eq_zero_iff.mp (Nat.le_zero.mp h))
  | succ n ih =>
    unfold grantHeads
    split
    · next hq => exact .inl hq
    · next e rest hq =>
      rw [hq] at h
      split
      · exact ih _ (Nat.le_of_succ_le_succ h)
      · next hs => exact .inr (by simpa using hs)

/-! ## Requests -/

/-- A string that waits for no grant, or has an entry, or defers its request (R78). -/
def Requested (i : Str) (s : State) : Prop :=
  s.seqs[i].waitsFor ≠ none → s.seqs[i].grant ≠ .none ∨ ∃ e ∈ s.arb.queue, e.str = i

theorem mem_enqueue_of_mem {queue : List QEntry} {e x : QEntry} (h : x ∈ queue) : x ∈ enqueue queue e := by
  unfold enqueue
  split
  · simp only [List.mem_append, List.mem_singleton, List.mem_filter]
    rcases x with ⟨y, _ | _⟩
    · exact .inl (.inl ⟨h, rfl⟩)
    · exact .inr ⟨h, rfl⟩
  · exact List.mem_append_left _ h

theorem mem_enqueue_self (queue : List QEntry) (e : QEntry) : e ∈ enqueue queue e := by
  unfold enqueue
  split <;> simp

theorem Requested.giveGrant {i : Str} {s : State} (h : Requested i s) (j : Str) (c : Coil) : Requested i (giveGrant s j c) := by
  intro hw
  by_cases hj : j = i
  · subst hj
    rw [giveGrant_seq_self, start_waitsFor] at hw
    exact absurd rfl hw
  · rw [giveGrant_seq_other s hj] at hw ⊢
    exact h hw

theorem request_self (s : State) (i : Str) (hp : isPresent s i = true) : Requested i (request s i) := by
  unfold request
  split
  · next hn => exact fun hw => absurd hn hw
  · next c hc =>
    split
    · split
      · intro hw
        rw [giveGrant_seq_self, start_waitsFor] at hw
        exact absurd rfl hw
      · exact fun _ => .inr ⟨⟨i, c⟩, mem_enqueue_self _ _, rfl⟩
    · next hno =>
      intro _
      rw [hp] at hno
      by_cases hg : s.seqs[i].grant = .none
      · right
        simpa only [hg, beq_self_eq_true, Bool.true_and, Bool.not_eq_true', Bool.not_eq_false, List.any_eq_true, beq_iff_eq] using hno
      · exact .inl hg

theorem Requested.request {i : Str} {s : State} (h : Requested i s) (j : Str) : Requested i (request s j) := by
  unfold Machine.request
  split
  · exact h
  · split
    · split
      · exact h.giveGrant j _
      · exact fun hw => (h hw).imp id fun ⟨e, he, hi⟩ => ⟨e, mem_enqueue_of_mem he, hi⟩
    · exact h

theorem Requested.requests {i : Str} (is : List Str) {s : State} (h : Requested i s) : Requested i (is.foldl Machine.request s) := by
  induction is generalizing s with
  | nil => exact h
  | cons j js ih => exact ih (h.request j)

theorem request_isPresent (s : State) (i j : Str) : isPresent (request s j) i = isPresent s i :=
  isPresent_congr (carries_request s j).cfg i

theorem requests_requested (i : Str) (is : List Str) (hi : i ∈ is) (s : State) (hp : isPresent s i = true) :
    Requested i (is.foldl request s) := by
  induction is generalizing s with
  | nil => exact absurd hi (by simp)
  | cons j js ih =>
    by_cases hj : i = j
    · subst hj
      exact (request_self s i hp).requests js
    · exact ih ((List.mem_cons.mp hi).resolve_left hj) _ ((request_isPresent s i j).trans hp)

theorem requestAll_requested (i : Str) (s : State) (hp : isPresent s i = true) : Requested i (requestAll s) := by
  unfold requestAll
  exact requests_requested i allStrings (List.mem_finRange i) s hp

theorem Requested.grantHeads {i : Str} (n : Nat) {s : State} (h : Requested i s) : Requested i (grantHeads n s) := by
  induction n generalizing s with
  | zero => exact h
  | succ n ih =>
    unfold Machine.grantHeads
    split
    · exact h
    · next e rest hq =>
      split
      · refine ih fun hw => ?_
        by_cases hj : e.str = i
        · subst hj
          rw [giveGrant_seq_self, start_waitsFor] at hw
          exact absurd rfl hw
        · rw [giveGrant_seq_other _ hj] at hw ⊢
          refine (h hw).imp id fun ⟨x, hx, hi⟩ => ?_
          rw [hq] at hx
          rcases List.mem_cons.mp hx with rfl | hx
          · exact absurd hi hj
          · exact ⟨x, hx, hi⟩
      · exact h

theorem arbitrate_ends (s : State) : (arbitrate s).arb.queue = [] ∨ slotFree (arbitrate s) = false := by
  unfold arbitrate
  simp only
  exact grantHeads_ends _ _ (Nat.le_refl _)

theorem arbitrate_requested {s : State} {i : Str} (hp : isPresent (applyPendingK (withdraw s)) i = true) : Requested i (arbitrate s) := by
  unfold arbitrate
  simp only
  exact (requestAll_requested i _ hp).grantHeads _

/-- R77 to R79: the arbiter leaves no work. -/
theorem arbitrate_rests (s : State) : ArbiterRests (arbitrate s) := by
  refine ⟨fun hk => ?_, fun k hk => (arbitrate_pending hk).2, fun i hp => ?_⟩
  · refine Or.imp id (fun h => ?_) (arbitrate_ends s)
    simpa [slotFree, hk] using h
  · have hp : isPresent (applyPendingK (withdraw s)) i = true := by
      rw [isPresent_congr (carries_arbitrate s).cfg] at hp
      rwa [isPresent_congr ((carries_withdraw s).trans (carries_applyPendingK _)).cfg]
    exact arbitrate_requested hp

/-! ## The end of an event -/

theorem carryOut_targetsTaken (s : State) : TargetsTaken (carryOut s) := by
  intro i hi
  rw [isPresent_congr (carries_carryOut s).cfg] at hi
  have ha := (arbitrate_arbitrated (reconcile (recompute s))).seqs i
  rw [reconcile_seq, isPresent_recompute, if_pos hi] at ha
  rw [carryOut_table]
  have hq := takeTarget_hasTaken (recompute s).seqs[i] (recompute s).table[i].target (recompute s).now
  unfold carryOut
  rcases ha with e | ⟨c, hw, e⟩
  · rw [e]
    exact hq
  · rw [e]
    exact start_hasTaken hw hq _ _

theorem targetsTaken_refreshPins {s : State} (h : TargetsTaken s) : TargetsTaken (refreshPins s) := h

theorem rests_refreshPins {s : State} (h : ArbiterRests s) : ArbiterRests (refreshPins s) := ⟨h.heads, h.pending, h.requests⟩

/-- R61, R62, R66, R70, R75 at the end of every event. -/
theorem finish_targetsTaken (s₀ s₁ : State) : TargetsTaken (finish s₀ s₁) := by
  unfold finish
  generalize judgeSwitchWait _ = t
  exact targetsTaken_refreshPins (carryOut_targetsTaken t)

/-- R77 to R79 at the end of every event. -/
theorem finish_rests (s₀ s₁ : State) : ArbiterRests (finish s₀ s₁) := by
  unfold finish
  generalize judgeSwitchWait _ = t
  unfold carryOut
  exact rests_refreshPins (arbitrate_rests _)

/-! ## Carrying out twice -/

/-- Every entry of the queue is of a string that waits for its kind, or that waits for none. -/
def EntriesFit (s : State) : Prop :=
  ∀ e ∈ s.arb.queue, s.seqs[e.str].waitsFor = some e.kind ∨ s.seqs[e.str].waitsFor = none

theorem arbitrate_entriesFit (s : State) : EntriesFit (arbitrate s) := by
  intro e he
  have ha := arbitrate_arbitrated s
  rcases ha.seqs e.str with h | ⟨c, _, h⟩
  · rw [h]
    exact .inl (ha.queue e he)
  · rw [h, start_waitsFor]
    exact .inr rfl

theorem request_rests {s : State} (h : ArbiterRests s) (he : EntriesFit s) (i : Str) : request (withdraw s) i = withdraw s := by
  unfold request
  rw [withdraw_seqs]
  split
  · rfl
  · next c hc =>
    refine if_neg fun hn => ?_
    simp only [Bool.and_eq_true, beq_iff_eq, Bool.not_eq_true', List.any_eq_false] at hn
    obtain ⟨⟨hp, hg⟩, hq⟩ := hn
    have hw : s.seqs[i].waitsFor ≠ none := by rw [hc]; simp
    obtain ⟨e, hm, rfl⟩ := (h.requests i hp hw).resolve_left (fun x => x hg)
    refine hq e (List.mem_filter.mpr ⟨hm, ?_⟩) rfl
    exact beq_iff_eq.mpr ((he e hm).resolve_right hw)

theorem requestAll_rests {s : State} (h : ArbiterRests s) (he : EntriesFit s) : requestAll (withdraw s) = withdraw s := by
  unfold requestAll
  induction allStrings with
  | nil => rfl
  | cons i is ih => rw [List.foldl_cons, request_rests h he i, ih]

theorem applyPendingK_rests {s : State} (h : ArbiterRests s) : applyPendingK (withdraw s) = withdraw s := by
  unfold applyPendingK
  split
  · next k hk =>
    refine if_neg (Nat.not_le.mpr ?_)
    rw [grantsInUse_congr (s := s) fun i => by rw [withdraw_seqs]]
    exact h.pending k hk
  · rfl

theorem grantHeads_rests (n : Nat) {s : State} (h : s.arb.queue = [] ∨ slotFree s = false) : grantHeads n s = s := by
  cases n with
  | zero => rfl
  | succ n =>
    unfold grantHeads
    split
    · rfl
    · next e rest hq =>
      rcases h with h | h
      · exact absurd (h.symm.trans hq) (by simp)
      · rw [h]
        rfl

/-- An arbiter that rests gives no grant. -/
theorem arbitrate_again {s : State} (h : ArbiterRests s) (he : EntriesFit s) : arbitrate s = withdraw s := by
  unfold arbitrate
  simp only [applyPendingK_rests h, requestAll_rests h he]
  apply grantHeads_rests
  cases hk : s.arb.kPending with
  | some k => exact .inr (slotFree_pending (s := withdraw s) hk)
  | none =>
    refine (h.heads hk).imp (fun hq => ?_) fun hg => ?_
    · simp [withdraw, hq]
    · unfold slotFree
      rw [grantsInUse_congr (s := s) fun i => by rw [withdraw_seqs]]
      simp [withdraw, Nat.not_lt.mpr hg]

theorem reconcile_arb (s : State) : (reconcile s).arb = s.arb := by
  unfold reconcile
  simp only
  split <;> rfl

theorem recompute_arb (s : State) : (recompute s).arb = s.arb := by
  simp only [recompute]

/-- A table that agrees, and sequencers that have taken its targets, are carried out already. -/
theorem reconcile_again {s : State} (ha : TableAgrees s) (ht : TargetsTaken s) (i : Str) :
    (reconcile (recompute s)).seqs[i] = s.seqs[i] := by
  rw [reconcile_seq, isPresent_recompute, recompute_now]
  have hs : (recompute s).seqs[i] = s.seqs[i] := by simp only [recompute_seqs]
  rw [hs]
  split
  · next hp =>
    rw [recompute_target s i hp, ← (ha i hp).1]
    exact takeTarget_of_hasTaken (ht i hp) _
  · rfl

theorem ArbiterRests.congr {s t : State} (h : ArbiterRests s) (hc : t.cfg = s.cfg) (ha : t.arb = s.arb)
    (hs : ∀ i : Str, t.seqs[i] = s.seqs[i]) : ArbiterRests t := by
  have hg : grantsInUse t = grantsInUse s := grantsInUse_congr fun i => by rw [hs i]
  refine ⟨fun hk => ?_, fun k hk => ?_, fun i hp hw => ?_⟩
  · rw [ha] at hk ⊢
    rw [hg]
    exact h.heads hk
  · rw [ha] at hk
    rw [hg]
    exact h.pending k hk
  · rw [isPresent_congr hc] at hp
    rw [hs i] at hw ⊢
    rw [ha]
    exact h.requests i hp hw

/-- What has been carried out is not carried out again: no sequencer moves. -/
theorem carryOut_again {s : State} (ha : TableAgrees s) (ht : TargetsTaken s) (hr : ArbiterRests s) (he : EntriesFit s) (i : Str) :
    (carryOut s).seqs[i] = s.seqs[i] := by
  have hs := fun j => reconcile_again ha ht j
  have hb : (reconcile (recompute s)).arb = s.arb := (reconcile_arb _).trans (recompute_arb s)
  have hc : (reconcile (recompute s)).cfg = s.cfg := ((carries_recompute s).trans (carries_reconcile _)).cfg
  have hf : EntriesFit (reconcile (recompute s)) := by
    intro e hm
    rw [hb] at hm
    rw [hs]
    exact he e hm
  unfold carryOut
  rw [arbitrate_again (hr.congr hc hb hs) hf, withdraw_seqs]
  exact hs i

/-! ## The hold stage -/

theorem giveGrant_search (s : State) (i : Str) (c : Coil) : (giveGrant s i c).search = s.search := rfl

theorem request_search (s : State) (i : Str) : (request s i).search = s.search := by
  unfold request
  repeat' split
  all_goals rfl

theorem requestAll_search (s : State) : (requestAll s).search = s.search := by
  unfold requestAll
  induction allStrings generalizing s with
  | nil => rfl
  | cons i is ih => exact (ih _).trans (request_search s i)

theorem grantHeads_search (n : Nat) (s : State) : (grantHeads n s).search = s.search := by
  induction n generalizing s with
  | zero => rfl
  | succ n ih =>
    unfold grantHeads
    repeat' split
    · rfl
    · exact ih _
    · rfl

theorem applyPendingK_search (s : State) : (applyPendingK s).search = s.search := by
  unfold applyPendingK
  split
  · split <;> rfl
  · rfl

theorem withdraw_search (s : State) : (withdraw s).search = s.search := rfl

theorem arbitrate_search (s : State) : (arbitrate s).search = s.search := by
  unfold arbitrate
  simp only [grantHeads_search, requestAll_search, applyPendingK_search, withdraw_search]

theorem reconcile_search (s : State) : (reconcile s).search = s.search := by
  unfold reconcile
  simp only
  split <;> rfl

theorem recompute_search (s : State) : (recompute s).search = s.search := by
  simp only [recompute]

/-- Carrying out targets moves no search. -/
theorem carryOut_search (s : State) : (carryOut s).search = s.search := by
  unfold carryOut
  rw [arbitrate_search, reconcile_search, recompute_search]

theorem carryOut_role (s : State) (i : Str) : (carryOut s).table[i].role = s.table[i].role := by
  rw [carryOut_table]
  simp only [recompute, mapAll_get]
  split <;> rfl

/-- What a switch wait is judged from. -/
theorem switchWaitHolds_congr {s t : State} (hc : t.cfg = s.cfg) (hr : ∀ i : Str, t.table[i].role = s.table[i].role)
    (hs : ∀ i : Str, t.seqs[i] = s.seqs[i]) : switchWaitHolds t = switchWaitHolds s := by
  unfold switchWaitHolds
  congr 1
  funext i
  rw [hr i, hs i, isPresent_congr hc i]

/-- R97: a string test leaves no hold stage. -/
theorem nextTest_stage (s : State) (untested : List Str) : (nextTest s untested).search.stage ≠ .hold := by
  unfold nextTest
  split
  · split <;> simp [endSearch]
  · simp

/-- R96: a hold stage that stands has been judged, and its switch wait does not hold. -/
theorem judgeSwitchWait_hold {s : State} (h : (judgeSwitchWait s).search.stage = .hold) :
    judgeSwitchWait s = s ∧ switchWaitHolds s = false := by
  unfold judgeSwitchWait at h ⊢
  cases hw : switchWaitHolds s with
  | false => exact ⟨rfl, rfl⟩
  | true =>
    rw [hw, if_pos rfl] at h
    split at h
    · split at h <;> simp at h
    · exact absurd h (nextTest_stage _ _)
    · next hs => exact absurd (hs.symm.trans h) (by simp)
    · next hs => exact absurd (hs.symm.trans h) (by simp)
    · next hs => exact absurd (hs.symm.trans h) (by simp)

theorem holdWaits_refreshPins {s : State} (h : HoldWaits s) : HoldWaits (refreshPins s) := h

theorem carryOut_entriesFit (s : State) : EntriesFit (carryOut s) := by
  unfold carryOut
  exact arbitrate_entriesFit _

theorem carryOut_rests (s : State) : ArbiterRests (carryOut s) := by
  unfold carryOut
  exact arbitrate_rests _

/-- R88, R96 at the end of every event. -/
theorem finish_holdWaits (s₀ s₁ : State) : HoldWaits (finish s₀ s₁) := by
  unfold finish
  generalize searchReact s₀ s₁ = s
  refine holdWaits_refreshPins fun h => ?_
  rw [carryOut_search] at h
  obtain ⟨e, hw⟩ := judgeSwitchWait_hold h
  rw [e]
  rw [switchWaitHolds_congr (s := carryOut s) (carries_carryOut _).cfg (carryOut_role _) fun i => ?_]
  · exact hw
  · exact carryOut_again (carryOut_agrees s) (carryOut_targetsTaken s) (carryOut_rests s) (carryOut_entriesFit s) i

/-! ## One event -/

/-- But for a hold stage, judging the switch wait moves the search alone. -/
theorem judgeSwitchWait_moves {s : State} (h : s.search.stage ≠ .hold) : ∃ x, judgeSwitchWait s = { s with search := x } := by
  unfold judgeSwitchWait
  split
  · split
    · split <;> exact ⟨_, rfl⟩
    · next hs => exact absurd hs h
    all_goals exact ⟨_, rfl⟩
  · exact ⟨_, rfl⟩

theorem carried_again {s : State} (ha : TableAgrees s) {i : Str} (hp : isPresent s i = true) :
    (carryOut s).table[i].target = s.table[i].target := by
  rw [carryOut_table, recompute_target s i hp, (ha i hp).1]

theorem carryOut_seq (s : State) {i : Str} (hp : isPresent s i = true) :
    (s.seqs[i].takeTarget (carryOut s).table[i].target s.now).MayStart (carryOut s).seqs[i] s.cfg s.now := by
  have ha := (arbitrate_arbitrated (reconcile (recompute s))).seqs i
  have hs : (recompute s).seqs[i] = s.seqs[i] := by simp only [recompute_seqs]
  rw [reconcile_seq, isPresent_recompute, if_pos hp, hs, recompute_now] at ha
  rw [carryOut_table]
  have hc := (carries_recompute s).trans (carries_reconcile _)
  rw [hc.cfg, hc.now] at ha
  exact ha

theorem refreshPins_table (s : State) : (refreshPins s).table = s.table := rfl

/-- R62 at the end of every event that leaves no hold stage to judge: a sequencer takes the target that then stands, and the arbiter may start
the sequence that it then waits for. -/
theorem finish_seq (s₀ s₁ : State) {i : Str} (hp : isPresent s₁ i = true) (hh : (searchReact s₀ s₁).search.stage ≠ .hold) :
    (s₁.seqs[i].takeTarget (finish s₀ s₁).table[i].target s₁.now).MayStart (finish s₀ s₁).seqs[i] s₁.cfg s₁.now := by
  unfold finish
  rw [refreshPins_seqs, refreshPins_table]
  have hr := carries_searchReact s₀ s₁
  have hq : (searchReact s₀ s₁).seqs[i] = s₁.seqs[i] := by rw [searchReact_seqs]
  rw [← hq, ← hr.cfg, ← hr.now]
  have hp : isPresent (searchReact s₀ s₁) i = true := (isPresent_congr hr.cfg i).trans hp
  generalize searchReact s₀ s₁ = s at hp hh
  obtain ⟨x, hx⟩ := judgeSwitchWait_moves (s := carryOut s) (by rwa [carryOut_search])
  have hw := (carryOut_seq s hp)
  have hc : isPresent (carryOut s) i = true := (isPresent_congr (carries_carryOut s).cfg i).trans hp
  have ha := carryOut_agrees s
  have ht := carryOut_targetsTaken s
  have he := carryOut_entriesFit s
  have hn := carryOut_rests s
  rw [hx]
  generalize carryOut s = t at hw hc ha ht he hn
  rw [carried_again (s := { t with search := x }) ha hc, carryOut_again (s := { t with search := x }) ha ht
    (hn.congr rfl rfl fun _ => rfl) he i]
  exact hw

end Sys2Proof.Machine
end

