-- ==== Sys2Proof/Tests/Slice0.lean ====
section
/-! SUPPORT. The model's own tests: what the check of well-formed commands refuses, worked values of the manual, and for every statement with
hypotheses a concrete state and operands that meet them. -/

namespace Sys2Proof.Tests

open Sys2Proof.Machine Sys2Proof.Claims

set_option maxRecDepth 100000
set_option Elab.async false

/-! ## Well-formedness -/

def flat (current voltage : Int) : Vector Sample 24 := Vector.replicate 24 ⟨current, voltage, true⟩

theorem test_wellformed_limits :
    (Instr.scanCompletion 0 (flat 2048 4095) 4095).wellFormed = true
      ∧ (Instr.scanCompletion 0 (flat (-2048) 0) 0).wellFormed = true := by decide +kernel

theorem test_illformed_current_above : (Instr.scanCompletion 0 (flat 2049 0) 0).wellFormed = false := by decide +kernel

theorem test_illformed_current_below : (Instr.scanCompletion 0 (flat (-2049) 0) 0).wellFormed = false := by decide +kernel

theorem test_illformed_voltage_above : (Instr.scanCompletion 0 (flat 0 4096) 0).wellFormed = false := by decide +kernel

theorem test_illformed_voltage_below : (Instr.scanCompletion 0 (flat 0 (-1)) 0).wellFormed = false := by decide +kernel

theorem test_illformed_bus : (Instr.scanCompletion 0 (flat 0 0) 4096).wellFormed = false := by decide +kernel

/-! ## Small states -/

/-- The state a command leads to. -/
def after (c : Instr) (s : State) : State :=
  match exec c s with
  | .next t => t
  | .fault _ | .refused _ => s

/-- A journal of two sectors at 0x020000, the window at 0x030000, two GUARDED sectors at 0x040000. -/
def cfg : Config :=
  { Config.builtin with regions := [⟨.journal, 32, 2⟩, ⟨.window, 48, 1⟩, ⟨.guarded, 64, 2⟩], enSrch := true, optSdl := true }

/-- The same with a ring of one sector, for tests that run over the whole ring. -/
def oneSector (s : State) : State := { s with cfg := { s.cfg with regions := [⟨.journal, 32, 1⟩] } }

/-- A box at work: a configuration and the journal adopted, the mirror IDLE with the latch SET, every string CLOSED. -/
def box : State :=
  { State.reset with
    inReset := false
    cfg := cfg
    cfgBase := 0x010000
    mirror := ⟨.idle, .set, false, ⟨none, none, .none, 0⟩⟩
    capture := { Capture.reset with state := .adopted, adopted := true }
    journal := { Journal.reset with
      state := .adopted, everAdopted := true, head := 3, nextSeq := 7
      sectors := [⟨.head, 3⟩, ⟨.full, 512⟩] ++ List.replicate 6 ⟨.unseen, 0⟩
      slots := [.record ⟨0, 1, 0, 4⟩, .record ⟨1, 1, 0, 5⟩, .record ⟨2, 2, 0, 6⟩] ++ List.replicate 509 .erased
        ++ List.replicate 512 .corrupt ++ List.replicate 3072 .unseen }
    table := Vector.replicate 24 { Entry.reset with recorded := .connect, liveSlot := some 0 }
    seqs := Vector.replicate 24 { Seq.reset with state := .closed }
    scan := { Scan.reset with found := true } }

def x (m n : Byte) : Xfer := ⟨m, n⟩

/-- A release after whole bytes. -/
def rel : Release := ⟨0, ⟨0, 0⟩⟩

/-- A record of a transaction of a class at an address, after its address bytes and `n` bytes more. -/
def txn (s : State) (c : CmdClass) (addr n : Nat) : Txn :=
  { newTxn s none with
    cls := some c, count := 3 + n, addrBytes := [0, 0, 0], start := addr, addr := addr
    image := (List.replicate 256 none).set (addr % 256) (some 0xA5) }

def withTxn (s : State) (t : Txn) : State := { s with txn := some t, ports := ⟨true, [], none, true, [0x62], .none⟩ }

def bus (c : CmdClass) (addr n : Nat) : State := withTxn box (txn box c addr n)

/-- String 5 with one sequencer. -/
def str5 : Str := 5

def withSeq (q : Seq) : State := box.setSeq str5 q

def act (c : Coil) (p : ActPhase) (seen : Bool) : Act := ⟨c, p, seen, 20, 40, 20, 40, 10⟩

def running (c : Coil) (p : ActPhase) (seen : Bool) : Seq :=
  { Seq.reset with state := (if c = .close_ then .closing else .opening), act := some (act c p seen), grant := .held }

/-! ## Worked values -/

/-- 02 R24, R26 through a scan: codes 2047 and 2048, and the median of equal currents (R29). -/
theorem test_scan_of_default_scales :
    let s := after (.scanCompletion 40000 (flat 2047 4094) 2048) { box with scan := { box.scan with job := some ⟨0, 40000, 24, 32000, 15000⟩ } }
    s.meas[str5].current = 31984 ∧ s.meas[str5].voltage = 14992 ∧ s.scan.bus = 7500 ∧ s.scan.median = some 31984
      ∧ s.scan.number = 1 := by decide +kernel

/-- 02 R29: the lower middle of four, the middle of three, none of two. -/
theorem test_median :
    medianOf [8100, -200, 8010, 7950] = some 7950 ∧ medianOf [8100, 7980, 1] = some 7980 ∧ medianOf [1, 2] = none := by
  decide +kernel

/-- 03 R44: with a median of 8000 a current of 5999 deviates and one of 6000 does not. -/
theorem test_deviation_example :
    deviationCond Config.builtin (some 8000) ⟨true, 5999, false, 0, none, 0⟩ = true
      ∧ deviationCond Config.builtin (some 8000) ⟨true, 6000, false, 0, none, 0⟩ = false := by decide +kernel

/-- 06 R107: the built-in table, an unlisted code, and a code that stands only in unused entries. -/
theorem test_command_lookup :
    (lookup Config.builtin 0x42).cls = .readFast ∧ (lookup Config.builtin 0x42).dummy = 1
      ∧ (lookup Config.builtin 0x99).cls = .block ∧ (lookup Config.builtin 0x00).cls = .block := by decide +kernel

/-- 06 R127: a status byte 0x02 is returned as 0x22 while the refusal flag is set. -/
theorem test_status_merge :
    let s := { bus .status 0 0 with mirror := { box.mirror with refusalFlag := true } }
    (after (.status 0 [x 0 0x02] none) s).ports.returned = [0x22]
      ∧ (after (.status 0 [x 0 0x02] none) (bus .status 0 0)).ports.returned = [0x02] := by decide +kernel

/-- 10.2: the ISOLATE of string 5 with sequence 1407. -/
theorem test_record_example :
    (Record.body ⟨5, 2, 0, 1407⟩) = [0xA5, 0x05, 0x02, 0x00, 0x05, 0x7F]
      ∧ judgeSlot (Record.bytes ⟨5, 2, 0, 1407⟩) = .record ⟨5, 2, 0, 1407⟩
      ∧ judgeSlot (Record.body ⟨5, 2, 0, 1407⟩ ++ [0, 0]) = .corrupt := by decide +kernel

/-- 10 R180: the published check value of this polynomial and start, over the digits 1 to 9. -/
theorem test_crc_example : crc16 [0x31, 0x32, 0x33, 0x34, 0x35, 0x36, 0x37, 0x38, 0x39] = 0xAEE7 := by decide +kernel

/-- 10.5: the box record of a box at work, but for its refusal and commit fields; 10.6: the record of a string. -/
theorem test_window_records :
    (boxRecord box).take 16 = [0x24, 0x40, 1, 1, 1, 0, 0, 0, 0, 3, 0, 7, 1, 1, 2, 0]
      ∧ ((boxRecord box).drop 16).take 8 = [2, 3, 0xFF, 0xFF, 0xFF, 0xFF, 0xFF, 0xFF]
      ∧ (stringRecord box str5).take 16 = [5, 1, 1, 0, 5, 0, 0, 0, 0, 0, 0, 0, 0, 0, 0, 0] := by decide +kernel

/-- A read, from chip select to the end of its address phase, of an address whose low byte is 0. -/
def addressedRead (code : Byte) (page : Nat) : State :=
  let s := after (.chipSelectAssert 0 (some (x code 0))) box
  let bs := [x (BitVec.ofNat 8 (page / 256)) 0, x (BitVec.ofNat 8 page) 0, x 0 0]
  if code = 0x42 then after (.readFast 0 bs none) s else after (.read 0 bs none) s

/-- 06 R110, R157: a read of the start of the window gives the identity of the box record, one beyond the records 0xFF, and one outside the
window the memory's byte. -/
theorem test_window_bytes :
    (after (.read 0 [x 0 0x11, x 0 0x22] none) (addressedRead 0x41 0x0300)).ports.returned.take 2 = [0x40, 0x24]
      ∧ (after (.read 0 [x 0 0x11, x 0 0x22] none) (bus .read (0x030000 + 831) 0)).ports.returned.head? = some 0xFF
      ∧ (after (.read 0 [x 0 0x11] none) (addressedRead 0x41 0x0200)).ports.returned.head? = some 0x11 := by decide +kernel

/-- 08 R158: an event between the end of the address phase and the byte, in a dummy byte of a READ_FAST or between two rows, does not show;
the record of a string is latched at the end of the byte before it. -/
theorem test_latch_instant :
    let late := fun s : State => { s with mirror := { s.mirror with wel := .clear } }
    (after (.readFast 0 (List.replicate 16 (x 0 0)) none) (late (addressedRead 0x42 0x0300))).ports.returned.head? = some 2
      ∧ (after (.read 0 (List.replicate 15 (x 0 0)) none) (late (addressedRead 0x41 0x0300))).ports.returned.head? = some 2
      ∧ (addressedRead 0x42 0x0300).window[(0 : Fin 25)].filled = true
      ∧ (after (.read 0 (List.replicate 63 (x 0 0)) none) (addressedRead 0x41 0x0300)).window[(1 : Fin 25)].filled = false
      ∧ (after (.read 0 (List.replicate 64 (x 0 0)) none) (addressedRead 0x41 0x0300)).window[(1 : Fin 25)].filled = true := by
  decide +kernel

/-- 06 R110: an address is taken modulo the memory size. -/
theorem test_address_modulo :
    let s := withTxn { box with cfg := { cfg with memSize := 1048576 } }
      { newTxn { box with cfg := { cfg with memSize := 1048576 } } (some 0x41) with cls := some .read }
    (after (.read 0 [x 0x1F 0, x 0xF0 0, x 0x08 0] none) s).txn.map (·.start) = some 0x0FF008 := by decide +kernel

/-- 06 R111: the straps. -/
theorem test_straps :
    strapBase false false = 0 ∧ strapBase false true = 0x010000 ∧ strapBase true false = 0x100000
      ∧ strapBase true true = 0x1FF000 := by decide

/-- 04 R63: the voltage match at its edge. -/
theorem test_voltage_match : voltageMatch 300 9000 8700 = true ∧ voltageMatch 300 8699 9000 = false := by decide

/-- 05 R91: a step of five suspects holds three. -/
theorem test_halving_split :
    let s := beginStep { box with search := { box.search with phase := .baseline } } [1, 2, 3, 4, 5]
    (List.finRange 24).filter (fun i => s.table[i].role == .held) = [1, 2, 3] := by decide +kernel

/-- A command of a block spells no word. -/
theorem test_no_word : decodeTableWord 8 0x41 = none := by decide

/-! ## Witnesses: reset and the invariants -/

def queued : State := { box with pending := [.scanStart 5, .powerOn ⟨1, rel⟩] }

theorem test_witness_step : queued.pending = .scanStart 5 :: [.powerOn ⟨1, rel⟩] := by decide +kernel

def between : State := after (.read 0 [x 0 0] none) (bus .pass 0 0)

theorem test_witness_reset_transaction :
    between.txn.isSome = true ∧ between.ports.memReceived = [0x62] ∧ box.txn = none ∧ box.ports.ctlSelected = false := by
  decide +kernel

/-- 09 R167: at power-on too the transaction in progress ends with a partial byte. -/
theorem test_power_on_partial_byte :
    (after (.powerOn ⟨0, ⟨3, x 0xE0 0xA5⟩⟩) (bus .read 0x020000 0)).ports.memEnd = .partialByte true
      ∧ (after (.powerOn ⟨0, ⟨3, x 0xE0 0xA5⟩⟩) (bus .read 0x020000 0)).ports.returnedTail = some ⟨3, x 0xE0 0xA5⟩ := by decide +kernel

theorem test_witness_reset_input_clauses :
    (withSeq (running .open_ .pulse false)).seqs[str5].act = some (act .open_ .pulse false)
      ∧ (withSeq (running .open_ .travel false)).seqs[str5].act = some (act .open_ .travel false)
      ∧ (withSeq (running .close_ .settle false)).seqs[str5].act = some (act .close_ .settle false)
      ∧ (withSeq (running .open_ .retryWait false)).seqs[str5].act = some (act .open_ .retryWait false)
      ∧ box.seqs[str5].act = none := by decide +kernel

def inReset (a : Act) : State := { withSeq { Seq.reset with act := some a } with inReset := true }

theorem test_witness_reset_drive_end :
    (inReset (act .open_ .pulse true)).inReset = true ∧ (act .open_ .pulse true).until_ ≤ (inReset (act .open_ .pulse true)).now + 20
      ∧ (inReset (act .open_ .pulse false)).seqs[str5].act = some (act .open_ .pulse false)
      ∧ (inReset (act .open_ .pulse false)).now + 39 < (act .open_ .pulse false).travelEnd
      ∧ (inReset (act .open_ .travel false)).seqs[str5].act = some (act .open_ .travel false)
      ∧ (act .open_ .travel false).travelEnd ≤ (inReset (act .open_ .travel false)).now + 40 := by decide +kernel

theorem test_witness_reset_release :
    State.reset.inReset = true ∧ (∀ i : Str, State.reset.seqs[i].act = none)
      ∧ (∃ i : Str, (inReset (act .open_ .pulse true)).seqs[i].act.isSome = true) := by decide +kernel

/-- A box in its first moment after release, with a command in its queue. -/
def started : State := { after (.resetRelease 0 false true) State.reset with pending := [.shdnLevelChange 3 true] }

theorem test_witness_table_pins_and_queue :
    TableAgrees started ∧ PinsAgree started ∧ ResetQuiet started ∧ SearchRests started ∧ HoldWaits started ∧ QueueAgrees started := by
  unfold TableAgrees PinsAgree ResetQuiet SearchRests HoldWaits QueueAgrees
  decide +kernel

/-- What a state has to show for `TargetsTaken`. -/
theorem targets_taken {s : State}
    (h : ∀ i : Str, isPresent s i = true →
      (s.table[i].target = .connected → s.seqs[i].state ≠ .opened ∧ s.seqs[i].state ≠ .openQueued)
      ∧ (s.table[i].target = .isolated → s.seqs[i].state ∉ [SwitchState.qualify, .closeQueued, .closed]
        ∧ (s.seqs[i].state = .closing → s.seqs[i].act.map (·.phase) ≠ some .settle))) : TargetsTaken s :=
  fun i hi => ⟨(h i hi).1, fun e => ((h i hi).2 e).1, fun e c a ha hp => ((h i hi).2 e).2 c (by rw [ha, ← hp]; rfl)⟩

/-- What a state has to show for `ArbiterRests`. -/
theorem arbiter_rests {s : State} (k : Option Nat)
    (h : s.arb.kPending = k ∧ (s.arb.kPending = none → s.arb.queue = [] ∨ s.arb.k ≤ grantsInUse s) ∧ k.all (· < grantsInUse s) = true
      ∧ ∀ i : Str, isPresent s i = true → s.seqs[i].waitsFor ≠ none → s.seqs[i].grant ≠ .none ∨ ∃ e ∈ s.arb.queue, e.str = i) :
    ArbiterRests s :=
  ⟨h.2.1, fun j hj => by
    have e : k = some j := h.1.symm.trans hj
    subst e
    simpa using h.2.2.1, h.2.2.2⟩

theorem test_witness_taken_and_resting : TargetsTaken started ∧ ArbiterRests started :=
  ⟨targets_taken (by decide +kernel), arbiter_rests none (by decide +kernel)⟩

theorem test_witness_addresses : AddressesAgree started ∧ AddressesAgree (bus .read 0x020000 0) := by
  unfold AddressesAgree
  decide +kernel

theorem test_witness_mirror : MirrorAgrees started := by
  unfold MirrorAgrees
  have h : started.mirror.state = .unknown := by decide +kernel
  have k : started.journal.prog = none ∧ started.journal.erase = none := by decide +kernel
  rw [h]
  exact ⟨fun _ => k, by simp, by simp, by simp, by simp⟩

theorem test_witness_grants : GrantsAgree started := by
  have h : ∀ i : Str, started.seqs[i].act = none := by decide +kernel
  exact ⟨by decide +kernel, fun i a e => absurd ((h i).symm.trans e) (by simp),
    fun i e => absurd ((congrArg Option.isSome (h i)).symm.trans e) (by simp)⟩

/-- An open in the travel of its first pulse. -/
def travelling : State := withSeq (running .open_ .travel false)

theorem test_witness_running_grant : GrantsAgree travelling ∧ ResetQuiet travelling := by
  have h : ∀ i : Str, travelling.seqs[i].act = none ∨ travelling.seqs[i].grant = .held ∧ travelling.seqs[i].state ≠ .unfound := by
    decide +kernel
  refine ⟨⟨by decide +kernel, fun i a e _ _ => ?_, fun i e u => ?_⟩, by unfold ResetQuiet; decide +kernel⟩
  · exact (h i).elim (fun n => absurd (n.symm.trans e) (by simp)) (·.1)
  · exact (h i).elim (fun n => absurd ((congrArg Option.isSome n).symm.trans e) (by simp)) fun n => absurd u n.2

theorem test_running_grant_is_held :
    travelling.seqs[str5].act.isSome = true ∧ grantsInUse travelling = 1 ∧ travelling.inReset = false := by decide +kernel

theorem test_witness_step_answers_next : (match step started with | .next _ => true | .fault _ => false | .refused _ => false) = true := by
  decide +kernel

/-! ## Witnesses: the bus -/

theorem test_witness_bus_row : (bus .read 0 0).txn = some (txn box .read 0 0) ∧ (txn box .read 0 0).cls = some .read := by
  decide +kernel

theorem test_witness_chip_select :
    box.inReset = false ∧ box.cfg.commands = builtinCommands ∧ (∀ e ∈ box.cfg.commands, e.cls = .none ∨ e.code ≠ 0x99) := by
  decide +kernel

/-- A command table of one READ_FAST with three dummy bytes, beside an unused entry with its code. -/
def ownTable : State := { box with cfg := { box.cfg with commands := [⟨0x0B, .none, 0⟩, ⟨0x0B, .readFast, 3⟩] } }

/-- 06 R107, R108. -/
theorem test_own_command_table :
    (∀ e' ∈ ownTable.cfg.commands, e'.cls ≠ .none → e'.code = 0x0B → e' = ⟨0x0B, .readFast, 3⟩)
      ∧ (after (.chipSelectAssert 0 (some (x 0x0B 0))) ownTable).txn.map (fun t => (t.cls, t.dummy)) = some (some .readFast, 3)
      ∧ (after (.chipSelectAssert 0 (some (x 0x41 0))) ownTable).txn.map (·.cls) = some (some .block) := by decide +kernel

def selectedInReset : State := { State.reset with ports := { Ports.reset with ctlSelected := true } }

/-- A read cut by the reset input after three bits of a byte. -/
def cutRead : State := after (.resetInput ⟨0, ⟨3, x 0xE0 0xA5⟩⟩) (bus .read 0x020000 0)

theorem test_witness_cut_byte :
    cutRead.inReset = true ∧ cutRead.txn = none ∧ cutRead.ports.ctlSelected = true
      ∧ cutRead.ports.returnedTail = some ⟨3, x 0xE0 0xA5⟩ ∧ cutRead.ports.memEnd = .partialByte true := by decide +kernel

/-- 06 R105: the bits of that byte not yet read are high. -/
theorem test_cut_byte_reads_high :
    (after (.read 0 [x 0 0] none) cutRead).ports.returned = [0xBF] := by decide +kernel

/-- A further reset cuts that byte again: the bits read first stand, and the others read high (log 30). -/
theorem test_byte_cut_twice :
    (after (.resetInput ⟨0, ⟨5, x 0 0⟩⟩) cutRead).ports.returnedTail = some ⟨5, x 0 0xBF⟩
      ∧ (after (.powerOn ⟨0, ⟨5, x 0 0⟩⟩) selectedInReset).ports.returnedTail = some ⟨5, x 0 0xFF⟩ := by decide +kernel

/-- 06 R103: the memory's byte in the clocks of the command byte is returned. -/
theorem test_command_byte_passes :
    (after (.chipSelectAssert 0 (some (x 0x41 0x3C))) box).ports.returned = [0x3C]
      ∧ (after (.chipSelectAssert 0 (some (x 0x41 0x3C))) box).ports.memReceived = [0x41] := by decide +kernel

theorem test_witness_bus_in_reset :
    selectedInReset.inReset = true ∧ selectedInReset.txn = none ∧ selectedInReset.ports.ctlSelected = true := by decide +kernel

def early (n : Nat) : Txn := { txn box .program 0 0 with count := n, addrBytes := List.replicate n 0x12 }

theorem test_witness_address_phase :
    (withTxn box (early 1)).txn = some (early 1) ∧ (early 1).count < 2 ∧ (early 1).addrBytes.length = (early 1).count
      ∧ (withTxn box (early 2)).txn = some (early 2) ∧ (early 2).count = 2 ∧ (early 2).addrBytes = [0x12, 0x12]
      ∧ ({ early 2 with cls := some .readFast } : Txn).count = 2 := by decide +kernel

theorem test_witness_bytes_of_writes :
    (bus .wren 0 0).txn = some (txn box .wren 0 0) ∧ (bus .erase4k 0 0).txn = some (txn box .erase4k 0 0)
      ∧ 3 ≤ (txn box .erase4k 0 0).count ∧ (bus .program 0 0).txn = some (txn box .program 0 0)
      ∧ 3 ≤ (txn box .program 0 0).count := by decide +kernel

def fast : Txn := { txn box .readFast 0x020000 0 with dummy := 1 }

theorem test_witness_read_bytes :
    (withTxn box fast).txn = some fast ∧ 3 ≤ fast.count ∧ fast.count < 3 + fast.dummy
      ∧ (bus .read 0x02FFFF 0).txn = some (txn box .read 0x02FFFF 0) ∧ 3 + (txn box .read 0x02FFFF 0).dummy ≤ (txn box .read 0x02FFFF 0).count
      ∧ sectorKind (txn box .read 0x02FFFF 0).cfg box.cfgBase ((txn box .read 0x02FFFF 0).addr / 4096) ≠ .window := by decide +kernel

theorem test_witness_window :
    InWindow box (txn box .read 0x030000 0) 0x030000 ∧ InWindow box (txn box .read 0x030000 0) (0x030000 + 4095)
      ∧ ¬ InWindow box (txn box .read 0x02FFFF 0) 0x02FFFF ∧ ¬ InWindow box (txn box .read 0x02FFFF 0) 0x031000
      ∧ InRecordOf 0 64 ∧ InRecordOf 23 831 ∧ ¬ InRecordOf 23 832 ∧ ¬ InRecordOf 0 63 ∧ (txn box .read 0x030000 0).addr % 4096 = 0
      ∧ box.window[(0 : Fin 25)].filled = false ∧ (addressedRead 0x41 0x0300).window[(0 : Fin 25)].filled = true := by
  unfold InWindow InRecordOf
  decide +kernel

theorem test_witness_window_presence :
    (23 : Str).val < box.cfg.stringCount
      ∧ { box with cfg := { cfg with stringCount := 23 } }.cfg.stringCount ≤ (23 : Str).val := by decide +kernel

/-- A journal erase that a suspension holds. -/
def heldErase : EraseCommit := ⟨.journal, 0x021000, 4096, some 1, false, .paused 300⟩

def suspended (s : State) : State :=
  { s with mirror := { s.mirror with state := .eraseSuspended }, journal := { s.journal with erase := some heldErase } }

theorem test_witness_releases :
    (bus .resume 0 0).txn = some (txn box .resume 0 0) ∧ rel.bits = 0
      ∧ (suspended (bus .resume 0 0)).mirror.state = .eraseSuspended ∧ heldErase.timer = .paused 300
      ∧ (bus .wren 0 0).mirror.state = .idle ∧ started.mirror.state = .unknown
      ∧ ¬ (4 ≤ (txn box .program 0 0).count) ∧ (early 2).count < 3 := by decide +kernel

theorem test_witness_incomplete : ¬ Complete (txn box .program 0 0) .program := fun h => absurd (h.2 rfl) (by decide +kernel)

/-! ## Witnesses: status -/

theorem test_witness_status :
    (bus .status 0 0).txn = some (txn box .status 0 0) ∧ (txn box .status 0 0).cls = some .status
      ∧ (txn box .status 0 0).cfg.errBit < 8 ∧ box.mirror.refusalFlag = false := by decide +kernel

def appended : ProgCommit := ⟨.journal, 0x020008, 1, [⟨1, 1, 0, 5⟩, ⟨2, 2, 0x20, 6⟩], 100⟩

def committed (s : State) : State :=
  { s with mirror := { s.mirror with state := .busyProgram }, journal := { s.journal with prog := some appended } }

theorem observed {s : State} {t : Txn} {x : Xfer} {busy susp err : Bool}
    (h : s.txn = some t ∧ t.cls = some .status ∧ x.miso.getLsbD t.cfg.busyBit = busy ∧ x.miso.getLsbD t.cfg.suspBit = susp
      ∧ x.miso.getLsbD t.cfg.errBit = err) : Observed s t x busy susp err :=
  ⟨h.1, h.2.1, h.2.2.1, h.2.2.2.1, h.2.2.2.2⟩

theorem test_witness_observed_clear : Observed (committed (bus .status 0 0)) (txn box .status 0 0) (x 0 0x00) false false false :=
  observed (by decide +kernel)

theorem test_witness_observed_error : Observed (committed (bus .status 0 0)) (txn box .status 0 0) (x 0 0x20) false false true :=
  observed (by decide +kernel)

theorem test_witness_status_program :
    (committed (bus .status 0 0)).mirror.state = .busyProgram ∧ (committed (bus .status 0 0)).journal.prog = some appended
      ∧ appended.kind = .journal ∧ (committed (bus .status 0 0)).journal.state = .adopted
      ∧ appended.first + appended.records.length ≤ (committed (bus .status 0 0)).journal.slots.length
      ∧ (committed (bus .status 0 0)).journal.slots.length = 4096 := by decide +kernel

/-- A switch FAILED with WELD latched and no longer present, and a pending release of WELD and of HELD. -/
def welded (line : Bool) : State :=
  let s := committed (bus .status 0 0)
  let s := s.setSeq 2 { Seq.reset with state := .failed }
  let s := s.setEvid 2 { Evidence.reset with latched := 0x60, heldOrigin := some .other }
  { s with
    lines := Vector.replicate 24 line
    journal := { s.journal with prog := some { appended with records := [⟨2, 1, 0x60, 5⟩] } } }

theorem test_witness_weld_release :
    (welded false).seqs[(2 : Str)].state = .failed ∧ CauseSet.has (welded false).evid[(2 : Str)].latched .weld = true
      ∧ (welded false).lines[(2 : Str)] = false ∧ (welded true).lines[(2 : Str)] = true
      ∧ (welded false).mirror.state = .busyProgram ∧ (welded false).search.stage ≠ .hold := by decide +kernel

/-- 04 R75, 03 R53: the line decides where the switch goes, and the origin of HELD is dropped. -/
theorem test_weld_release :
    let u := after (.status 0 [x 0 0x00] none) (welded false)
    let v := after (.status 0 [x 0 0x00] none) (welded true)
    u.seqs[(2 : Str)].state = .qualify ∧ u.evid[(2 : Str)].latched = 0 ∧ u.evid[(2 : Str)].heldOrigin = none
      ∧ v.seqs[(2 : Str)] = { Seq.reset with state := .closed, probation := 40 } ∧ u.search.phase = .idle := by decide +kernel

/-! ## Witnesses: targets that move (R62) -/

/-- Strings 0 to 7 in the states of R62, with K grants: 0 OPEN, 1 OPEN_QUEUED on probation, 2 CLOSED, 3 QUALIFY, 4 CLOSE_QUEUED, 5 in the
settle of a close, 6 and 7 in the settle of an open. -/
def mixed (k : Nat) (s : State) : State :=
  { s with
    seqs := s.seqs
      |>.set 0 { Seq.reset with state := .opened } |>.set 1 { Seq.reset with state := .openQueued, probation := 7 }
      |>.set 3 { Seq.reset with state := .qualify, qual := 5 } |>.set 4 { Seq.reset with state := .closeQueued, qual := 10 }
      |>.set 5 (running .close_ .settle false) |>.set 6 (running .open_ .settle false) |>.set 7 (running .open_ .settle false)
    arb := ⟨[⟨1, .open_⟩, ⟨4, .close_⟩], k, none⟩
    iso := { s.iso with job := some ⟨0, 50000, false⟩ } }

/-- What the row of each string of `mixed` becomes where the targets are turned round, at instant `now`, with no grant to spare. -/
def Turned (now : Nat) (u : State) : Prop :=
  u.seqs[(0 : Str)] = { Seq.reset with state := .qualify }
    ∧ u.seqs[(1 : Str)] = { Seq.reset with state := .closed, probation := 7 }
    ∧ (u.seqs[(2 : Str)] = { Seq.reset with state := .openQueued } ∧ ⟨2, .open_⟩ ∈ u.arb.queue)
    ∧ u.seqs[(3 : Str)] = { Seq.reset with state := .opened }
    ∧ u.seqs[(4 : Str)] = { Seq.reset with state := .opened, qual := 10 }
    ∧ u.seqs[(5 : Str)] = { Seq.reset with state := .opened, bypassOffAt := now }
    ∧ u.seqs[(6 : Str)] = running .open_ .settle false
    ∧ (∀ e ∈ u.arb.queue, e.str ≠ 1 ∧ e.str ≠ 4) ∧ u.iso.job.map (·.disturbed) = some true

/-- A program that connects strings 0 and 1 and isolates strings 2 to 5. -/
def turning (k : Nat) : State :=
  let s := committed (mixed k (bus .status 0 0))
  { s with
    journal := { s.journal with prog := some { appended with
      records := [⟨0, 1, 0, 5⟩, ⟨1, 1, 0, 6⟩, ⟨2, 2, 0, 7⟩, ⟨3, 2, 0, 8⟩, ⟨4, 2, 0, 9⟩, ⟨5, 2, 0, 10⟩] } } }

/-- 04 R62 at a confirmation: every row of its table; with a slot to spare the CLOSED switch opens at once. -/
theorem test_targets_at_a_confirmation :
    Turned 9 (after (.status 9 [x 0 0x00] none) (turning 2))
      ∧ (after (.status 9 [x 0 0x00] none) (turning 3)).seqs[(2 : Str)]
          = startedAt { Seq.reset with state := .openQueued } .open_ cfg 9 := by
  unfold Turned
  decide +kernel

/-- 04 R62 at a shutdown: OPEN_QUEUED goes on asking, and the other rows take the target ISOLATED. -/
theorem test_targets_at_a_shutdown :
    let s := mixed 2 box
    let u := after (.shutdownActivation 10000) { s with inputs := { s.inputs with shdnRaw := true, shdnTiming := some 10000 } }
    u.seqs[(0 : Str)] = { Seq.reset with state := .opened }
      ∧ u.seqs[(1 : Str)] = { Seq.reset with state := .openQueued, probation := 7 } ∧ ⟨1, .open_⟩ ∈ u.arb.queue
      ∧ u.seqs[(2 : Str)] = { Seq.reset with state := .openQueued } ∧ u.seqs[(3 : Str)] = { Seq.reset with state := .opened }
      ∧ u.seqs[(4 : Str)] = { Seq.reset with state := .opened, qual := 10 }
      ∧ u.seqs[(5 : Str)] = { Seq.reset with state := .opened, bypassOffAt := 10000 }
      ∧ u.seqs[(6 : Str)] = running .open_ .settle false := by decide +kernel

/-- 04 R62, 03 R57 at the release of a shutdown without OPT_SDL. -/
theorem test_targets_at_a_release :
    let s := mixed 2 { box with cfg := { cfg with optSdl := false } }
    let u := after (.shutdownRelease 10000) { s with inputs := { s.inputs with shdnActive := true, shdnTiming := some 10000 } }
    u.seqs[(0 : Str)] = { Seq.reset with state := .qualify } ∧ u.seqs[(1 : Str)] = { Seq.reset with state := .closed, probation := 7 }
      ∧ u.seqs[(3 : Str)] = { Seq.reset with state := .qualify, qual := 5 } ∧ u.arb.queue = [⟨4, .close_⟩]
      ∧ u.seqs[(5 : Str)] = running .close_ .settle false ∧ s.search.stage ≠ .hold ∧ u.search.phase = .idle := by decide +kernel

/-- 07 R144, 04 R62: the latch of a program whose timer expires takes its CLOSED switch. -/
theorem test_targets_at_a_timeout :
    let u := after (.programCommitTimeout 100) (committed (mixed 2 box))
    u.table[(2 : Str)].target = .isolated ∧ u.seqs[(2 : Str)] = { Seq.reset with state := .openQueued }
      ∧ ⟨2, .open_⟩ ∈ u.arb.queue ∧ (committed (mixed 2 box)).search.stage ≠ .hold ∧ u.search.phase = .idle := by decide +kernel

theorem test_witness_in_ring : InRing (committed (bus .status 0 0)) appended :=
  ⟨by decide +kernel, by decide +kernel, by decide +kernel⟩

/-- The same with the journal INCONSISTENT. -/
def lostRing (s : State) : State := { s with journal := { s.journal with state := .inconsistent } }

theorem test_witness_in_lost_ring : InRing (lostRing (committed (bus .status 0 0))) appended :=
  ⟨by decide +kernel, by decide +kernel, by decide +kernel⟩

/-- 07 R143: while the journal is INCONSISTENT the slots become UNSEEN and the state stays. -/
theorem test_fails_while_inconsistent :
    let u := after (.status 0 [x 0 0x20] none) (lostRing (committed (bus .status 0 0)))
    u.journal.state = .inconsistent ∧ u.journal.slots[2]? = some .unseen ∧ u.journal.doubt = none ∧ u.evid[(2 : Str)].latched = 0 := by
  decide +kernel

theorem test_witness_last_of : LastOf (numbered appended.first appended.records) (2 : Str) 2 ⟨2, 2, 0x20, 6⟩ :=
  ⟨[(1, ⟨1, 1, 0, 5⟩)], [], rfl, by decide, by simp⟩

/-- A program under a suspended erase. -/
def bothPending (s : State) : State :=
  { s with
    mirror := { s.mirror with state := .busyProgramInSuspend }
    journal := { s.journal with prog := some appended, erase := some heldErase } }

theorem test_witness_observed_both :
    Observed (bothPending (bus .status 0 0)) (txn box .status 0 0) (x 0 0x00) false false false
      ∧ Observed (bothPending (bus .status 0 0)) (txn box .status 0 0) (x 0 0x20) false false true :=
  ⟨observed (by decide +kernel), observed (by decide +kernel)⟩

theorem test_witness_both :
    (bothPending (bus .status 0 0)).mirror.state = .busyProgramInSuspend
      ∧ (bothPending (bus .status 0 0)).journal.prog = some appended
      ∧ (bothPending (bus .status 0 0)).journal.erase = some heldErase
      ∧ ({ appended with kind := .guarded, records := [] } : ProgCommit).kind ≠ .journal := by decide +kernel

/-- 06 R116: out of the suspension with the error bit set, the program fails and the erase is unresolved. -/
theorem test_both_end :
    let u := after (.status 0 [x 0 0x20] none) (bothPending (bus .status 0 0))
    u.mirror.state = .idle ∧ u.journal.slots[2]? = some .doubtful ∧ u.journal.slots[512]? = some .unseen
      ∧ u.journal.sectors[1]? = some ⟨.unknown, 0⟩ ∧ u.journal.state = .doubtful := by decide +kernel

def erasing (s : State) (timer : EraseTimer) : State :=
  { s with
    mirror := { s.mirror with state := .busyErase }
    journal := { s.journal with erase := some { heldErase with timer := timer } } }

theorem test_witness_status_erase :
    (erasing (bus .status 0 0) (.running 500)).mirror.state = .busyErase
      ∧ (erasing (bus .status 0 0) (.running 500)).journal.erase = some { heldErase with timer := .running 500 }
      ∧ heldErase.sector = some 1 ∧ heldErase.recovery = false ∧ 1 < ringSectors (bus .status 0 0)
      ∧ 1 < (bus .status 0 0).journal.sectors.length ∧ box.journal.state ≠ .inconsistent
      ∧ ({ heldErase with kind := .config, sector := none } : EraseCommit).sector = none := by decide +kernel

theorem test_witness_observed_erase :
    Observed (erasing (bus .status 0 0) (.running 500)) (txn box .status 0 0) (x 0 0x00) false false false
      ∧ Observed (erasing (bus .status 0 0) (.running 500)) (txn box .status 0 0) (x 0 0x20) false false true
      ∧ Observed (suspended (bus .status 0 0)) (txn box .status 0 0) (x 0 0x00) false false false :=
  ⟨observed (by decide +kernel), observed (by decide +kernel), observed (by decide +kernel)⟩

theorem test_witness_ring_held : RingHeld box := ⟨by decide +kernel, by decide +kernel, by decide +kernel⟩

/-- A recovery erase of sector 0, of a ring not adopted whose other sector has been seen erased. -/
def recovering : State :=
  let s := bus .status 0 0
  { s with
    mirror := { s.mirror with state := .busyErase }
    capture := { s.capture with coverage := List.replicate 16 false ++ List.replicate 112 true }
    journal := { s.journal with
      state := .notAdopted, head := 0, nextSeq := 0, everAdopted := false
      slots := List.replicate 512 .unseen ++ List.replicate 3584 .erased
      erase := some { heldErase with base := 0x020000, sector := some 0, recovery := true, timer := .running 500 } } }

theorem test_witness_recovery : Observed recovering (txn box .status 0 0) (x 0 0x00) false false false ∧ RingHeld recovering :=
  ⟨observed (by decide +kernel),
    ⟨by decide +kernel, by decide +kernel, by decide +kernel⟩⟩

/-- 07 R153: the recovery erase confirmed covers the last pages, and the empty ring is adopted. -/
theorem test_recovery_adopts :
    let u := after (.status 0 [x 0 0x00] none) (oneSector recovering)
    u.journal.state = .adopted ∧ u.journal.head = 0 ∧ u.journal.nextSeq = 0 ∧ u.journal.sectors[0]? = some ⟨.head, 0⟩ := by
  decide +kernel

/-- An erase of the sector of the head slot, under way when the ring was found changed. -/
def erasingHead : State :=
  let s := erasing (bus .status 0 0) (.running 500)
  { s with journal := { s.journal with
      state := .inconsistent, slots := List.replicate 4096 .unseen
      erase := some { heldErase with base := 0x020000, sector := some 0, timer := .running 500 } } }

theorem test_witness_erase_while_inconsistent :
    Observed erasingHead (txn box .status 0 0) (x 0 0x00) false false false ∧ RingHeld erasingHead :=
  ⟨observed (by decide +kernel), ⟨by decide +kernel, by decide +kernel, by decide +kernel⟩⟩

/-- 07 R132, R152: confirmed, it leaves the head's sector HEAD. -/
theorem test_erase_while_inconsistent :
    let u := after (.status 0 [x 0 0x00] none) erasingHead
    u.journal.state = .inconsistent ∧ u.journal.head = 3 ∧ u.journal.sectors[0]? = some ⟨.head, 0⟩ := by decide +kernel

theorem test_witness_observed_suspended :
    Observed (erasing (bus .status 0 0) (.running 500)) (txn box .status 0 0) (x 0 0x10) false true false
      ∧ Observed (suspended (bus .status 0 0)) (txn box .status 0 0) (x 0 0x01) true false false :=
  ⟨observed (by decide +kernel), observed (by decide +kernel)⟩

/-! ## Witnesses: verdicts -/

theorem complete (c : CmdClass) (addr n : Nat) (h : 1 ≤ n) : Complete (txn box c addr n) c :=
  ⟨fun _ => by show 3 ≤ 3 + n; omega, fun _ => by show 4 ≤ 3 + n; omega⟩

theorem test_witness_refusal :
    verdict (later (bus .erase64k 0x020000 1) 0) (txn box .erase64k 0x020000 1) .erase64k = .refused .eraseSpan none
      ∧ verdict (later (bus .eraseAll 0 1) 0) (txn box .eraseAll 0 1) .eraseAll = .refused .chipErase none
      ∧ (bus .block 0 0).txn = some (txn box .block 0 0) ∧ (txn box .block 0 0).cls = some .block := by decide +kernel

theorem test_witness_mirror_checks :
    isProtected (bus .program 0x040000 1) (txn box .program 0x040000 1) .program = true
      ∧ { box with mirror := { box.mirror with state := .unknown } }.mirror.state = .unknown
      ∧ { box with mirror := { box.mirror with wel := .clear } }.mirror.state ≠ .unknown := by decide +kernel

theorem no_commit_in_the_way (t : Txn) (c : CmdClass) : ¬ InTheWay box t c := by
  rintro (h | ⟨e, h, _⟩)
  · exact absurd h (by decide +kernel)
  · rw [show box.journal.erase = none from by decide +kernel] at h
    exact absurd h (by simp)

theorem test_witness_ready (t : Txn) (c : CmdClass) : Ready box t c :=
  ⟨by decide +kernel, by decide +kernel, no_commit_in_the_way t c⟩

theorem test_witness_in_the_way : InTheWay (committed box) (txn box .program 0x040000 1) .program :=
  .inl (by decide +kernel)

theorem test_witness_unlisted_code :
    box.inReset = false ∧ (∀ e ∈ box.cfg.commands, e.cls = .none ∨ e.code ≠ 0x99)
      ∧ box.cfgBase < (txn box .eraseAll 0 0).cfg.memSize := by decide +kernel

theorem test_witness_region_checks :
    touches (bus .program 0x030000 1) (txn box .program 0x030000 1) .program .window = true
      ∧ touches (bus .erase64k 0x02FFFF 1) (txn box .erase64k 0x02FFFF 1) .erase64k .journal = true
      ∧ touches (bus .erase64k 0x02FFFF 1) (txn box .erase64k 0x02FFFF 1) .erase64k .window = false
      ∧ touches (bus .erase4k 0x010000 1) (txn box .erase4k 0x010000 1) .erase4k .config = true
      ∧ touches (bus .program 0x041FFF 1) (txn box .program 0x041FFF 1) .program .guarded = true
      ∧ touches (bus .program 0x041FFF 1) (txn box .program 0x041FFF 1) .program .config = false
      ∧ box.inputs.maintActive = false := by decide +kernel

theorem test_witness_pass_region :
    isProtected (bus .program 0x042000 1) (txn box .program 0x042000 1) .program = false
      ∧ box.journal.prog = none ∧ box.journal.erase = none ∧ (committed box).journal.prog.isSome = true := by decide +kernel

def keyed (s : State) : State := { s with inputs := { s.inputs with maintActive := true } }

theorem test_witness_guarded_program :
    sectorKind (txn box .program 0x010020 1).cfg box.cfgBase ((txn box .program 0x010020 1).start / 4096) = .config
      ∧ sectorKind (txn box .program 0x040000 1).cfg box.cfgBase ((txn box .program 0x040000 1).start / 4096) = .guarded
      ∧ (keyed box).inputs.maintActive = true ∧ 4 ≤ (txn box .program 0x010020 1).count
      ∧ (suspended box).mirror.state = .eraseSuspended := by decide +kernel

theorem test_witness_beside_suspended : ¬ InTheWay (suspended box) (txn box .program 0x040000 1) .program := by
  rintro (h | ⟨e, h, k⟩)
  · exact absurd h (by decide +kernel)
  · have he : (suspended box).journal.erase = some heldErase := rfl
    rw [he] at h
    cases h
    exact k ⟨rfl, rfl, .inr ⟨.inr (by decide +kernel), .inr (by decide +kernel)⟩⟩

theorem test_witness_guarded_erase :
    touches (bus .erase64k 0x045678 1) (txn box .erase64k 0x045678 1) .erase64k .guarded = true
      ∧ touches (bus .erase64k 0x045678 1) (txn box .erase64k 0x045678 1) .erase64k .window = false
      ∧ touches (bus .erase64k 0x045678 1) (txn box .erase64k 0x045678 1) .erase64k .journal = false
      ∧ touches (bus .erase4k 0x010FFF 1) (txn box .erase4k 0x010FFF 1) .erase4k .config = true := by decide +kernel

theorem test_witness_journal_erase :
    sectorKind (txn box .erase4k 0x021000 1).cfg box.cfgBase ((txn box .erase4k 0x021000 1).start / 4096) = .journal
      ∧ ((txn box .erase4k 0x021000 1).start - ringBase box) / 4096 = 1 ∧ box.journal.sectors[1]? = some ⟨.full, 512⟩
      ∧ (∀ i : Str, box.table[i].liveSlot = some 0) ∧ box.journal.sectors[0]? = some ⟨.head, 3⟩
      ∧ (box.setEntry str5 { box.table[str5] with liveSlot := some 700 }).table[str5].liveSlot = some 700
      ∧ (keyed recovering).journal.state = .notAdopted ∧ (keyed recovering).inputs.maintActive = true
      ∧ box.inputs.maintActive = false := by decide +kernel

/-- 07 R133: the first sector after the HEAD sector that is not ERASED is the tail. -/
theorem box_is_tail : IsTail box 1 :=
  .inl ⟨0, by decide +kernel, by decide +kernel, by decide +kernel, fun _ h => absurd h (Nat.not_lt_zero _)⟩

/-- An append of one record at the head. -/
def appending : Txn :=
  { txn box .program 0x020018 8 with
    image := setMany 24 ((Record.bytes ⟨5, 2, 0, 7⟩).map some) (List.replicate 256 none) }

theorem test_witness_append :
    sectorKind appending.cfg box.cfgBase (appending.start / 4096) = .journal
      ∧ box.journal.head % 512 + 1 ≤ 512 ∧ box.journal.head < ringSlots box
      ∧ box.journal.head + 1 ≤ box.journal.slots.length
      ∧ box.journal.sectors[box.journal.head / 512]? = some ⟨.head, 3⟩ := by decide +kernel

/-- A box whose head is the last slot of sector 0, before an erased sector. -/
def nearlyFull : State :=
  { box with
    journal := { box.journal with
      head := 511
      sectors := [⟨.head, 511⟩, ⟨.erased, 0⟩] ++ List.replicate 6 ⟨.unseen, 0⟩
      slots := List.replicate 511 .corrupt ++ List.replicate 513 .erased ++ List.replicate 3072 .unseen } }

def lastSlot : Txn :=
  { txn nearlyFull .program 0x020FF8 8 with
    image := setMany 248 ((Record.bytes ⟨5, 2, 0, 7⟩).map some) (List.replicate 256 none) }

theorem test_witness_append_fills_sector :
    nearlyFull.journal.head % 512 + 1 = 512
      ∧ nearlyFull.journal.sectors[511 / 512]? = some ⟨.head, 511⟩ ∧ 511 < ringSlots nearlyFull
      ∧ 511 + 1 ≤ nearlyFull.journal.slots.length := by decide +kernel

/-- 07 R132: the sector that the head leaves is FULL, and the next is HEAD. -/
theorem test_append_fills_sector :
    let u := after (.program 0 [] (some rel)) (withTxn nearlyFull lastSlot)
    u.journal.head = 512 ∧ u.journal.sectors.take 2 = [⟨.full, 512⟩, ⟨.head, 0⟩] ∧ u.table[str5].coherence = .pending := by
  decide +kernel

theorem test_witness_append_refused :
    writtenRange box appending = (List.range 1).map (box.journal.head + ·)
      ∧ writtenRange box { appending with start := 0x020100 } ≠ (List.range 1).map (box.journal.head + ·)
      ∧ recovering.journal.state = .notAdopted ∧ (suspended box).mirror.state = .eraseSuspended
      ∧ stateOf box (3 / 512) = some .head ∧ stateOf box (512 / 512) ≠ some .head := by decide +kernel

/-- A slot with one byte written is not whole, whatever the contents. -/
theorem test_witness_not_whole : ∀ contents, ¬ Whole (txn box .program 0x020018 1).image contents := by
  intro contents h
  have e : (touched (txn box .program 0x020018 1).image).map (slotBytes (txn box .program 0x020018 1).image)
      = [[some 0xA5, none, none, none, none, none, none, none]] := by decide +kernel
  rw [Whole, e] at h
  have m : (none : Option Byte) ∈ (contents.map fun bs => bs.map some).flatten := by
    rw [h]
    decide
  simp at m

theorem test_witness_not_suspended :
    ¬ (box.mirror.state = .eraseSuspended ∧ ∃ e, box.journal.erase = some e ∧ e.sector = some (box.journal.head / 512)) :=
  fun h => absurd h.1 (by decide +kernel)

theorem formed (s : State) (r : Record) (h : (Record.bytes r).length = 8 ∧ s.cfg.stringCount = 24
    ∧ byteAt (Record.bytes r) 0 = 0xA5 ∧ (byteAt (Record.bytes r) 1).toNat = 5
    ∧ Disposition.ofByte (byteAt (Record.bytes r) 2) = Disposition.ofByte r.disp ∧ checkOk (Record.bytes r) = true)
    (d : Disposition) (hd : Disposition.ofByte r.disp = some d) : FormOk s (Record.bytes r) str5 d :=
  ⟨h.2.2.1, ⟨h.2.2.2.1, by rw [h.2.1]; decide⟩, h.2.2.2.2.1.trans hd, h.2.2.2.2.2⟩

theorem test_witness_at_head : AtHead box appending [Record.bytes ⟨5, 2, 0, 7⟩] :=
  ⟨by decide +kernel, by unfold Whole; decide +kernel, by decide +kernel, test_witness_not_suspended, by decide +kernel⟩

theorem test_witness_at_head_of_full : AtHead nearlyFull lastSlot [Record.bytes ⟨5, 2, 0, 7⟩] :=
  ⟨by decide +kernel, by unfold Whole; decide +kernel, by decide +kernel, fun h => absurd h.1 (by decide +kernel), by decide +kernel⟩

/-- The record passes every check of R138 to R140 against the state as it stands. -/
theorem test_witness_projects :
    (∃ p, Projects box (asItStands box) [Record.bytes ⟨5, 2, 0, 7⟩] p)
      ∧ ∃ p, Projects nearlyFull (asItStands nearlyFull) [Record.bytes ⟨5, 2, 0, 7⟩] p :=
  ⟨⟨_, .cons _ _ _ _ str5 .isolate
      ⟨⟨formed _ _ (by decide +kernel) _ rfl, by decide +kernel, by decide +kernel, .inl (by decide +kernel)⟩,
        fun h => absurd h.1 (by decide), fun h => absurd h.2.1 (by decide +kernel), .inr (by decide +kernel)⟩ (.nil _)⟩,
    ⟨_, .cons _ _ _ _ str5 .isolate
      ⟨⟨formed _ _ (by decide +kernel) _ rfl, by decide +kernel, by decide +kernel, .inl (by decide +kernel)⟩,
        fun h => absurd h.1 (by decide), fun h => absurd h.2.1 (by decide +kernel), .inr (by decide +kernel)⟩ (.nil _)⟩⟩

/-- The live record of string 5 lies in the tail, and is carried forward with the reserve below its bound (R140). -/
def oldLive : State := box.setEntry str5 { box.table[str5] with liveSlot := some 600 }

theorem test_witness_carry_forward :
    Passes oldLive { asItStands oldLive with reserve := 24 } (Record.bytes ⟨5, 1, 0, 7⟩) str5 .connect :=
  ⟨⟨formed _ _ (by decide +kernel) _ rfl, by decide +kernel, by decide +kernel, .inl (by decide +kernel)⟩,
    fun h => absurd h.2 (by decide +kernel), fun h => absurd h.2.1 (by decide +kernel),
    .inl ⟨⟨1, 600, .inl ⟨0, by decide +kernel, by decide +kernel, by decide +kernel, fun _ h => absurd h (Nat.not_lt_zero _)⟩,
      by decide +kernel, by decide +kernel, by decide⟩, by decide +kernel, .inl (by decide +kernel)⟩⟩

theorem box_live : (asItStands box).live[str5] = some 0 := by decide +kernel

/-- One record for each check of R138 to R140 that it is the first to fail. -/
theorem test_witness_fails_form :
    Fails box (asItStands box) (List.replicate 8 0) .badMarker
      ∧ Fails box (asItStands box) (Record.bytes ⟨24, 2, 0, 7⟩) .badString
      ∧ Fails box (asItStands box) (Record.bytes ⟨5, 4, 0, 7⟩) .badDisposition
      ∧ Fails box (asItStands box) (Record.body ⟨5, 2, 0, 7⟩ ++ [0, 0]) .badCheck
      ∧ Fails box (asItStands box) (Record.bytes ⟨5, 2, 0, 8⟩) .badSequence :=
  ⟨.marker (by decide), .string (by decide +kernel) fun i h =>
      absurd (h.1.symm.trans (show (byteAt (Record.bytes ⟨24, 2, 0, 7⟩) 1).toNat = 24 by decide +kernel)) (by omega),
    .disposition str5 (by decide +kernel) ⟨by decide +kernel, by decide +kernel⟩ (by decide +kernel),
    .check str5 (by decide +kernel) ⟨by decide +kernel, by decide +kernel⟩ (by decide +kernel) (by decide +kernel),
    .sequence str5 .isolate (formed _ _ (by decide +kernel) _ rfl) (by decide +kernel)⟩

def caused (present latched : CauseSet) : State := box.setEvid str5 { Evidence.reset with present := present, latched := latched }

def locked : State := box.setEntry str5 { box.table[str5] with recorded := .lockout }

theorem test_witness_fails_effects :
    Fails (caused 0x01 0) (asItStands (caused 0x01 0)) (Record.bytes ⟨5, 2, 0x01, 7⟩) .causePresent
      ∧ Fails box (asItStands box) (Record.bytes ⟨5, 2, 0x80, 7⟩) .maintRequired
      ∧ Fails (caused 0 0x01) (asItStands (caused 0 0x01)) (Record.bytes ⟨5, 1, 0, 7⟩) .causeLatched
      ∧ Fails locked (asItStands locked) (Record.bytes ⟨5, 2, 0, 7⟩) .lockoutHeld
      ∧ Fails box { asItStands box with reserve := 24 } (Record.bytes ⟨5, 2, 0, 7⟩) .journalFull := by
  refine ⟨.present str5 .isolate (formed _ _ (by decide +kernel) _ rfl) (by decide +kernel) (by decide +kernel),
    .maint str5 .isolate (formed _ _ (by decide +kernel) _ rfl) (by decide +kernel) (by decide +kernel) (by decide +kernel)
      (by decide +kernel),
    .latched str5 .connect ⟨formed _ _ (by decide +kernel) _ rfl, by decide +kernel, by decide +kernel, .inl (by decide +kernel)⟩
      ⟨rfl, by decide +kernel⟩,
    .lockout str5 .isolate ⟨formed _ _ (by decide +kernel) _ rfl, by decide +kernel, by decide +kernel, .inl (by decide +kernel)⟩
      (fun h => absurd h.1 (by decide)) ⟨.inr rfl, by decide +kernel, by decide +kernel⟩,
    .full str5 .isolate ⟨formed _ _ (by decide +kernel) _ rfl, by decide +kernel, by decide +kernel, .inl (by decide +kernel)⟩
      (fun h => absurd h.1 (by decide)) (fun h => absurd h.2.1 (by decide +kernel)) ?_ (by decide +kernel)⟩
  rintro ⟨⟨j, k, _, hs, h, hk⟩, _⟩
  rw [show ({ asItStands box with reserve := 24 } : Projection).live[str5] = (asItStands box).live[str5] from rfl,
    box_live] at h
  cases h
  subst hk
  exact hs (by decide +kernel)

/-- 07 R138: the first record that fails refuses the program and names its string. -/
theorem test_append_refused :
    let t := { appending with image := setMany 24 ((Record.bytes ⟨5, 2, 0, 8⟩).map some) (List.replicate 256 none) }
    (after (.program 0 [] (some rel)) (withTxn box t)).mirror.lastRefusal = ⟨some .badSequence, some str5, .program, 0x020018⟩ := by
  decide +kernel

/-! ## Witnesses: reads -/

/-- The configuration block of the built-in defaults with the region map of the boot example (10.3). -/
def blockBody : List Byte :=
  [0xB2, 0x44, 1, 24, 4, 0, 1, 4, 5] ++ List.replicate 7 0
    ++ [0x41, 1, 0, 0x42, 2, 1, 0x57, 3, 0, 0x51, 4, 0, 0x50, 5, 0, 0x62, 6, 0, 0x71, 7, 0, 0x74, 8, 0, 0x7F, 9, 0,
      0x6A, 0xA, 0, 0x6B, 0xB, 0, 0x5F, 0xC, 0] ++ List.replicate 12 0
    ++ [1, 0, 0x20, 4, 2, 0, 0xFF, 1] ++ List.replicate 24 0
    ++ [5, 32, 150, 20, 0x05, 0xDC, 3, 0x46, 0x50, 5, 0x03, 0xE8, 64, 0, 200, 30, 0x0B, 0x06, 2, 20, 40, 10, 0, 100,
      1, 44, 10, 40, 2, 0, 0, 0, 0, 100, 0, 200, 2, 5, 20, 60, 10, 0x01, 0xF4] ++ List.replicate 115 0

def block : List Byte := blockBody ++ [hi (crc16 blockBody), lo (crc16 blockBody)]

/-- A read of `bs` from an offset of the block on, at its release. -/
def blockRead (s : State) (off : Nat) (bs : List Byte) : Txn :=
  { newTxn s (some 0x41) with
    count := 3 + bs.length, start := 0x010000 + off, addr := 0x010000 + off + bs.length, stream := (bs.map some).reverse }

/-- A part just started, with the mirror IDLE. -/
def idleStart : State := { started with mirror := { started.mirror with state := .idle } }

/-- The first read of the block after a reset. -/
def firstRead (bs : List Byte) : State := withTxn idleStart (blockRead idleStart 0 bs)

theorem test_block_is_the_defaults :
    blockOk 16 block = true
      ∧ parseBlock block = { Config.builtin with regions := [⟨.journal, 0x20, 4⟩, ⟨.window, 0xFF, 1⟩] } := by decide +kernel

set_option synthInstance.maxSize 2000 in
/-- The block passes by its bytes (R172, R181 to R183). -/
theorem test_witness_block_passes : BlockPasses 16 block where
  tag := by decide +kernel
  version := by decide +kernel
  check := by decide +kernel
  fields := by decide +kernel
  pairs := by decide +kernel
  commands := by decide +kernel
  kinds := by decide +kernel
  codes := by decide +kernel
  bits := by decide +kernel
  journal := by decide +kernel
  window := by decide +kernel
  guarded := by decide +kernel
  counts := by decide +kernel
  apart := by decide +kernel
  config := by decide +kernel
  memory := by decide +kernel

/-- With 25 strings, or with another byte under the old check, it does not. -/
theorem test_witness_block_fails : ¬ BlockPasses 16 (block.set 3 25) ∧ ¬ BlockPasses 16 (block.set 3 23) :=
  ⟨fun h => absurd (h.fields.1 (3, 1, 24) (by decide)).2 (by decide +kernel), fun h => absurd h.check (by decide +kernel)⟩

theorem test_witness_block_fields : HoldsConfig block (parseBlock block) where
  memory := by decide +kernel
  bits := by decide +kernel
  commands := by decide +kernel
  regions := by decide +kernel
  scan := by decide +kernel
  trips := by decide +kernel
  enables := by decide +kernel
  options := by decide +kernel
  switches := by decide +kernel
  search := by decide +kernel
  commits := by decide +kernel

theorem test_witness_first_adoption :
    (firstRead block).txn = some (blockRead idleStart 0 block) ∧ (blockRead idleStart 0 block).cls = some .read
      ∧ (blockRead idleStart 0 block).cfg.regions = [] ∧ (firstRead block).capture.adopted = false
      ∧ (∀ j : Fin 8, (segmentAfter (firstRead block) (blockRead idleStart 0 block) j).valid = true)
      ∧ blockAfter (firstRead block) (blockRead idleStart 0 block) = block := by decide +kernel

/-- A read of the first four segments, and a second read of the others. -/
def halfRead : State := withTxn idleStart (blockRead idleStart 0 (block.take 128))

def restRead : State := withTxn (after (.read 0 [] (some rel)) halfRead) (blockRead idleStart 128 (block.drop 128))

theorem test_witness_segments_of_two_reads :
    (segmentAfter halfRead (blockRead idleStart 0 (block.take 128)) 4).valid = false
      ∧ halfRead.txn = some (blockRead idleStart 0 (block.take 128))
      ∧ restRead.txn = some (blockRead idleStart 128 (block.drop 128))
      ∧ (∀ j : Fin 8, (segmentAfter restRead (blockRead idleStart 128 (block.drop 128)) j).valid = true)
      ∧ blockAfter restRead (blockRead idleStart 128 (block.drop 128)) = block := by decide +kernel

/-- 09 R170: two reads capture the block together. -/
theorem test_two_reads_adopt :
    restRead.capture.state = .default ∧ (after (.read 0 [] (some rel)) restRead).capture.state = .adopted := by decide +kernel

/-- The block with other values of N and K, under its own check word. -/
def blockWith (n k : Byte) : List Byte :=
  let b := (blockBody.set 3 n).set 124 k
  b ++ [hi (crc16 b), lo (crc16 b)]

/-- 01 R2, 04 R81: strings 20 to 23 leave presence at a first adoption of 20 strings. -/
theorem test_leaving_presence :
    blockOk 16 (blockWith 20 2) = true ∧ (parseBlock (blockWith 20 2)).stringCount = 20
      ∧ (let u := after (.read 0 [] (some rel)) (firstRead (blockWith 20 2))
        u.cfg.stringCount = 20 ∧ u.seqs[(23 : Str)].state = .unfound ∧ u.capture.deferred = false) := by decide +kernel

theorem test_witness_leaving_presence :
    (firstRead (blockWith 20 2)).search.phase = .idle ∧ (firstRead (blockWith 20 2)).search.stage = .none
      ∧ 23 < (firstRead (blockWith 20 2)).cfg.stringCount := by decide +kernel

/-- A read of a block once a configuration is adopted. -/
def laterRead (bs : List Byte) : State := withTxn box (blockRead box 0 bs)

theorem test_witness_later_adoption :
    (laterRead block).capture.adopted = true ∧ (laterRead block).txn = some (blockRead box 0 block)
      ∧ (blockRead box 0 block).cls = some .read
      ∧ (∀ j : Fin 8, (segmentAfter (laterRead block) (blockRead box 0 block) j).valid = true)
      ∧ blockAfter (laterRead block) (blockRead box 0 block) = block ∧ (parseBlock block).regions ≠ box.cfg.regions := by decide +kernel

/-- 09 R174: a later adoption leaves N and says so; 04 R79: a K below the grants in use waits. -/
theorem test_later_adoption :
    (laterAdoption box (parseBlock (blockWith 20 2))).cfg.stringCount = 24
      ∧ (laterAdoption box (parseBlock (blockWith 20 2))).capture.deferred = true
      ∧ (laterAdoption box box.cfg).capture.deferred = false
      ∧ (adoptK ((withSeq (running .open_ .pulse false)).setSeq 6 (running .open_ .pulse false)) 1).arb = ⟨[], 2, some 1⟩
      ∧ (adoptK box 1).arb = ⟨[], 1, none⟩ := by decide +kernel

/-- A read of `bs` from an address of the ring on. -/
def ringRead (addr : Nat) (bs : List Byte) : Txn := { txn box .read addr bs.length with stream := (bs.map some).reverse }

/-- A read of slot 1 that shows another record. -/
def changed : Txn := ringRead 0x020008 (Record.bytes ⟨1, 2, 0, 5⟩)

theorem test_witness_changed_ring :
    (withTxn box changed).txn = some changed ∧ journalRegion changed.cfg ≠ none ∧ box.journal.state = .adopted
      ∧ box.capture.adopted = true ∧ 1 < ringSlots box ∧ box.journal.slots[1]? = some (.record ⟨1, 1, 0, 5⟩)
      ∧ changed.cls = some .read := by decide +kernel

theorem test_witness_changes : Changes box changed :=
  ⟨1, by decide +kernel, .inl ⟨⟨1, 1, 0, 5⟩, ⟨1, 2, 0, 5⟩, by decide +kernel,
    ⟨Record.bytes ⟨1, 2, 0, 5⟩, by decide +kernel, by decide +kernel⟩, by decide⟩⟩

/-- The records of two doubtful slots; the ring holds nothing else that a read could change or damage. -/
def doubted : State :=
  { box with
    journal := { box.journal with
      state := .doubtful
      slots := [.corrupt, .doubtful, .doubtful] ++ List.replicate 4093 .unseen
      doubt := some ⟨1, [⟨1, 1, 0, 5⟩, ⟨2, 2, 0, 6⟩]⟩ } }

theorem doubted_slots (k : Nat) (y : Summary) (h : doubted.journal.slots[k]? = some y) : y = .corrupt ∨ y = .doubtful ∨ y = .unseen := by
  have m := List.mem_of_getElem? h
  rw [show doubted.journal.slots = [.corrupt, .doubtful, .doubtful] ++ List.replicate 4093 .unseen from rfl] at m
  simp only [List.mem_append, List.mem_cons, List.mem_replicate, List.not_mem_nil, or_false] at m
  rcases m with (h | h | h) | h
  · exact .inl h
  · exact .inr (.inl h)
  · exact .inr (.inl h)
  · exact .inr (.inr h.2)

theorem test_witness_no_change (t : Txn) : ¬ Changes doubted t ∧ ∀ k, ¬ Damages doubted t k := by
  refine ⟨?_, ?_⟩
  · rintro ⟨k, _, (⟨q, _, h, _⟩ | ⟨_, h, _⟩)⟩ <;> rcases doubted_slots k _ h with h | h | h <;> simp at h
  · rintro k ⟨_, q, h, _⟩
    rcases doubted_slots k _ h with h | h | h <;> simp at h

/-- The first doubtful slot reads as its record, the second as erased. -/
def resolving : Txn := ringRead 0x020008 (Record.bytes ⟨1, 1, 0, 5⟩ ++ List.replicate 8 0xFF)

theorem test_witness_resolution :
    ShowsDoubt doubted resolving ⟨1, [⟨1, 1, 0, 5⟩, ⟨2, 2, 0, 6⟩]⟩ ([.record ⟨1, 1, 0, 5⟩] ++ List.replicate 1 .erased)
      ∧ RingHeld doubted ∧ 1 < ringSlots doubted ∧ 1 / 512 < doubted.journal.sectors.length
      ∧ resolving.start < resolving.cfg.memSize := by
  refine ⟨⟨rfl, rfl, fun j y h => ?_⟩, ⟨by decide +kernel, by decide +kernel, by decide +kernel⟩, by decide +kernel, by decide +kernel,
    by decide +kernel⟩
  match j, h with
  | 0, h => cases h; exact ⟨Record.bytes ⟨1, 1, 0, 5⟩, by decide +kernel, by decide +kernel⟩
  | 1, h => cases h; exact ⟨List.replicate 8 0xFF, by decide +kernel, by decide +kernel⟩
  | j + 2, h => simp at h

/-- 07 R145: the second slot is freed, the head returns to it, and the record of the first is applied. -/
theorem test_resolution :
    let u := after (.read 0 [] (some rel)) (withTxn (oneSector doubted) resolving)
    u.journal.state = .adopted ∧ u.journal.head = 2 ∧ u.journal.nextSeq = 6 ∧ u.journal.sectors[0]? = some ⟨.head, 2⟩
      ∧ u.table[(1 : Str)].liveSlot = some 1 ∧ u.journal.outcome = ⟨.program, .resolved, 0x020008⟩ := by decide +kernel

/-- 07 R145, R151: a resolution beside damage and beside a sector that stays UNKNOWN; the string whose record isolates it opens. -/
theorem test_resolution_beside_damage :
    let s := { doubted with
      journal := { doubted.journal with
        slots := .record ⟨3, 1, 0, 4⟩ :: .doubtful :: .doubtful :: List.replicate 4093 .unseen
        sectors := ⟨.unknown, 0⟩ :: doubted.journal.sectors.tail
        doubt := some ⟨1, [⟨1, 2, 0, 5⟩, ⟨2, 2, 0, 6⟩]⟩ } }
    let t := ringRead 0x020000 (List.replicate 8 0xFF ++ Record.bytes ⟨1, 2, 0, 5⟩ ++ List.replicate 8 0xFF)
    let u := after (.read 0 [] (some rel)) (withTxn (oneSector s) t)
    u.journal.state = .adopted ∧ u.journal.slots.take 3 = [.corrupt, .record ⟨1, 2, 0, 5⟩, .erased]
      ∧ u.journal.sectors[0]? = some ⟨.unknown, 0⟩ ∧ u.table[(3 : Str)].damaged = true ∧ u.table[(1 : Str)].damaged = false
      ∧ u.table[(1 : Str)].recorded = .isolate ∧ u.seqs[(1 : Str)].state = .opening := by decide +kernel

/-- 07 R145: a read that begins inside the range and wraps over the whole memory shows every slot of it too. -/
theorem test_wrapped_read_shows :
    let r : ReadStream := ⟨4, 16, ((Record.bytes ⟨1, 1, 0, 5⟩ ++ Record.bytes ⟨2, 2, 0, 6⟩).drop 4
      ++ (Record.bytes ⟨1, 1, 0, 5⟩).take 4).map some⟩
    r.bytes 0 8 = some (Record.bytes ⟨1, 1, 0, 5⟩) ∧ r.bytes 8 8 = some (Record.bytes ⟨2, 2, 0, 6⟩)
      ∧ (⟨4, 16, r.data.take 15⟩ : ReadStream).bytes 0 8 = none ∧ r.at 0 8 = none := by decide +kernel

/-- The first slot erased, the second a record. -/
def gapped : Txn := ringRead 0x020008 (List.replicate 8 0xFF ++ Record.bytes ⟨2, 2, 0, 6⟩)

theorem test_witness_gap : Gap doubted gapped := by
  refine ⟨⟨1, [⟨1, 1, 0, 5⟩, ⟨2, 2, 0, 6⟩]⟩, [.erased, .record ⟨2, 2, 0, 6⟩], 0, 1, .record ⟨2, 2, 0, 6⟩,
    ⟨rfl, rfl, fun j y h => ?_⟩, by decide, rfl, rfl, by decide⟩
  match j, h with
  | 0, h => cases h; exact ⟨List.replicate 8 0xFF, by decide +kernel, by decide +kernel⟩
  | 1, h => cases h; exact ⟨Record.bytes ⟨2, 2, 0, 6⟩, by decide +kernel, by decide +kernel⟩
  | j + 2, h => simp at h

/-- One record in the ring, of string 1, beside a sector that has become UNKNOWN, and a read that shows the record's slot erased. -/
def single : State :=
  { box with
    journal := { box.journal with
      slots := .record ⟨1, 1, 0, 5⟩ :: List.replicate 4095 .unseen
      sectors := [⟨.head, 3⟩, ⟨.unknown, 0⟩] ++ List.replicate 6 ⟨.unseen, 0⟩ }
    table := box.table.set (1 : Str) { box.table[(1 : Str)] with liveSlot := some 0 } }

def damaging : Txn := ringRead 0x020000 (List.replicate 8 0xFF)

theorem judged_erased : judgeSlot (List.replicate 8 0xFF) = .erased := by decide +kernel

theorem test_witness_damage :
    ¬ Changes single damaging ∧ Damages single damaging 0 ∧ (∀ d seen, ¬ ShowsDoubt single damaging d seen)
      ∧ damaging.start < damaging.cfg.memSize ∧ stateOf single 1 = some .unknown := by
  have shown : damaging.readStream.bytes (ringBase single + 8 * 0) 8 = some (List.replicate 8 0xFF) := by decide +kernel
  have rest : ∀ k y, single.journal.slots[k]? = some y → k = 0 ∨ y = .unseen := by
    intro k y h
    rw [show single.journal.slots = .record ⟨1, 1, 0, 5⟩ :: List.replicate 4095 .unseen from rfl] at h
    match k, h with
    | 0, _ => exact .inl rfl
    | k + 1, h =>
      rw [List.getElem?_cons_succ] at h
      exact .inr (List.eq_of_mem_replicate (List.mem_of_getElem? h))
  refine ⟨?_, ⟨by decide +kernel, ⟨1, 1, 0, 5⟩, rfl, .inl ⟨_, shown, by decide +kernel⟩⟩,
    fun d seen h => absurd h.1 (by simp [single, box, Journal.reset]), by decide +kernel⟩
  rintro ⟨k, _, (⟨q, q', h, ⟨bs, hb, hj⟩, _⟩ | ⟨y, h, _⟩)⟩
  · rcases rest k _ h with h0 | h0
    · subst h0
      rw [shown] at hb
      cases hb
      exact absurd (judged_erased.symm.trans hj) (by simp)
    · simp at h0
  · rcases rest k _ h with h0 | h0
    · subst h0
      simp [single] at h
    · simp at h0

/-- 07 R150, R151: the slot is CORRUPT and the strings whose live slot it is are marked; the sector that the read does not show stays UNKNOWN. -/
theorem test_damage :
    let u := after (.read 0 [] (some rel)) (withTxn (oneSector single) damaging)
    u.journal.sectors[1]? = some ⟨.unknown, 0⟩ ∧ u.journal.slots[0]? = some .corrupt ∧ u.table[(1 : Str)].damaged = true ∧ u.journal.state = .adopted := by decide +kernel

theorem allSome_map {α β : Type} (f : α → Option β) (g : α → β) :
    ∀ xs : List α, (∀ a ∈ xs, f a = some (g a)) → allSome (xs.map f) = some (xs.map g)
  | [], _ => rfl
  | a :: xs, h => by
    simp only [List.map_cons, h a (by simp), allSome, allSome_map f g xs fun b hb => h b (by simp [hb]), Option.map_some]

/-- A read of `n` equal bytes from `a` on shows them all. -/
theorem shown_replicate (a m n : Nat) (b : Byte) (h : n ≤ m) :
    (⟨a, m, List.replicate n (some b)⟩ : ReadStream).bytes a n = some ((upTo n).map fun _ => b) := by
  refine allSome_map _ _ _ fun k hk => ?_
  have hk : k < n := List.mem_range.mp hk
  have e : (a + k + m - a) % m = k := by
    rw [show a + k + m - a = k + m from by omega, Nat.add_mod_right, Nat.mod_eq_of_lt (by omega)]
  simp only [ReadStream.byteAt, List.length_replicate, e, hk, if_true]
  rw [Nat.div_eq_of_lt (show n - 1 - k < m by omega), Nat.mul_zero, Nat.add_zero]
  simp [List.getD_eq_getElem?_getD, hk]

/-- A sector that has become UNKNOWN, and a read of all of it as erased. -/
def lost : State :=
  { doubted with
    journal := { doubted.journal with
      state := .adopted, doubt := none
      sectors := [⟨.head, 3⟩, ⟨.unknown, 0⟩] ++ List.replicate 6 ⟨.unseen, 0⟩ } }

def wholeRead : Txn := { txn box .read 0x021000 4096 with stream := List.replicate 4096 (some 0xFF) }

theorem test_witness_sector_shown_erased :
    lost.journal.sectors[1]? = some ⟨.unknown, 0⟩ ∧ 1 < ringSectors lost ∧ wholeRead.start < wholeRead.cfg.memSize
      ∧ (∀ d seen, ¬ ShowsDoubt lost wholeRead d seen) ∧ ShowsErased lost wholeRead 1 := by
  refine ⟨by decide +kernel, by decide +kernel, by decide +kernel, fun d seen h => absurd h.1 (by simp [lost]), ?_, fun n y h _ => ?_⟩
  · have e : wholeRead.readStream = ⟨0x021000, 16 * 1048576, List.replicate 4096 (some 0xFF)⟩ := by
      simp only [Txn.readStream, wholeRead, List.reverse_replicate]
      rfl
    have a : ringBase lost + 4096 * 1 = 0x021000 := by decide +kernel
    rw [e, a, shown_replicate _ _ _ _ (by decide)]
    rfl
  · rw [show wholeRead.stream.reverse = List.replicate 4096 (some 0xFF) from List.reverse_replicate] at h
    exact List.eq_of_mem_replicate (List.mem_of_getElem? h)

theorem test_witness_becomes_erased : BecomesErased lost wholeRead 1 :=
  ⟨test_witness_sector_shown_erased.2.1, by decide +kernel, test_witness_sector_shown_erased.2.2.2.2⟩

/-- A read of a page of a ring not adopted. -/
theorem test_witness_ring_read :
    (withTxn recovering (ringRead 0x020000 (List.replicate 256 0xFF))).txn.map (·.cls) = some (some .read)
      ∧ recovering.capture.adopted = true ∧ journalRegion recovering.cfg ≠ none
      ∧ (ringRead 0x020000 (List.replicate 256 0xFF)).readStream.bytes (ringBase recovering) 256 = some (List.replicate 256 0xFF) := by
  decide +kernel

theorem test_changed_ring_is_inconsistent :
    (after (.read 0 [] (some rel)) (withTxn box changed)).journal.state = .inconsistent := by decide +kernel

/-! ## Witnesses: measurement and search -/

def scanning (s : State) : State := { s with scan := { s.scan with timer := some 50000, job := some ⟨10, 40000, 24, 32000, 15000⟩ } }

theorem test_witness_scan_start :
    { box with scan := { box.scan with timer := some 50000 } }.scan.timer = some 50000 ∧ box.scan.job = none
      ∧ 50000 ≤ box.now + 50000 := by decide +kernel

theorem test_witness_scan_due : ScanDue (scanning box) 40000 ⟨10, 40000, 24, 32000, 15000⟩ := ⟨rfl, by decide +kernel⟩

theorem test_witness_found_state :
    (scanning started).scan.found = false ∧ (scanning started).seqs[str5] = Seq.reset
      ∧ str5.val < (scanning started).cfg.stringCount := by decide +kernel

/-- 04 R61: found closed while shutdown is active, the strings ask for their opens, and the first two get them. -/
theorem test_found_closed_and_isolated :
    let s := scanning { started with inputs := { started.inputs with shdnActive := true } }
    let u := after (.scanCompletion 40000 (flat 0 2048) 2048) s
    s.seqs[str5] = Seq.reset ∧ u.table[str5].target = .isolated ∧ u.seqs[str5] = { Seq.reset with state := .openQueued }
      ∧ ⟨5, .open_⟩ ∈ u.arb.queue
      ∧ u.seqs[(0 : Str)] = startedAt { Seq.reset with state := .openQueued } .open_ u.cfg u.now := by decide +kernel

theorem test_witness_reverse :
    (scanning box).seqs[str5].state = .closed ∧ (scanning box).seqs[str5].probation = 0 ∧ box.cfg.enRev = true
      ∧ CauseSet.has box.evid[str5].latched .reverse = false
      ∧ currentOf 32000 (-96) ≤ -(box.cfg.iRev : Int) ∧ box.cfg.cRev ≤ 255 := by decide +kernel

theorem test_reverse_trips_at_the_third :
    let s := scanning (box.setEvid str5 { Evidence.reset with revCount := 2 })
    let t := after (.scanCompletion 40000 (flat (-96) 2048) 2048) s
    t.evid[str5].latched = 0x01 ∧ t.table[str5].target = .isolated ∧ t.evid[(4 : Str)].latched = 0 := by decide +kernel

theorem test_witness_causes :
    (scanning (withSeq { Seq.reset with state := .closed, probation := 1 })).seqs[str5].probation ≠ 0
      ∧ (scanning (withSeq { Seq.reset with state := .opened })).seqs[str5].state ≠ .closed
      ∧ box.evid[str5].winScans + 1 < box.cfg.devWindow ∧ box.cfg.devWindow ≤ 199 + 1 := by decide +kernel

/-- 03 R47: on probation one completion above I_max latches PROBATION. -/
theorem test_probation_trips :
    let s := scanning (withSeq { Seq.reset with state := .closed, probation := 1 })
    let t := after (.scanCompletion 40000 (flat 1152 2048) 2048) s
    t.evid[str5].latched = 0x08 ∧ t.table[str5].target = .isolated ∧ t.evid[(4 : Str)].latched = 0
      ∧ t.evid[(4 : Str)].ovcCount = 1 := by decide +kernel

theorem test_witness_zero_check :
    (scanning (withSeq { Seq.reset with state := .opening })).seqs[str5].act = none
      ∧ (scanning (withSeq { Seq.reset with state := .opening })).seqs[str5].bypassOffAt < 10
      ∧ (currentOf 32000 6).natAbs < box.cfg.iZero ∧ box.cfg.iZero ≤ (currentOf 32000 7).natAbs := by decide +kernel

/-- Every contact open, at a voltage code. -/
def open_ (voltage : Int) : Vector Sample 24 := Vector.replicate 24 ⟨0, voltage, false⟩

/-- String 5 with a sequencer at a scan completion, isolated by its record if `iso`. -/
def scanned (q : Seq) (iso : Bool) : State :=
  let s := scanning (withSeq q)
  if iso then s.setEntry str5 { s.table[str5] with recorded := .isolate } else s

theorem test_witness_qualify :
    (scanned { Seq.reset with state := .qualify, qual := 9 } false).seqs[str5].state = .qualify
      ∧ box.cfg.qualCount ≤ min 255 (9 + 1) ∧ min 255 (8 + 1) < box.cfg.qualCount
      ∧ mismatches { Seq.reset with state := .qualify, qual := 9 } false false < 2
      ∧ Near box.cfg.vMatch (voltageOf 15000 2048) (voltageOf 15000 2048)
      ∧ ¬ Near box.cfg.vMatch (voltageOf 15000 0) (voltageOf 15000 2048) := by
  unfold Near
  decide +kernel

/-- 04 R63: the tenth matching completion brings the close, an isolated target takes the switch back, and a difference starts again. -/
theorem test_qualify :
    let u := after (.scanCompletion 40000 (open_ 2048) 2048) (scanned { Seq.reset with state := .qualify, qual := 9 } false)
    let v := after (.scanCompletion 40000 (open_ 2048) 2048) (scanned { Seq.reset with state := .qualify, qual := 9 } true)
    let w := after (.scanCompletion 40000 (open_ 0) 2048) (scanned { Seq.reset with state := .qualify, qual := 9 } false)
    u.seqs[str5].state = .closing ∧ u.seqs[str5].qual = 10 ∧ u.search.phase = .idle
      ∧ v.seqs[str5].state = .opened ∧ v.table[str5].target = .isolated
      ∧ w.seqs[str5].state = .qualify ∧ w.seqs[str5].qual = 0 := by decide +kernel

theorem test_witness_mismatches :
    2 ≤ mismatches { Seq.reset with state := .closed, mismatch := 1 } true false
      ∧ 2 ≤ mismatches { Seq.reset with state := .openQueued, mismatch := 1 } true false
      ∧ 2 ≤ mismatches { Seq.reset with state := .opened, mismatch := 1 } false true
      ∧ mismatches { Seq.reset with state := .closed, mismatch := 1 } true true < 2
      ∧ (scanned { Seq.reset with state := .closed, mismatch := 1 } false).search.stage ≠ .hold := by decide +kernel

/-- 04 R74: a second mismatching sample. -/
theorem test_second_mismatch :
    let u := after (.scanCompletion 40000 (open_ 2048) 2048)
      (scanned { Seq.reset with state := .closed, probation := 3, mismatch := 1 } false)
    let v := after (.scanCompletion 40000 (open_ 2048) 2048) (scanned { Seq.reset with state := .openQueued, mismatch := 1 } true)
    let w := after (.scanCompletion 40000 (flat 0 2048) 2048) (scanned { Seq.reset with state := .opened, mismatch := 1 } true)
    u.seqs[str5] = { Seq.reset with state := .opened, probation := 2 } ∧ u.evid[str5].latched = 0x20
      ∧ v.seqs[str5].state = .opened ∧ v.evid[str5].latched = 0 ∧ v.table[str5].target = .isolated
      ∧ w.seqs[str5].state = .opening ∧ w.evid[str5].heldOrigin = some .other := by decide +kernel

/-- 04 R68: the probation remaining falls by one. -/
theorem test_probation_counts :
    (after (.scanCompletion 40000 (flat 0 2048) 2048) (scanned { Seq.reset with state := .closed, probation := 3 } false)).seqs[str5]
      = { Seq.reset with state := .closed, probation := 2 } := by decide +kernel

/-- 04 R62 at a scan completion: the settle of a close cut short, a withdrawn close, and an open that is no longer wanted. -/
theorem test_targets_at_a_scan :
    let u := fun q iso closed => (after (.scanCompletion 40000 (Vector.replicate 24 ⟨0, 2048, closed⟩) 2048) (scanned q iso)).seqs[str5]
    u (running .close_ .settle false) true false = { Seq.reset with state := .opened, bypassOffAt := 40000 }
      ∧ u (running .close_ .settle false) false false = running .close_ .settle false
      ∧ u { Seq.reset with state := .closeQueued, mismatch := 1 } true false = { Seq.reset with state := .opened }
      ∧ u { Seq.reset with state := .openQueued, probation := 3 } false true = { Seq.reset with state := .closed, probation := 3 } := by
  decide +kernel

theorem test_witness_weld_present :
    (scanned { Seq.reset with state := .failed } false).seqs[str5].state = .failed ∧ (flat 0 2048)[str5].closed = true
      ∧ (open_ 2048)[str5].closed = false := by decide +kernel

/-- 03 R51: the sample says whether WELD is present. -/
theorem test_weld_present :
    let s := (scanned { Seq.reset with state := .failed } false).setEvid str5 { Evidence.reset with latched := 0x40, present := 0x40 }
    (after (.scanCompletion 40000 (flat 0 2048) 2048) s).evid[str5].present = 0x40
      ∧ (after (.scanCompletion 40000 (open_ 2048) 2048) s).evid[str5].present = 0
      ∧ (after (.scanCompletion 40000 (open_ 2048) 2048) s).evid[str5].latched = 0x40 := by decide +kernel

def measuring (s : State) : State := { s with iso := { s.iso with job := some ⟨100, 200, false⟩ } }

theorem test_witness_iso_due : IsoDue (measuring box) 200 ⟨100, 200, false⟩ := ⟨rfl, by decide +kernel⟩

def low : State := measuring { box with search := { box.search with trigger := 1 } }

theorem test_witness_search_start :
    99 < low.cfg.rMin ∧ low.search.phase = .idle ∧ low.cfg.cIso ≤ low.search.trigger + 1 ∧ low.cfg.enSrch = true
      ∧ low.inputs.shdnActive = false ∧ low.journal.state = .adopted ∧ low.search.rearmMet = true
      ∧ low.seqs[str5].state = .closed ∧ low.seqs[str5].probation = 0 := by decide +kernel

theorem test_search_starts : (after (.insulationCompletion 200 99 true) low).search.phase = .baseline := by decide +kernel

/-- 05 R84: each row of the trigger counter's table, and its end at 255. -/
theorem test_trigger_table :
    triggerAfter low true false 99 = 2 ∧ triggerAfter low true false 100 = 0 ∧ triggerAfter low true true 99 = 1
      ∧ triggerAfter low false false 99 = 0
      ∧ triggerAfter { low with search := { low.search with trigger := 255 } } true false 99 = 255 := by decide +kernel

/-- The end of another search: re-arm is not met, and the reason SEARCH stands. -/
def unarmed : State := { low with search := { low.search with rearmMet := false, rearmAt := some 5000, attn := true } }

/-- 05 R84, R85: DISTURBED leaves the counter, and without re-arm the low result counts on; R87, R101: a VALID one at R_ok brings re-arm. -/
theorem test_search_does_not_start :
    unarmed.search.phase = .idle ∧ unarmed.search.stage = .none ∧ unarmed.search.rearmMet = false
      ∧ (after (.insulationCompletion 200 99 true) unarmed).search = { unarmed.search with trigger := 2 }
      ∧ (after (.insulationCompletion 200 200 true) unarmed).search
          = { unarmed.search with trigger := 0, rearmMet := true, rearmAt := none, attn := false } := by decide +kernel

/-- 05 R85: with no string CLOSED the search that starts ends UNLOCATED. -/
theorem test_search_of_no_suspect :
    let s := { low with seqs := Vector.replicate 24 { Seq.reset with state := .failed } }
    (∀ i : Str, s.seqs[i].state ≠ .closed) ∧ (after (.insulationCompletion 200 99 true) s).search.result = .unlocated
      ∧ (after (.insulationCompletion 200 99 true) s).search.rearmMet = false := by decide +kernel

/-- 02 R34: with nothing driven the next measurement starts clear, and with a bypass on it starts disturbed. -/
theorem test_next_measurement :
    (∀ i : Str, (measuring box).seqs[i].act = none) ∧ (∀ i : Str, (after (.insulationCompletion 200 300 true) (measuring box)).seqs[i].act = none)
      ∧ (after (.insulationCompletion 200 300 true) (measuring box)).iso.job.map (·.disturbed) = some false
      ∧ (after (.insulationCompletion 200 300 true) (measuring travelling)).iso.job.map (·.disturbed) = some true := by decide +kernel

/-- A stage that measures, in a phase of the search. -/
def stageOf (p : SearchPhase) (xs : List Str) (underTest : Option Str) : State :=
  measuring { box with search := { box.search with
    phase := p, stage := .measure, measureAt := 100, suspects := xs, originals := xs, underTest := underTest } }

def halving (xs : List Str) : State := stageOf .halving xs none

theorem test_witness_stages :
    (stageOf .baseline [1, 2] none).search.phase = .baseline ∧ (stageOf .confirm [2] none).search.suspects = [2]
      ∧ (stageOf .confirm [2] none).search.phase = .confirm ∧ (stageOf .sweep [2, 3] (some 2)).search.underTest = some 2
      ∧ (stageOf .sweep [2, 3] (some 2)).search.stage = .measure ∧ min 65535 99 < box.cfg.rMin
      ∧ sweepSet (stageOf .confirm [2] none) (stageOf .confirm [2] none) = [2] := by decide +kernel

/-- 05 R90, R95 to R97. -/
theorem test_stages :
    (after (.insulationCompletion 200 200 true) (stageOf .baseline [1, 2] none)).search.result = .cleared
      ∧ (after (.insulationCompletion 200 199 true) (stageOf .baseline [1, 2] none)).search.phase = .halving
      ∧ (after (.insulationCompletion 200 199 true) (stageOf .confirm [2] none)).search.stage = .hold
      ∧ (after (.insulationCompletion 200 99 true) (stageOf .sweep [2, 3] (some 2))).search.swept = [2]
      ∧ (after (.insulationCompletion 200 99 true) (stageOf .sweep [2, 3] (some 2))).search.underTest = some 3
      ∧ (after (.insulationCompletion 200 99 true) (stageOf .sweep [2] (some 2))).search.result = .swept
      ∧ (after (.insulationCompletion 200 100 true) (stageOf .sweep [2] (some 2))).search.result = .unlocated := by decide +kernel

/-- 05 R86: the end of a search releases its holds, here with CLEARED and at its timeout. -/
theorem test_end_releases :
    let held := fun s : State => (s.setSeq 7 { Seq.reset with state := .opened }).setEntry 7 { s.table[(7 : Str)] with role := .held }
    let u := after (.insulationCompletion 200 200 true) (held (stageOf .baseline [1, 2] none))
    let v := after (.searchTimeout 60) (held { stageOf .halving [1, 2] none with search := { box.search with
      phase := .halving, stage := .measure, suspects := [1, 2], timer := some 60 } })
    u.search.result = .cleared ∧ u.seqs[(7 : Str)] = { Seq.reset with state := .qualify }
      ∧ v.search.result = .abortedTimeout ∧ v.seqs[(7 : Str)] = { Seq.reset with state := .qualify } := by decide +kernel

/-- 05 R87, R99, R101 (log 41): a completion at R_ok just after an abort meets re-arm and clears the reason SEARCH. -/
theorem test_completion_after_abort :
    let s := measuring { box with search := { box.search with
      result := .abortedTimeout, attn := true, rearmMet := false, rearmAt := some 70 } }
    let u := after (.insulationCompletion 200 200 true) s
    u.search.attn = false ∧ u.search.rearmMet = true ∧ u.search.rearmAt = none ∧ u.search.trigger = 0 := by decide +kernel

/-- The stage of a halving step whose candidate is DISTURBED, after `n` others; and one that began after the measurement did. -/
def disturbedStage (n : Nat) : State :=
  let s := stageOf .halving [3, 5] none
  { s with search := { s.search with disturbed := n }, iso := { s.iso with job := some ⟨100, 200, true⟩ } }

def lateStage : State := { halving [3, 5] with search := { (halving [3, 5]).search with measureAt := 101 } }

theorem test_witness_not_judged :
    (disturbedStage 0).search.stage = .measure ∧ (disturbedStage 0).search.disturbed < 2 ∧ 2 ≤ (disturbedStage 2).search.disturbed
      ∧ (disturbedStage 0).search.phase ≠ .idle ∧ (disturbedStage 0).search.measureAt ≤ 100 ∧ 100 < lateStage.search.measureAt
      ∧ lateStage.search.phase ≠ .idle ∧ lateStage.search.stage = .measure := by decide +kernel

theorem test_witness_disturbed_due : IsoDue (disturbedStage 0) 200 ⟨100, 200, true⟩ := ⟨rfl, by decide +kernel⟩

/-- 05 R89: a DISTURBED candidate is counted, the third ends the search, and so does an INVALID completion. -/
theorem test_not_judged :
    (after (.insulationCompletion 200 200 true) (disturbedStage 1)).search.disturbed = 2
      ∧ (after (.insulationCompletion 200 200 true) (disturbedStage 1)).search.suspects = [3, 5]
      ∧ (after (.insulationCompletion 200 200 true) (disturbedStage 2)).search.result = .abortedMonitor
      ∧ (after (.insulationCompletion 200 200 false) (disturbedStage 0)).search.result = .abortedMonitor
      ∧ (after (.insulationCompletion 200 200 true) lateStage).search.stage = .measure := by decide +kernel

/-- A suspect whose close is about to fail. -/
def failing (p : SearchPhase) (st : Stage) (xs : List Str) (underTest : Option Str) : State :=
  let s := withSeq (running .close_ .travel false)
  { s with search := { s.search with phase := p, stage := st, suspects := xs, originals := xs, underTest := underTest } }

theorem test_witness_overtaken (p : SearchPhase) (st : Stage) (xs : List Str) (u : Option Str) :
    Due (failing p st xs u) 40 str5 (act .close_ .travel false) .close_ .travel 40
      ∧ (failing p st xs u).seqs[str5].state = .closing ∧ ownTargetOf (failing p st xs u) str5 = .connected
      ∧ (failing p st xs u).search.suspects = xs ∧ (failing p st xs u).search.phase = p :=
  ⟨⟨rfl, rfl, rfl, rfl, Nat.le_refl 40⟩, rfl, rfl, rfl, rfl⟩

/-- 05 R98: an overtaken suspect in each phase. -/
theorem test_overtaken :
    (after (.closeTravelExpiry 40 5) (failing .baseline .measure [5] none)).search.result = .unlocated
      ∧ (after (.closeTravelExpiry 40 5) (failing .baseline .measure [3, 5] none)).search.suspects = [3]
      ∧ (after (.closeTravelExpiry 40 5) (failing .halving .switchWait [3, 5, 7] none)).search.suspects = [3, 7]
      ∧ (after (.closeTravelExpiry 40 5) (failing .confirm .measure [5] none)).search.result = .unlocated
      ∧ (after (.closeTravelExpiry 40 5) (failing .sweep .switchWait [5, 7] (some 5))).search.underTest = some 7
      ∧ (after (.closeTravelExpiry 40 5) (failing .sweep .switchWait [3, 5] (some 3))).search.suspects = [3]
      ∧ (after (.closeTravelExpiry 40 5) (failing .sweep .hold [3, 5] none)).search.underTest = some 3 := by decide +kernel

/-- A search in a phase, its suspects CLOSED. -/
def searching (s : State) (p : SearchPhase) (xs : List Str) (underTest : Option Str) : State :=
  { s with search := { s.search with phase := p, stage := .measure, suspects := xs, originals := xs, underTest := underTest } }

/-- String 5 trips at its next reverse current. -/
def tripping : State := scanning (box.setEvid str5 { Evidence.reset with revCount := 2 })

/-- A pending program that isolates strings 2 and 4. -/
def isolating (s : State) : State :=
  let s := committed s
  { s with journal := { s.journal with prog := some { appended with records := [⟨2, 2, 0, 5⟩, ⟨4, 2, 0, 6⟩] } } }

theorem test_witness_gone :
    let trip := searching tripping .halving [3, 5, 7] none
    let confirm := searching (isolating (bus .status 0 0)) .halving [2, 4, 6] none
    gone trip (after (.scanCompletion 40000 (flat (-96) 2048) 2048) trip) = [5]
      ∧ gone confirm (after (.status 0 [x 0 0x00] none) confirm) = [2, 4]
      ∧ gone (searching box .sweep [3] (some 3)) (after (.scanCompletion 40000 (flat 0 2048) 2048) (searching box .sweep [3] (some 3))) = []
      ∧ trip.search.phase ≠ .idle ∧ trip.search.stage ≠ .hold := by decide +kernel

/-- 05 R98: suspects overtaken by a trip, by two confirmed records at one event, by the expiry of their program, and by a resolution. -/
theorem test_overtaken_by_others :
    let trip := fun p xs u => (after (.scanCompletion 40000 (flat (-96) 2048) 2048) (searching tripping p xs u)).search
    let confirm := fun p xs u => (after (.status 0 [x 0 0x00] none) (searching (isolating (bus .status 0 0)) p xs u)).search
    let expire := fun p xs u => (after (.programCommitTimeout 100) (searching (isolating box) p xs u)).search
    (trip .halving [3, 5, 7] none).suspects = [3, 7] ∧ (trip .halving [3, 5, 7] none).steps = 1
      ∧ (trip .confirm [5] none).result = .unlocated ∧ (trip .sweep [5, 7] (some 5)).underTest = some 7
      ∧ (trip .baseline [3] none).suspects = [3]
      ∧ (confirm .halving [2, 4, 6] none).phase = .confirm ∧ (confirm .halving [2, 4, 6] none).steps = 1
      ∧ (confirm .baseline [2, 4] none).result = .unlocated ∧ (confirm .sweep [2, 4, 6] (some 2)).underTest = some 6
      ∧ (expire .halving [1, 2, 3, 4] none).suspects = [1, 3] ∧ (expire .sweep [1, 2] (some 1)).suspects = [1] := by decide +kernel

theorem test_overtaken_by_a_read :
    let s := { doubted with journal := { doubted.journal with doubt := some ⟨1, [⟨1, 2, 0, 5⟩, ⟨2, 2, 0, 6⟩]⟩ } }
    let t := ringRead 0x020008 (Record.bytes ⟨1, 2, 0, 5⟩ ++ List.replicate 8 0xFF)
    let u := after (.read 0 [] (some rel)) (searching (withTxn (oneSector s) t) .halving [1, 2, 3] none)
    u.search.suspects = [2, 3] ∧ u.search.steps = 1 ∧ u.table[(2 : Str)].role = .held ∧ u.table[(1 : Str)].role = .none := by
  decide +kernel

theorem test_witness_halving :
    (halving [3, 5]).search.phase = .halving ∧ (halving [3, 5]).search.stage = .measure ∧ (halving [3, 5]).search.measureAt ≤ 100
      ∧ (halving [3, 5]).search.suspects = [3] ++ [5] ∧ [3].length = ((halving [3, 5]).search.suspects.length + 1) / 2
      ∧ (halving [1, 2, 3]).search.suspects = [1, 2] ++ [3] ∧ (halving [1, 2, 3, 4]).search.suspects = [1, 2] ++ [3, 4]
      ∧ (halving [3, 5]).cfg.rOk ≤ min 65535 200 ∧ min 65535 199 < (halving [3, 5]).cfg.rOk := by decide +kernel

/-- 05 R92, R93: below R_ok the fault is among the suspects not held. -/
theorem test_halving_narrows :
    (after (.insulationCompletion 200 199 true) (halving [1, 2, 3, 4])).search.suspects = [3, 4]
      ∧ (after (.insulationCompletion 200 199 true) (halving [1, 2, 3])).search.phase = .confirm
      ∧ (after (.insulationCompletion 200 200 true) (halving [1, 2, 3])).search.suspects = [1, 2]
      ∧ (after (.insulationCompletion 200 200 true) (halving [3, 5])).search.found = some 3 := by decide +kernel

def timed : State :=
  { box with search := { box.search with stage := .settle, settleAt := 50, timer := some 60, rearmAt := some 70, phase := .halving } }

theorem test_witness_search_timers :
    timed.search.stage = .settle ∧ timed.search.settleAt ≤ timed.now + 50 ∧ timed.search.timer = some 60
      ∧ timed.search.rearmAt = some 70 := by decide +kernel

/-- A stage that waits for string 5, every other switch being where its role wants it. -/
def awaiting (p : SearchPhase) (st : Stage) (r : Role) (q : Seq) : State :=
  let s := (withSeq q).setEntry str5 { box.table[str5] with role := r }
  { s with search := { s.search with phase := p, stage := st, suspects := [5], originals := [5] } }

/-- A suspect whose line is about to show closed, and a held string whose line is about to show open. -/
def closing (p : SearchPhase) : State := awaiting p .switchWait .suspect (running .close_ .travel false)

def opening (st : Stage) : State :=
  { awaiting (if st = .hold then .sweep else .confirm) st .held { Seq.reset with state := .opening, act := some (act .open_ .travel false) } with
    lines := Vector.replicate 24 true }

/-- The zero-current check of string 5 comes next. -/
def unchecked (s : State) : State := scanning (s.setSeq str5 { Seq.reset with state := .opening })

theorem test_witness_waits :
    (closing .baseline).search.stage = .switchWait ∧ ¬ WaitHolds (closing .baseline) ∧ ¬ WaitHolds (unchecked (opening .hold))
      ∧ WaitHolds (after (.feedbackLineChange 30 5 true) (closing .baseline))
      ∧ (after (.feedbackLineChange 30 5 true) (closing .baseline)).search.suspects = [5] := by
  unfold WaitHolds
  decide +kernel

/-- 05 R88, R90: the wait ends at a switch state change: the BASELINE measures, another stage settles, and a hold stage starts its test. -/
theorem test_waits_end :
    (after (.feedbackLineChange 30 5 true) (closing .baseline)).search.stage = .measure
      ∧ (after (.feedbackLineChange 30 5 true) (closing .baseline)).search.measureAt = 30
      ∧ (after (.feedbackLineChange 30 5 true) (closing .halving)).search.stage = .settle
      ∧ (after (.feedbackLineChange 30 5 true) (closing .halving)).search.settleAt = 30 + box.cfg.tSs * 1000
      ∧ (after (.scanCompletion 40000 (flat 0 2048) 2048) (unchecked (opening .switchWait))).search.stage = .settle
      ∧ (after (.scanCompletion 40000 (flat 0 2048) 2048) (unchecked (opening .hold))).search.underTest = some 5
      ∧ (after (.scanCompletion 40000 (flat 0 2048) 2048) (unchecked (opening .hold))).search.stage = .switchWait := by decide +kernel

/-- 05 R99: a switch that enters FAILED ends the search: the second expiry of an open, and the zero-current check. -/
theorem test_failed_switch_aborts :
    let s := withSeq { running .open_ .travel false with retry := true }
    let t := { s with search := { s.search with phase := .baseline, stage := .measure, suspects := [3], originals := [3] } }
    let u := after (.openTravelExpiry 40 str5) t
    let v := after (.scanCompletion 40000 (flat 100 2048) 2048) (unchecked (opening .switchWait))
    t.search.phase ≠ .idle ∧ u.search.result = .abortedSwitch ∧ u.search.phase = .idle
      ∧ v.seqs[str5].state = .failed ∧ v.search.result = .abortedSwitch := by decide +kernel

/-- A search in progress when a later block is adopted. -/
def searchingRead (en : Bool) : State :=
  let s := laterRead block
  { s with cfg := { s.cfg with enSrch := en }, search := { s.search with phase := .baseline, stage := .measure, suspects := [3], originals := [3] } }

/-- 05 R100: the adoption of the defaults that the block holds ends it where a field of 5.1 differs, and else it goes on. -/
theorem test_adoption_in_a_search :
    (searchingRead true).search.phase ≠ .idle
      ∧ SearchFieldsDiffer (searchingRead true).cfg Config.builtin ∧ ¬ SearchFieldsDiffer (searchingRead false).cfg Config.builtin
      ∧ (let u := fun s => finish s (laterAdoption s Config.builtin)
        (u (searchingRead true)).search.result = .abortedConfig ∧ (u (searchingRead false)).search.phase = .baseline) := by
  unfold SearchFieldsDiffer
  decide +kernel

/-! ## Witnesses: inputs, switches and commit timers -/

theorem test_witness_levels :
    box.inReset = false ∧ box.inputs.shdnRaw ≠ true ∧ State.reset.inReset = true
      ∧ (after (.maintLevelChange 0 true) box).inputs.maintTiming = some 50000
      ∧ (after (.maintLevelChange 0 true) box).inputs.maintRaw = true
      ∧ (after (.maintLevelChange 0 false) (keyed { box with inputs := { box.inputs with maintRaw := true } })).inputs.maintTiming
          = some 50000 := by decide +kernel

theorem test_witness_shutdown :
    (after (.shdnLevelChange 0 true) box).inputs.shdnTiming = some 10000
      ∧ (after (.shdnLevelChange 0 true) box).inputs.shdnRaw = true
      ∧ (after (.shdnLevelChange 0 true) box).inputs.shdnActive = false := by decide +kernel

def shut : State := after (.shdnLevelChange 0 false) (after (.shutdownActivation 10000) (after (.shdnLevelChange 0 true) box))

theorem test_witness_shutdown_release :
    shut.inputs.shdnActive = true ∧ shut.inputs.shdnRaw = false ∧ shut.inputs.shdnTiming = some 20000
      ∧ shut.cfg.optSdl = true ∧ shut.inputs.snapshot = allStrings ∧ shut.seqs[(0 : Str)].state = .opening
      ∧ shut.seqs[str5].state = .openQueued := by decide +kernel

theorem test_witness_pulses :
    Due (withSeq (running .close_ .settle false)) 20 str5 (act .close_ .settle false) .close_ .settle 20
      ∧ Due (withSeq (running .open_ .settle false)) 20 str5 (act .open_ .settle false) .open_ .settle 20
      ∧ Due (withSeq (running .open_ .retryWait false)) 20 str5 (act .open_ .retryWait false) .open_ .retryWait 20
      ∧ box.evid[str5].latched = 0 ∧ box.table[str5].target = .connected := by
  unfold Due
  decide +kernel

theorem test_witness_pulse_end :
    Due (withSeq (running .close_ .pulse true)) 20 str5 (act .close_ .pulse true) .close_ .pulse 20
      ∧ Due (withSeq (running .open_ .pulse false)) 20 str5 (act .open_ .pulse false) .open_ .pulse 20
      ∧ (withSeq (running .close_ .pulse true)).seqs[str5].state = .closing := by
  unfold Due
  decide +kernel

/-- A drive carried to its end on a string without a switch state (R81). -/
def carried (c : Coil) (p : ActPhase) (seen : Bool) : State := withSeq { Seq.reset with act := some (act c p seen), grant := .held }

theorem test_witness_carried :
    Due (carried .close_ .pulse true) 20 str5 (act .close_ .pulse true) .close_ .pulse 20
      ∧ Due (carried .open_ .pulse false) 20 str5 (act .open_ .pulse false) .open_ .pulse 20
      ∧ Due (carried .close_ .travel false) 40 str5 (act .close_ .travel false) .close_ .travel 40
      ∧ (carried .close_ .travel false).seqs[str5].state = .unfound ∧ (carried .close_ .travel false).lines[str5] ≠ true := by
  unfold Due
  decide +kernel

/-- 04 R81: the bypass goes off and nothing is latched. -/
theorem test_carried_ends :
    let u := after (.closeTravelExpiry 40 str5) (carried .close_ .travel false)
    let v := after (.feedbackLineChange 30 str5 true) (carried .close_ .travel false)
    u.seqs[str5].act = none ∧ u.evid[str5].latched = 0 ∧ u.seqs[str5].state = .unfound
      ∧ v.seqs[str5].act = none ∧ v.seqs[str5].bypassOffAt = 30 ∧ v.seqs[str5].state = .unfound := by decide +kernel

/-- 04 R66: a close that succeeds with the target ISOLATED opens next. -/
theorem test_close_of_isolated :
    let s := fun (p : ActPhase) (seen : Bool) =>
      (withSeq (running .close_ p seen)).setEntry str5 { box.table[str5] with recorded := .isolate }
    let u := after (.coilPulseEnd 20 str5) (s .pulse true)
    let v := after (.feedbackLineChange 30 str5 true) (s .travel false)
    u.table[str5].target = .isolated ∧ u.seqs[str5].state = .openQueued ∧ u.seqs[str5].probation = 40
      ∧ v.seqs[str5].state = .opening ∧ v.seqs[str5].probation = 40 := by decide +kernel

/-- 04 R77: the end of a close's pulse leaves its grant to the recharge, and the first of an open does not. -/
theorem test_last_pulse_leaves_grant :
    (after (.coilPulseEnd 20 str5) (withSeq (running .close_ .pulse false))).seqs[str5].grant = .recharging 30
      ∧ (after (.coilPulseEnd 20 str5) (withSeq (running .open_ .pulse false))).seqs[str5].grant = .held := by decide +kernel

theorem test_witness_feedback :
    (withSeq (running .close_ .travel false)).lines[str5] ≠ true ∧ (act .close_ .travel false).coil.goal = true
      ∧ (withSeq (running .close_ .pulse false)).seqs[str5].act = some (act .close_ .pulse false)
      ∧ (act .open_ .pulse false).coil.goal ≠ true := by decide +kernel

/-- 04 R83 (log 20): in reset a drive carried on remembers that its position has been shown. -/
theorem test_feedback_in_reset :
    let u := fun p => after (.feedbackLineChange 5 str5 true) (inReset (act .close_ p false))
    (u .pulse).seqs[str5].act = some (act .close_ .pulse true) ∧ (u .travel).seqs[str5].act = some (act .close_ .travel true)
      ∧ (u .settle).seqs[str5].act = some (act .close_ .settle false) ∧ (u .settle).lines[str5] = true
      ∧ (inReset (act .close_ .settle false)).lines[str5] = false := by decide +kernel

/-- 04 R69, R72: before a pulse the line alone moves. -/
theorem test_feedback_before_a_pulse :
    let retry := { withSeq { running .open_ .retryWait false with retry := true } with lines := Vector.replicate 24 true }
    (after (.feedbackLineChange 5 str5 true) (withSeq (running .close_ .settle false))).seqs[str5] = running .close_ .settle false
      ∧ (after (.feedbackLineChange 5 str5 false) retry).seqs[str5] = { running .open_ .retryWait false with retry := true }
      ∧ (after (.feedbackLineChange 5 str5 false) retry).lines[str5] = false := by decide +kernel

theorem test_witness_travel_expiry :
    Due (withSeq (running .close_ .travel false)) 40 str5 (act .close_ .travel false) .close_ .travel 40
      ∧ Due (withSeq (running .open_ .travel false)) 40 str5 (act .open_ .travel false) .open_ .travel 40
      ∧ (withSeq { running .open_ .travel false with retry := true }).seqs[str5].retry = true := by
  unfold Due
  decide +kernel

theorem test_second_expiry_fails :
    let s := { withSeq { running .open_ .travel false with retry := true } with lines := Vector.replicate 24 true }
    let t := after (.openTravelExpiry 40 str5) s
    t.seqs[str5].state = .failed ∧ t.evid[str5].latched = 0x40 ∧ t.pins = ⟨true, true⟩ := by decide +kernel

theorem test_witness_grant_return :
    (withSeq { Seq.reset with state := .opened, grant := .recharging 30 }).seqs[str5].grant = .recharging 30
      ∧ 30 ≤ box.now + 30 := by decide +kernel

/-- Two grants in use, that of string 5 recharging, and string 7 waiting in the queue; string 5 with a sequencer of its own. -/
def waiting (q : Seq) (queue : List QEntry) : State :=
  let s := (withSeq { q with grant := .recharging 30 }).setSeq 6 (running .close_ .settle false)
  { s.setSeq 7 { Seq.reset with state := if queue = [] then .closed else .closeQueued } with arb := ⟨queue, 2, none⟩ }

/-- A lower K of 1 pending, with one more grant in use than it or, with string 8 on its way, two more. -/
def lowering (more : Bool) : State :=
  let s := waiting { Seq.reset with state := .closed } [⟨7, .close_⟩]
  { (if more then s.setSeq 8 (running .close_ .settle false) else s) with arb := ⟨[⟨7, .close_⟩], 3, some 1⟩ }

theorem test_witness_queue_head :
    let s := waiting { Seq.reset with state := .closed } [⟨7, .close_⟩]
    TableAgrees s ∧ TargetsTaken s ∧ QueueAgrees s ∧ ArbiterRests s ∧ HoldWaits s ∧ grantsInUse s ≤ s.arb.k ∧ s.arb.kPending = none
      ∧ joined s str5 = [⟨7, .close_⟩] := by
  refine ⟨by unfold TableAgrees; decide +kernel, targets_taken (by decide +kernel), by unfold QueueAgrees; decide +kernel,
    arbiter_rests none (by decide +kernel), by unfold HoldWaits; decide +kernel, by decide +kernel, by decide +kernel, by decide +kernel⟩

theorem test_witness_deferred :
    let s := waiting { Seq.reset with state := .closeQueued } []
    TableAgrees s ∧ TargetsTaken s ∧ QueueAgrees s ∧ ArbiterRests s ∧ HoldWaits s ∧ grantsInUse s ≤ s.arb.k
      ∧ joined s str5 = [⟨5, .close_⟩] ∧ joined (waiting { Seq.reset with state := .closed } []) str5 = [] := by
  refine ⟨by unfold TableAgrees; decide +kernel, targets_taken (by decide +kernel), by unfold QueueAgrees; decide +kernel,
    arbiter_rests none (by decide +kernel), by unfold HoldWaits; decide +kernel, by decide +kernel, by decide +kernel, by decide +kernel⟩

theorem test_witness_lower_k (more : Bool) :
    TableAgrees (lowering more) ∧ TargetsTaken (lowering more) ∧ QueueAgrees (lowering more) ∧ ArbiterRests (lowering more)
      ∧ HoldWaits (lowering more) ∧ grantsInUse (lowering more) ≤ (lowering more).arb.k
      ∧ grantsInUse (lowering more) = (if more then 3 else 2) := by
  cases more <;> refine ⟨by unfold TableAgrees; decide +kernel, targets_taken (by decide +kernel), by unfold QueueAgrees; decide +kernel,
    arbiter_rests (some 1) (by decide +kernel), by unfold HoldWaits; decide +kernel, by decide +kernel, by decide +kernel⟩

/-- 04 R79: the return that brings the grants down to the pending K makes it active, and one before it gives no grant. -/
theorem test_lower_k :
    let u := fun more => after (.grantReturn 30 5) (lowering more)
    (u false).arb = ⟨[⟨7, .close_⟩], 1, none⟩ ∧ (u true).arb = ⟨[⟨7, .close_⟩], 3, some 1⟩
      ∧ (u false).seqs[(7 : Str)] = (lowering false).seqs[(7 : Str)] ∧ (u false).seqs[str5].grant = .none := by decide +kernel

theorem test_witness_free_slot :
    let s := { waiting { Seq.reset with state := .closeQueued } [] with arb := ⟨[], 3, none⟩ }
    grantsInUse s < s.arb.k ∧ s.arb.queue = [] ∧ s.arb.kPending = none ∧ joined s str5 = [⟨5, .close_⟩] := by decide +kernel

/-- 04 R78: the head of the queue is granted, and a deferred request is handled at the return of its grant. -/
theorem test_queue_head :
    let u := after (.grantReturn 30 5) (waiting { Seq.reset with state := .closed } [⟨7, .close_⟩])
    let v := after (.grantReturn 30 5) (waiting { Seq.reset with state := .closeQueued } [])
    u.seqs[(7 : Str)].state = .closing ∧ u.seqs[(7 : Str)].grant = .held ∧ u.arb.queue = [] ∧ u.seqs[str5].grant = .none
      ∧ v.seqs[str5].state = .closing := by decide +kernel

/-- A pending program of a GUARDED page, alone and under a suspended erase. -/
def guardedPending (s : State) : State :=
  { s with journal := { s.journal with prog := some { appended with kind := .guarded, records := [] } } }

theorem test_witness_guarded_timeout :
    (guardedPending (committed box)).journal.prog = some { appended with kind := .guarded, records := [] }
      ∧ (guardedPending (committed box)).mirror.state = .busyProgram
      ∧ (guardedPending (bothPending box)).mirror.state = .busyProgramInSuspend
      ∧ (guardedPending (bothPending box)).journal.erase = some heldErase
      ∧ (guardedPending (committed (bus .status 0 0))).mirror.state = .busyProgram := by decide +kernel

/-- 07 R154, R144: a GUARDED program's timeout writes the outcome alone; while INCONSISTENT HELD is latched and the slots are UNSEEN. -/
theorem test_program_timeouts :
    let u := after (.programCommitTimeout 100) (guardedPending (committed box))
    let v := after (.programCommitTimeout 100) (lostRing (committed box))
    u.journal.state = .adopted ∧ u.journal.outcome.result = .commitTimeout ∧ u.journal.slots[1]? = box.journal.slots[1]?
      ∧ u.mirror.state = .unknown ∧ u.evid[(2 : Str)].latched = 0
      ∧ v.journal.state = .inconsistent ∧ v.journal.slots[2]? = some .unseen ∧ v.evid[(2 : Str)].latched = 0x20 := by decide +kernel

theorem test_witness_timeouts_together :
    (bothPending box).journal.prog = some appended ∧ appended.expiry ≤ (bothPending box).now + 100
      ∧ (bothPending box).mirror.state = .busyProgramInSuspend ∧ (bothPending box).journal.erase = some heldErase := by decide +kernel

theorem test_witness_program_timeout :
    (committed box).journal.prog = some appended ∧ appended.expiry ≤ (committed box).now + 100
      ∧ (committed box).mirror.state = .busyProgram ∧ (∃ r ∈ appended.records, r.str.toNat = 2 ∧ (r.disp = 0x02 ∨ r.disp = 0x03)) := by
  decide +kernel

theorem test_witness_erase_timeout :
    (erasing box (.running 500)).journal.erase = some { heldErase with timer := .running 500 }
      ∧ 500 ≤ (erasing box (.running 500)).now + 500
      ∧ recovering.journal.erase.map (fun c => (c.recovery, c.timer)) = some (true, .running 500) := by decide +kernel

end Sys2Proof.Tests
end

/-! What the journal tracker and the mirror change of the state, and what the search unit keeps true of its stage. -/

namespace Sys2Proof.Machine

/-! ## The frame of the journal tracker -/

/-- `t` differs from `s` at most in the mirror, the journal, the strings' entries, evidence and sequencers, and the count of free values. -/
def Tracks (s t : State) : Prop :=
  ∃ (m : Mirror) (j : Journal) (tb : Vector Entry 24) (e : Vector Evidence 24) (q : Vector Seq 24) (n : Nat),
    t = { s with mirror := m, journal := j, table := tb, evid := e, seqs := q, free := n }

/-- `Tracks`, with the coverage marks of the capture unit left free as well. -/
def Covers (s t : State) : Prop :=
  ∃ cov : List Bool, Tracks { s with capture := { s.capture with coverage := cov } } t

theorem Tracks.refl (s : State) : Tracks s s := ⟨_, _, _, _, _, _, rfl⟩

theorem Tracks.trans {a b c : State} (h : Tracks a b) (k : Tracks b c) : Tracks a c := by
  obtain ⟨_, _, _, _, _, _, rfl⟩ := h
  obtain ⟨_, _, _, _, _, _, rfl⟩ := k
  exact ⟨_, _, _, _, _, _, rfl⟩

theorem Tracks.covers {s t : State} (h : Tracks s t) : Covers s t := ⟨s.capture.coverage, h⟩

theorem Covers.refl (s : State) : Covers s s := (Tracks.refl s).covers

theorem Covers.trans {a b c : State} (h : Covers a b) (k : Covers b c) : Covers a c := by
  obtain ⟨_, _, _, _, _, _, _, rfl⟩ := h
  obtain ⟨_, _, _, _, _, _, _, rfl⟩ := k
  exact ⟨_, _, _, _, _, _, _, rfl⟩

theorem Tracks.foldl {α : Type} (f : State → α → State) (h : ∀ s a, Tracks s (f s a)) (xs : List α) (s : State) :
    Tracks s (xs.foldl f s) := by
  induction xs generalizing s with
  | nil => exact .refl s
  | cons x xs ih => exact (h s x).trans (ih (f s x))

theorem Tracks.ite {s a b : State} {p : Prop} [Decidable p] (ha : Tracks s a) (hb : Tracks s b) : Tracks s (if p then a else b) := by
  split
  · exact ha
  · exact hb

theorem Covers.foldl {α : Type} (f : State → α → State) (h : ∀ s a, Covers s (f s a)) (xs : List α) (s : State) :
    Covers s (xs.foldl f s) := by
  induction xs generalizing s with
  | nil => exact .refl s
  | cons x xs ih => exact (h s x).trans (ih (f s x))

/-- What a `Covers` step leaves of the blocks that the end of an event reads. -/
structure SameBlocks (s t : State) : Prop where
  now : t.now = s.now
  inReset : t.inReset = s.inReset
  cfg : t.cfg = s.cfg
  cfgBase : t.cfgBase = s.cfgBase
  ports : t.ports = s.ports
  txn : t.txn = s.txn
  inputs : t.inputs = s.inputs
  meas : t.meas = s.meas
  scan : t.scan = s.scan
  iso : t.iso = s.iso
  search : t.search = s.search
  lines : t.lines = s.lines
  arb : t.arb = s.arb
  window : t.window = s.window
  pins : t.pins = s.pins
  pending : t.pending = s.pending
  segments : t.capture.segments = s.capture.segments
  captureState : t.capture.state = s.capture.state
  deferred : t.capture.deferred = s.capture.deferred
  adopted : t.capture.adopted = s.capture.adopted

theorem Covers.same {s t : State} (h : Covers s t) : SameBlocks s t := by
  obtain ⟨_, _, _, _, _, _, _, rfl⟩ := h
  constructor <;> rfl

theorem Tracks.same {s t : State} (h : Tracks s t) : SameBlocks s t := h.covers.same

theorem Tracks.capture {s t : State} (h : Tracks s t) : t.capture = s.capture := by
  obtain ⟨_, _, _, _, _, _, rfl⟩ := h
  rfl

theorem tracks_journal (s : State) (j : Journal) : Tracks s (s.setJournal j) := ⟨_, _, _, _, _, _, rfl⟩

theorem tracks_dropProg (s : State) : Tracks s s.dropProg := tracks_journal ..

theorem tracks_dropErase (s : State) : Tracks s s.dropErase := tracks_journal ..

theorem tracks_setOutcome (s : State) (k : CommitKind) (r : CommitResult) (a : Nat) : Tracks s (s.setOutcome k r a) :=
  tracks_journal ..

theorem tracks_setSlots (s : State) (k : Nat) (xs : List Summary) : Tracks s (s.setSlots k xs) := tracks_journal ..

theorem tracks_setSector (s : State) (j : Nat) (x : Sector) : Tracks s (s.setSector j x) := tracks_journal ..

theorem tracks_mirrorTo (s : State) (x : MirrorState) : Tracks s (s.mirrorTo x) := ⟨_, _, _, _, _, _, rfl⟩

theorem tracks_mirror (s : State) (m : Mirror) : Tracks s { s with mirror := m } := ⟨_, _, _, _, _, _, rfl⟩

theorem tracks_table (s : State) (v : Vector Entry 24) : Tracks s { s with table := v } := ⟨_, _, _, _, _, _, rfl⟩

theorem tracks_evid (s : State) (v : Vector Evidence 24) : Tracks s { s with evid := v } := ⟨_, _, _, _, _, _, rfl⟩

theorem tracks_seqs (s : State) (v : Vector Seq 24) : Tracks s { s with seqs := v } := ⟨_, _, _, _, _, _, rfl⟩

theorem tracks_openHead (s : State) : Tracks s s.openHead := by
  unfold State.openHead
  simp only
  split
  · exact tracks_journal ..
  · exact .refl s

theorem tracks_weldCleared (s : State) (i : Str) : Tracks s (weldCleared s i) := by
  unfold weldCleared
  simp only
  split
  · exact tracks_seqs ..
  · exact .refl s

theorem tracks_applyRecord (s : State) (k : Nat) (r : Record) : Tracks s (applyRecord s k r) := by
  unfold applyRecord
  split
  · exact .refl s
  · simp only
    split
    · exact ((tracks_table s _).trans (tracks_evid _ _)).trans (tracks_weldCleared _ _)
    · exact (tracks_table s _).trans (tracks_evid _ _)

theorem tracks_applyRecords (s : State) (rs : List (Nat × Record)) : Tracks s (applyRecords s rs) :=
  Tracks.foldl (fun (s : State) (x : Nat × Record) => applyRecord s x.1 x.2) (fun s x => tracks_applyRecord s x.1 x.2) rs s

theorem tracks_doubtRange (s : State) (c : ProgCommit) : Tracks s (doubtRange s c) := by
  unfold doubtRange
  split
  · exact tracks_journal ..
  · exact (tracks_journal s _).trans (tracks_journal _ _)
  · exact tracks_journal ..
  · exact tracks_journal ..

theorem tracks_resolveProgram (s : State) (err : Bool) : Tracks s (resolveProgram s err) := by
  unfold resolveProgram
  split
  · exact .refl s
  · simp only
    refine (tracks_dropProg s).trans ?_
    split
    · split
      · exact (tracks_doubtRange _ _).trans (tracks_journal _ _)
      · exact tracks_journal ..
    · exact (tracks_applyRecords _ _).trans (tracks_journal _ _)

theorem tracks_holdRecords (s : State) (rs : List Record) : Tracks s (holdRecords s rs) := by
  refine Tracks.foldl _ (fun s r => ?_) rs s
  split
  · split
    · exact tracks_evid ..
    · exact .refl s
  · exact .refl s

theorem tracks_expireProgram (s : State) : Tracks s (expireProgram s) := by
  unfold expireProgram
  split
  · exact .refl s
  · simp only
    refine (tracks_dropProg s).trans ?_
    split
    · exact ((tracks_doubtRange _ _).trans (tracks_holdRecords _ _)).trans (tracks_journal _ _)
    · exact tracks_journal ..

theorem tracks_failErase (s : State) (r : CommitResult) : Tracks s (failErase s r) := by
  cases h : s.journal.erase with
  | none =>
    unfold failErase
    rw [h]
    exact .refl s
  | some c =>
    rw [failErase_eq s c r h]
    exact tracks_journal ..

theorem tracks_endBoth (s : State) (f : State → State) (h : Tracks s (f s)) (r : CommitResult) : Tracks s (endBoth s f r) := by
  unfold endBoth
  simp only
  exact ((h.trans (tracks_failErase _ r)).trans (tracks_journal _ _)).trans ⟨_, _, _, _, _, _, rfl⟩

theorem tracks_sectorErased (s : State) (j : Nat) : Tracks s (sectorErased s j) :=
  ((tracks_journal s _).trans (tracks_journal _ _)).trans (tracks_openHead _)

theorem covers_coverage (s : State) (cov : List Bool) : Covers s { s with capture := { s.capture with coverage := cov } } :=
  ⟨cov, Tracks.refl _⟩

theorem covers_coverSector (s : State) (j : Nat) (b : Bool) : Covers s (s.coverSector j b) := covers_coverage ..

theorem covers_becomeInconsistent (s : State) : Covers s (becomeInconsistent s) :=
  (tracks_journal s _).covers.trans (covers_coverage _ _)

theorem tracks_adoptRing (s : State) (r : Ring) : Tracks s (adoptRing s r) := ⟨_, _, _, _, _, _, rfl⟩

theorem covers_attemptAdoption (s : State) : Covers s (attemptAdoption s) := by
  unfold attemptAdoption
  simp only
  split
  · split
    · exact (tracks_adoptRing ..).covers
    · exact covers_becomeInconsistent s
  · exact .refl s

theorem covers_confirmErase (s : State) : Covers s (confirmErase s) := by
  unfold confirmErase
  split
  · exact .refl s
  · next c _ =>
    simp only
    refine ((tracks_dropErase s).trans (tracks_setOutcome _ .erase .confirmed c.base)).covers.trans ?_
    split
    · exact .refl _
    · split
      · exact ((tracks_journal _ _).covers.trans (covers_coverSector _ _ _)).trans (covers_attemptAdoption _)
      · split
        · exact ((tracks_sectorErased _ _).covers.trans (covers_coverSector _ _ _)).trans (covers_attemptAdoption _)
        · exact (tracks_sectorErased _ _).covers

theorem covers_resolveErase (s : State) (err : Bool) : Covers s (resolveErase s err) := by
  unfold resolveErase
  split
  · exact (tracks_failErase ..).covers
  · exact covers_confirmErase s

theorem tracks_pauseErase (s : State) : Tracks s (pauseErase s) := by
  unfold pauseErase
  repeat' split
  · exact tracks_journal ..
  · exact .refl s
  · exact .refl s

theorem tracks_resumeErase (s : State) : Tracks s (resumeErase s) := by
  unfold resumeErase
  repeat' split
  · exact tracks_journal ..
  · exact .refl s
  · exact .refl s

theorem covers_moveMirror (s : State) (busy susp err : Bool) : Covers s (moveMirror s busy susp err) := by
  have moved (t : State) (x : MirrorState) : Covers t (t.mirrorTo x) := (tracks_mirrorTo t x).covers
  unfold moveMirror
  split
  · exact moved ..
  · exact moved ..
  · split
    · exact .refl s
    · exact (tracks_resolveProgram s err).covers.trans (moved ..)
  · repeat' split
    · exact .refl s
    · exact (tracks_pauseErase s).covers.trans (moved ..)
    · exact (covers_resolveErase s err).trans (moved ..)
  · repeat' split
    · exact (tracks_resumeErase s).covers.trans (moved ..)
    · exact .refl s
    · exact (tracks_failErase s _).covers.trans (moved ..)
  · repeat' split
    · exact .refl s
    · exact (tracks_resolveProgram s err).covers.trans (moved ..)
    · exact (tracks_endBoth s _ (tracks_resolveProgram s err) _).covers.trans (moved ..)

theorem covers_observe (s : State) (cfg : Config) (b : Byte) : Covers s (observe s cfg b) :=
  (tracks_mirror s _).covers.trans (covers_moveMirror _ _ _ _)

theorem tracks_programTimeout (s : State) : Tracks s (programTimeout s) := by
  unfold programTimeout
  split
  · exact (tracks_endBoth s _ (tracks_expireProgram s) _).trans (tracks_mirror ..)
  · exact (tracks_expireProgram s).trans (tracks_mirror ..)

theorem covers_coverPage (r : ReadStream) (s : State) (p : Nat) : Covers s (coverPage r s p) := by
  unfold coverPage
  split
  · exact .refl s
  · exact (tracks_journal s _).covers.trans (covers_coverage _ _)

theorem covers_coverRead (s : State) (r : ReadStream) : Covers s (coverRead s r) :=
  (Covers.foldl _ (covers_coverPage r) _ s).trans (covers_attemptAdoption _)

theorem tracks_markDamage (s : State) (k : Nat) : Tracks s (markDamage s k) :=
  (tracks_journal s _).trans (tracks_table _ _)

theorem tracks_freeSlots (s : State) (d : Doubt) (n : Nat) : Tracks s (freeSlots s d n) := by
  unfold freeSlots
  simp only
  refine Tracks.ite (.refl s) (Tracks.ite ?_ ?_)
  · exact (((tracks_journal s _).trans (tracks_setSlots _ _ _)).trans (tracks_setSector _ _ _)).trans (tracks_setSector _ _ _)
  · exact ((tracks_journal s _).trans (tracks_setSlots _ _ _)).trans (tracks_setSector _ _ _)

theorem tracks_resolveDoubt (s : State) (d : Doubt) (seen : List Summary) : Tracks s (resolveDoubt s d seen) := by
  unfold resolveDoubt
  simp only
  exact ((((tracks_journal s _).trans (tracks_freeSlots _ _ _)).trans (tracks_applyRecords _ _)).trans
    (tracks_journal _ _)).trans (tracks_journal _ _)

theorem covers_compareRead (s : State) (r : ReadStream) : Covers s (compareRead s r) := by
  unfold compareRead
  simp only
  generalize Option.bind _ _ = doubt
  have h := (Tracks.foldl markDamage tracks_markDamage
      ((upTo (ringSlots s)).filter fun k => slotDamaged (slotAt s k) (readSlot s r k)) s).trans
      (Tracks.foldl sectorErased tracks_sectorErased ((upTo (ringSectors s)).filter (readErased s r)) _)
  cases doubt <;> simp only <;> split
  · exact covers_becomeInconsistent s
  · exact h.covers
  · exact covers_becomeInconsistent s
  · exact (h.trans (tracks_resolveDoubt _ _ _)).covers

theorem covers_journalRead (s : State) (t : Txn) : Covers s (journalRead s t) := by
  unfold journalRead
  repeat' split
  · exact .refl s
  · exact covers_coverRead ..
  · exact covers_coverRead ..
  · exact covers_compareRead ..
  · exact covers_compareRead ..

theorem tracks_advanceHead (s : State) (n : Nat) : Tracks s (advanceHead s n) := by
  unfold advanceHead
  simp only
  exact ((tracks_journal s _).trans (tracks_journal _ _)).trans (tracks_openHead _)

theorem tracks_acceptAppend (s : State) (image : List (Option Byte)) : Tracks s (acceptAppend s image) := by
  unfold acceptAppend
  simp only
  exact ((tracks_journal s _).trans (tracks_advanceHead _ _)).trans (tracks_journal _ _)

/-! ## The stage of a search -/

theorem SearchRests.congr {s t : State} (h : SearchRests s) (hp : t.search.phase = s.search.phase)
    (hs : t.search.stage = s.search.stage) : SearchRests t := by
  unfold SearchRests
  rw [hp, hs]
  exact h

theorem searchRests_endSearch (s : State) (r : SearchResult) (f : Option Str) : SearchRests (endSearch s r f) := by
  simp [SearchRests, endSearch]

theorem searchRests_nextTest {s : State} (h : s.search.phase ≠ .idle) (xs : List Str) : SearchRests (nextTest s xs) := by
  unfold nextTest
  split
  · split <;> exact searchRests_endSearch ..
  · simp [SearchRests, setRoles, h]

theorem searchRests_enterSweep (s : State) : SearchRests (enterSweep s) := by
  unfold enterSweep
  simp only
  split
  · exact searchRests_endSearch ..
  · simp [SearchRests]

theorem searchRests_notConfirmed (s : State) : SearchRests (notConfirmed s) := by
  unfold notConfirmed
  split
  · exact searchRests_enterSweep s
  · exact searchRests_endSearch ..

theorem searchRests_beginStep (s : State) (xs : List Str) : SearchRests (beginStep s xs) := by
  unfold beginStep
  split
  · exact searchRests_notConfirmed _
  · simp [SearchRests, beginConfirm]
  · simp [SearchRests, beginHalving]

theorem searchRests_takeOvertaken {s : State} (h : SearchRests s) (gone : List Str) : SearchRests (takeOvertaken s gone) := by
  unfold takeOvertaken
  simp only
  split
  · exact h.congr rfl rfl
  · next hp =>
    split
    · exact searchRests_endSearch ..
    · simp [SearchRests, hp]
  · exact searchRests_beginStep ..
  · exact searchRests_notConfirmed _
  · next hp =>
    split
    · split
      · exact searchRests_nextTest (by simp [hp]) _
      · exact h.congr rfl rfl
    · split
      · exact searchRests_endSearch ..
      · exact h.congr rfl rfl

theorem searchRests_searchReact (s₀ : State) {s₁ : State} (h : SearchRests s₁) : SearchRests (searchReact s₀ s₁) := by
  unfold searchReact
  simp only
  repeat' split
  · exact h.congr rfl rfl
  · exact searchRests_endSearch ..
  · exact searchRests_endSearch ..
  · exact searchRests_endSearch ..
  · exact h.congr rfl rfl
  · exact searchRests_takeOvertaken h _

theorem searchRests_judgeSwitchWait {s : State} (h : SearchRests s) : SearchRests (judgeSwitchWait s) := by
  have active (hs : s.search.stage ≠ .none) : s.search.phase ≠ .idle := fun hp => hs (h.mp hp)
  unfold judgeSwitchWait
  split
  · split
    · next hs =>
      have hp := active (by simp [hs])
      split <;> simp [SearchRests, hp]
    · next hs => exact searchRests_nextTest (active (by simp [hs])) _
    all_goals exact h
  · exact h.congr rfl rfl

theorem refreshPins_search (s : State) : (refreshPins s).search = s.search := rfl

/-- The search stands after the switch wait as it will at the end of the event. -/
theorem finish_search (s₀ s₁ : State) :
    (finish s₀ s₁).search = (judgeSwitchWait (carryOut (searchReact s₀ s₁))).search := by
  unfold finish
  rw [refreshPins_search, carryOut_search]

theorem searchRests_finish (s₀ : State) {s₁ : State} (h : SearchRests s₁) : SearchRests (finish s₀ s₁) := by
  have a := (searchRests_searchReact s₀ h).congr (by rw [carryOut_search]) (by rw [carryOut_search])
  exact (searchRests_judgeSwitchWait a).congr (by rw [finish_search]) (by rw [finish_search])

theorem searchRests_judgeValue {s : State} (h : SearchRests s) (v : Nat) : SearchRests (judgeValue s v) := by
  unfold judgeValue
  simp only
  split
  · exact h.congr rfl rfl
  · split
    · exact searchRests_endSearch ..
    · exact searchRests_beginStep ..
  · repeat' split
    · exact searchRests_endSearch ..
    · exact searchRests_beginStep ..
    · exact searchRests_beginStep ..
  · repeat' split
    · exact searchRests_endSearch ..
    · exact searchRests_notConfirmed _
    · exact searchRests_notConfirmed _
  · next hp =>
    split
    · exact h.congr rfl rfl
    · refine searchRests_nextTest ?_ _
      split <;> simp [State.latch, hp]

theorem searchRests_judgeCompletion {s : State} (h : SearchRests s) : SearchRests (judgeCompletion s) := by
  unfold judgeCompletion
  repeat' split
  · exact searchRests_endSearch ..
  · exact h.congr rfl rfl
  · exact searchRests_endSearch ..
  · exact h.congr rfl rfl
  · exact h.congr rfl rfl
  · exact searchRests_judgeValue h _
  · exact h.congr rfl rfl

theorem searchRests_startSearch (s : State) : SearchRests (startSearch s) := by
  unfold startSearch
  simp only
  split
  · exact searchRests_endSearch ..
  · simp [SearchRests]

theorem searchRests_searchOnCompletion {s : State} (h : SearchRests s) : SearchRests (searchOnCompletion s) := by
  have hr : SearchRests (recovered s) := by
    unfold recovered
    split
    · exact h.congr rfl rfl
    · exact h.congr rfl rfl
  unfold searchOnCompletion
  simp only
  split
  · split
    · exact searchRests_startSearch _
    · exact hr
  · exact searchRests_judgeCompletion hr

end Sys2Proof.Machine

/-! The invariant of O8: the end of every event sets the table, the sequencers and the pins, and every command that ends no event moves
nothing that they follow. -/

namespace Sys2Proof.Machine

/-- The invariants that O8 keeps at every step. -/
structure Kept (s : State) : Prop where
  table : TableAgrees s
  pins  : PinsAgree s
  quiet : ResetQuiet s
  rests : SearchRests s
  hold  : HoldWaits s
  taken : TargetsTaken s
  addr  : AddressesAgree s

/-- `t` agrees with `s` in all that targets, coherence, pins and the hold stage follow, and no settle has started in it. -/
structure Still (s t : State) : Prop where
  cfg     : t.cfg = s.cfg := by rfl
  entry   : ∀ i : Str, ∃ x, t.table[i] = { s.table[i] with lastRefusal := x } := by exact fun i => ⟨_, rfl⟩
  evid    : t.evid = s.evid := by rfl
  shdn    : t.inputs.shdnActive = s.inputs.shdnActive := by rfl
  journal : t.journal.state = s.journal.state := by rfl
  ever    : t.journal.everAdopted = s.journal.everAdopted := by rfl
  holds   : ∀ i : Str, pendingHolds t i = pendingHolds s i := by exact fun _ => rfl
  bad     : t.capture.state = s.capture.state := by rfl
  adopted : t.capture.adopted = s.capture.adopted := by rfl
  attn    : t.search.attn = s.search.attn := by rfl
  hold    : t.search.stage = .hold → s.search.stage = .hold := by exact id
  rests   : SearchRests s → SearchRests t := by exact fun h => h.congr rfl rfl
  fault   : t.iso.fault = s.iso.fault := by rfl
  state   : ∀ i : Str, t.seqs[i].state = s.seqs[i].state := by exact fun _ => rfl
  settle  : ∀ (i : Str) (a : Act), t.seqs[i].act = some a → a.phase = .settle → s.seqs[i].act = some a := by
    exact fun _ _ h _ => h
  pins    : t.pins = s.pins := by rfl

theorem Still.trans {a b c : State} (h : Still a b) (k : Still b c) : Still a c where
  cfg := k.cfg.trans h.cfg
  entry i := by
    obtain ⟨x, hx⟩ := h.entry i
    obtain ⟨y, hy⟩ := k.entry i
    exact ⟨y, by rw [hy, hx]⟩
  evid := k.evid.trans h.evid
  shdn := k.shdn.trans h.shdn
  journal := k.journal.trans h.journal
  ever := k.ever.trans h.ever
  holds i := (k.holds i).trans (h.holds i)
  bad := k.bad.trans h.bad
  adopted := k.adopted.trans h.adopted
  attn := k.attn.trans h.attn
  hold := h.hold ∘ k.hold
  rests := k.rests ∘ h.rests
  fault := k.fault.trans h.fault
  state i := (k.state i).trans (h.state i)
  settle i a ha hp := h.settle i a (k.settle i a ha hp) hp
  pins := k.pins.trans h.pins

section still
variable {s t : State} (k : Still s t)
include k

theorem Still.present (i : Str) : isPresent t i = isPresent s i := isPresent_congr k.cfg i

theorem Still.target (i : Str) : targetOf t i = targetOf s i := by
  obtain ⟨_, hx⟩ := k.entry i
  unfold targetOf ownIsolated
  rw [k.evid, k.shdn, k.ever, hx]

theorem Still.coherence (i : Str) : coherenceOf t i = coherenceOf s i := by
  obtain ⟨_, hx⟩ := k.entry i
  unfold coherenceOf
  rw [k.holds i, k.evid, hx]

theorem Still.tableAgrees (h : TableAgrees s) : TableAgrees t := by
  intro i hi
  rw [k.present] at hi
  obtain ⟨_, hx⟩ := k.entry i
  rw [k.target, k.coherence, hx]
  exact h i hi

theorem Still.anyPresent {p q : Str → Bool} (h : ∀ i, p i = q i) : anyPresent t p = anyPresent s q := by
  unfold Machine.anyPresent
  congr 1
  funext i
  rw [k.present, h]

theorem Still.reasons : attentionReasons t = attentionReasons s := by
  have h₀ : unrecordedReason t = unrecordedReason s := k.anyPresent fun i => by
    obtain ⟨_, hx⟩ := k.entry i
    rw [hx]
  have h₁ : failedReason t = failedReason s := k.anyPresent fun i => by rw [k.state]
  have h₂ : damagedReason t = damagedReason s := k.anyPresent fun i => by
    obtain ⟨_, hx⟩ := k.entry i
    rw [hx]
  unfold attentionReasons
  rw [h₀, h₁, h₂, k.bad, k.journal, k.adopted, k.attn, k.fault]

theorem Still.trip : backupTrip t = backupTrip s := by
  unfold backupTrip
  rw [k.cfg, k.anyPresent fun i => by rw [k.state, k.evid]]

theorem Still.pinsAgree (h : PinsAgree s) : PinsAgree t := by
  unfold PinsAgree
  rw [k.reasons, k.trip, k.pins]
  exact h

theorem Still.waitHolds : switchWaitHolds t = switchWaitHolds s := by
  unfold switchWaitHolds
  congr 1
  funext i
  obtain ⟨_, hx⟩ := k.entry i
  rw [hx, k.state, k.present]

theorem Still.holdWaits (h : HoldWaits s) : HoldWaits t := fun ht => k.waitHolds.trans (h (k.hold ht))

theorem Still.targetsTaken (h : TargetsTaken s) : TargetsTaken t := by
  intro i hi
  rw [k.present] at hi
  obtain ⟨hc, hi', hs⟩ := h i hi
  obtain ⟨_, hx⟩ := k.entry i
  rw [hx]
  refine ⟨?_, ?_, fun e hq a ha hp => ?_⟩
  · rwa [k.state]
  · rwa [k.state]
  · rw [k.state] at hq
    exact hs e hq a (k.settle i a ha hp) hp

/-- A change that moves nothing that is followed keeps the invariants, if it keeps the two about the transaction and the reset. -/
theorem Still.kept (h : Kept s) (hq : ResetQuiet t) (ha : AddressesAgree t) : Kept t :=
  ⟨k.tableAgrees h.table, k.pinsAgree h.pins, hq, k.rests h.rests, k.holdWaits h.hold, k.targetsTaken h.taken, ha⟩

/-- The case of a change in which a transaction goes on or ends. -/
theorem Still.kept_txn (h : Kept s) (hr : t.inReset = s.inReset)
    (ht : ∀ x, t.txn = some x → ∃ y, s.txn = some y ∧ x.cfg = y.cfg ∧ (y.start < y.cfg.memSize → x.start < y.cfg.memSize)) :
    Kept t := by
  refine k.kept h ⟨?_, fun e => ?_⟩ ⟨?_, fun x hx => ?_⟩
  · rw [k.adopted, k.cfg]
    exact h.quiet.1
  · rw [hr] at e
    obtain ⟨a, b⟩ := h.quiet.2 e
    refine ⟨k.adopted.trans a, Option.eq_none_iff_forall_ne_some.mpr fun x hx => ?_⟩
    obtain ⟨y, hy, _⟩ := ht x hx
    exact absurd (b.symm.trans hy) (by simp)
  · rw [k.cfg]
    exact h.addr.1
  · obtain ⟨y, hy, hc, hs⟩ := ht x hx
    obtain ⟨hm, hl⟩ := h.addr.2 y hy
    rw [hc]
    exact ⟨hm, hs hl⟩

/-- The case of a change beside the transaction. -/
theorem Still.kept_same (h : Kept s) (hr : t.inReset = s.inReset) (ht : t.txn = s.txn) : Kept t :=
  k.kept_txn h hr fun x hx => ⟨x, by rw [← ht]; exact hx, rfl, id⟩

/-- The case of a change that ends the transaction. -/
theorem Still.kept_ended (h : Kept s) (hr : t.inReset = s.inReset) (ht : t.txn = none) : Kept t :=
  k.kept_txn h hr fun x hx => absurd (ht.symm.trans hx) (by simp)

end still

/-! ## Single changes -/

theorem still_journal (s : State) (j : Journal) (hs : j.state = s.journal.state) (he : j.everAdopted = s.journal.everAdopted)
    (hp : j.prog = s.journal.prog) : Still s (s.setJournal j) where
  journal := hs
  ever := he
  holds i := by
    unfold pendingHolds
    simp only [setJournal_journal, hp]

theorem still_setSeq (s : State) (i : Str) (q : Seq) (hs : q.state = s.seqs[i].state)
    (ha : ∀ a, q.act = some a → a.phase = .settle → s.seqs[i].act = some a) : Still s (s.setSeq i q) where
  state j := by
    by_cases h : i = j
    · subst h
      rw [setSeq_self, hs]
    · rw [setSeq_other s h]
  settle j a hj hp := by
    by_cases h : i = j
    · subst h
      rw [setSeq_self] at hj
      exact ha a hj hp
    · rwa [setSeq_other s h] at hj

theorem still_disturb (s : State) : Still s s.disturb where

/-- A pulse that starts moves no switch state. -/
theorem still_pulse (s : State) (i : Str) (a : Act) : Still s (pulse s i a) := by
  refine (still_setSeq s i { s.seqs[i] with act := some (a.startPulse s.lines[i] s.now) } rfl fun b hb hp => ?_).trans
    (still_disturb _)
  obtain rfl : a.startPulse s.lines[i] s.now = b := Option.some.inj hb
  exact absurd hp (by simp [Act.startPulse])

theorem still_failErase (s : State) (r : CommitResult) : Still s (failErase s r) := by
  cases h : s.journal.erase with
  | none =>
    unfold failErase
    rw [h]
    exact {}
  | some c =>
    rw [failErase_eq s c r h]
    exact still_journal s _ rfl rfl rfl

theorem still_resumeErase (s : State) : Still s (resumeErase s) := by
  unfold resumeErase
  repeat' split
  · exact still_journal s _ rfl rfl rfl
  · exact {}
  · exact {}

theorem still_noteRefusal (s : State) (code : RefusalCode) (str : Option Str) : Still s (noteRefusal s code str) := by
  unfold noteRefusal
  split
  · next i =>
    refine { entry := fun j => ?_ }
    by_cases h : i = j
    · subst h
      exact ⟨some code, by simp⟩
    · have : i.val ≠ j.val := fun e => h (Fin.ext e)
      exact ⟨_, by simp [this]; rfl⟩
  · exact {}

theorem still_commitErase (s : State) (t : Txn) (c : CmdClass) : Still s (commitErase s t c) := by
  unfold commitErase acceptJournalErase
  simp only
  split
  · split
    · exact {}
    · exact {}
  · split
    · exact {}
    · exact {}

/-- A program that is accepted finds no other pending. -/
theorem prog_of_accepted {s : State} {t : Txn} {c : CmdClass} (h : verdict s t c = .accepted) : s.journal.prog = none := by
  by_contra hn
  have hp : s.journal.prog.isSome = true := Option.isSome_iff_ne_none.mpr hn
  have hc : commitPending s = true := by simp [commitPending, hp]
  have hb : besideSuspended s t c = false := by
    unfold besideSuspended
    rw [Option.isNone_eq_false_iff.mpr hp]
    simp
  unfold verdict protectedVerdict at h
  rw [hc, hb] at h
  split at h
  · repeat' split at h
    all_goals simp_all
  · simp at h

theorem still_commitProgram {s : State} {t : Txn} (hj : touches s t .program .journal = false) (hn : s.journal.prog = none) :
    Still s (commitProgram s t) := by
  unfold commitProgram
  rw [hj]
  have h : Still s (s.setJournal { s.journal with
      prog := some ⟨commitKindOf s t .program, t.page, 0, [], s.now + ms s.cfg.tPc⟩ }) :=
    { holds := fun i => by simp [pendingHolds, hn] }
  simp only [Bool.false_eq_true, if_false]
  split
  · exact h.trans {}
  · exact h

/-! ## The rows of the bus -/

theorem still_release (s : State) (r : Release) (b : Byte) (e : MemEnd) : Still s (s.release r b e) where

theorem kept_unforwarded {s : State} (h : Kept s) (xs : List Xfer) (rel : Option Release) (ht : s.txn = none) :
    Kept (unforwarded s xs rel) := by
  unfold unforwarded
  simp only
  split
  · exact Still.kept_same {} h rfl rfl
  · exact Still.kept_same {} h rfl rfl

/-- The start address of a whole address byte lies in the memory (R110). -/
theorem addressByte_start (t : Txn) (b : Byte) (h : 0 < t.cfg.memSize) : (t.addressByte b).start < t.cfg.memSize := by
  unfold Txn.addressByte
  simp only
  split
  · exact Nat.mod_lt _ h
  · exact h

/-- The record `x` follows `t` in a transaction: the settings stand, and the start address stays in the memory. -/
def Txn.Follows (t x : Txn) : Prop :=
  x.cfg = t.cfg ∧ (0 < t.cfg.memSize → t.start < t.cfg.memSize → x.start < t.cfg.memSize)

theorem follows_addressByte (t : Txn) (b : Byte) : t.Follows (t.addressByte b) := ⟨rfl, fun h _ => addressByte_start t b h⟩

theorem follows_countByte (t : Txn) : t.Follows t.countByte := ⟨rfl, fun _ => id⟩

theorem follows_readByte (t : Txn) (c : Option Byte) : t.Follows (t.readByte c) := ⟨rfl, fun _ => id⟩

theorem follows_programByte (t : Txn) (b : Byte) : t.Follows (t.programByte b) := ⟨rfl, fun _ => id⟩

theorem kept_exchange {s : State} {t x : Txn} (h : Kept s) (ht : s.txn = some t) (hx : t.Follows x) (y : Xfer) (b : Byte) :
    Kept ((s.setTxn x).exchange y b) :=
  Still.kept_txn {} h rfl fun z hz => by
    obtain rfl := Option.some.inj hz
    exact ⟨t, ht, hx.1, hx.2 (h.addr.2 t ht).1⟩

theorem still_latchNext (s : State) (t : Txn) : Still s (latchNext s t) := by
  obtain ⟨w, hw, _⟩ := latchNext_spec s t
  rw [hw]
  exact {}

theorem kept_passRead {s : State} {t x : Txn} (h : Kept s) (ht : s.txn = some t) (hx : t.Follows x) (y : Xfer) (b : Byte) :
    Kept (passRead s x y b) := by
  obtain ⟨w, hw, _⟩ := latchNext_spec ((s.setTxn x).exchange y b) x
  unfold passRead
  rw [hw]
  exact Still.kept_same {} (kept_exchange h ht hx y b) rfl rfl

theorem kept_passByte (s : State) (x : Xfer) (h : Kept s) : Kept (passByte s x) := by
  unfold passByte
  split
  · exact h
  · next t ht => exact kept_exchange h ht (follows_countByte t) ..

theorem kept_readByte (s : State) (x : Xfer) (h : Kept s) : Kept (readByte s x) := by
  unfold readByte dataByte
  split
  · exact h
  · next t ht =>
    repeat' split
    · exact kept_exchange h ht (follows_addressByte t _) ..
    · exact kept_passRead h ht (follows_addressByte t _) ..
    · exact kept_exchange h ht (follows_countByte t) ..
    · exact kept_passRead h ht (follows_readByte t _) ..
    · exact kept_passRead h ht (follows_readByte t _) ..
    · exact kept_passRead h ht (follows_readByte t _) ..

theorem kept_programByte (s : State) (x : Xfer) (h : Kept s) : Kept (programByte s x) := by
  unfold programByte
  split
  · exact h
  · next t ht =>
    split
    · exact kept_exchange h ht (follows_addressByte t _) ..
    · exact kept_exchange h ht (follows_programByte t _) ..

theorem kept_eraseByte (s : State) (x : Xfer) (h : Kept s) : Kept (eraseByte s x) := by
  unfold eraseByte
  split
  · exact h
  · next t ht =>
    split
    · exact kept_exchange h ht (follows_addressByte t _) ..
    · exact kept_exchange h ht (follows_countByte t) ..

/-! ## The end of an event -/

/-- What the three invariants that an event does not set anew need of the state before its end. -/
structure EventReady (s : State) : Prop where
  quiet : ResetQuiet s
  rests : SearchRests s
  addr  : AddressesAgree s

theorem Kept.ready {s : State} (h : Kept s) : EventReady s := ⟨h.quiet, h.rests, h.addr⟩

theorem EventReady.congr {s t : State} (h : EventReady s) (hc : t.cfg = s.cfg) (ha : t.capture.adopted = s.capture.adopted)
    (hr : t.inReset = s.inReset) (ht : t.txn = s.txn) (hs : SearchRests t) : EventReady t := by
  refine ⟨?_, hs, ?_⟩
  · unfold ResetQuiet
    rw [hc, ha, hr, ht]
    exact h.quiet
  · unfold AddressesAgree
    rw [hc, ht]
    exact h.addr

theorem EventReady.covers {s t : State} (h : EventReady s) (k : Covers s t) : EventReady t :=
  h.congr k.same.cfg k.same.adopted k.same.inReset k.same.txn (h.rests.congr (by rw [k.same.search]) (by rw [k.same.search]))

theorem EventReady.carries {s t : State} (h : EventReady s) (k : Carries s t) (hs : SearchRests t) : EventReady t :=
  h.congr k.cfg (by rw [k.capture]) k.inReset k.txn hs

/-- The end of every event: targets, sequencers, hold stage and pins are set, and the other invariants kept. -/
theorem kept_finish (s₀ : State) {s₁ : State} (h : EventReady s₁) : Kept (finish s₀ s₁) := by
  have r := h.carries (carries_finish s₀ s₁) (searchRests_finish s₀ h.rests)
  exact ⟨finish_agrees s₀ s₁, finish_pins s₀ s₁, r.quiet, r.rests, finish_holdWaits s₀ s₁, finish_targetsTaken s₀ s₁, r.addr⟩

theorem kept_statusByte (s : State) (x : Xfer) (h : Kept s) : Kept (statusByte s x) := by
  unfold statusByte
  split
  · exact h
  · next t ht =>
    have hc := covers_observe s t.cfg x.miso
    have ht' : (finish s (observe s t.cfg x.miso)).txn = some t := by
      rw [(carries_finish ..).txn, hc.same.txn, ht]
    exact kept_exchange (kept_finish s (h.ready.covers hc)) ht' (follows_countByte t) ..

/-! ## Reads -/

theorem ready_capture {s : State} (h : EventReady s) (c : Capture) (ha : c.adopted = s.capture.adopted) :
    EventReady { s with capture := c } := h.congr rfl ha rfl rfl (h.rests.congr rfl rfl)

theorem captureSegment_adopted (r : ReadStream) (s : State) (j : Fin 8) :
    ∃ c, captureSegment r s j = { s with capture := c } ∧ c.adopted = s.capture.adopted := by
  unfold captureSegment
  split
  · exact ⟨s.capture, rfl, rfl⟩
  · exact ⟨_, rfl, rfl⟩

theorem ready_captureSegments {s : State} (h : EventReady s) (r : ReadStream) (js : List (Fin 8)) :
    EventReady (js.foldl (captureSegment r) s) := by
  induction js generalizing s with
  | nil => exact h
  | cons j js ih =>
    obtain ⟨c, hc, ha⟩ := captureSegment_adopted r s j
    rw [List.foldl_cons, hc]
    exact ih (ready_capture h c ha)

theorem memSize_parseBlock (bs : List Byte) : 0 < (parseBlock bs).memSize :=
  Nat.mul_pos (by decide) (Nat.pow_pos (by decide))

/-- A state with a configuration adopted, out of reset and with no transaction in progress, meets the invariants but for the search. -/
theorem ready_adopted {s : State} (ha : s.capture.adopted = true) (hr : s.inReset = false) (hm : 0 < s.cfg.memSize)
    (ht : s.txn = none) (hs : SearchRests s) : EventReady s :=
  ⟨⟨fun h => by simp_all, fun h => by simp_all⟩, hs, hm, fun t h => by simp_all⟩

theorem leavePresence_search (s : State) (n : Nat) : (leavePresence s n).search = s.search := by
  unfold leavePresence
  split
  · simp only [disturb_search, dropLeaving]
  · simp only [dropLeaving]

theorem adoptK_search (s : State) (k : Nat) : (adoptK s k).search = s.search := by
  unfold adoptK
  split <;> rfl

theorem firstAdoption_search (s : State) (c : Config) : (firstAdoption s c).search = s.search :=
  (adoptK_search ..).trans (leavePresence_search ..)

theorem laterAdoption_search (s : State) (c : Config) : (laterAdoption s c).search = s.search := adoptK_search ..

theorem adoptK_cfg (s : State) (k : Nat) : (adoptK s k).cfg = s.cfg := by
  unfold adoptK
  split <;> rfl

/-- A later adoption leaves the memory size (R174). -/
theorem laterAdoption_memSize (s : State) (c : Config) : (laterAdoption s c).cfg.memSize = s.cfg.memSize := by
  change (adoptK s c.grants).cfg.memSize = s.cfg.memSize
  rw [adoptK_cfg]

theorem adoptK_capture (s : State) (k : Nat) : (adoptK s k).capture = s.capture := by
  unfold adoptK
  split <;> rfl

theorem ready_judgeBlock {s : State} (h : EventReady s) (hr : s.inReset = false) (ht : s.txn = none) : EventReady (judgeBlock s) := by
  have hc : EventReady (clearSegments s) := ready_capture h _ rfl
  unfold judgeBlock
  simp only
  split
  · split
    · next ha =>
      have k := keeps_laterAdoption (clearSegments s) (parseBlock (capturedBlock s))
      have hs := laterAdoption_search (clearSegments s) (parseBlock (capturedBlock s))
      refine ready_adopted ?_ (k.inReset.trans hr) ?_ (k.txn.trans ht) (hc.rests.congr (by rw [hs]) (by rw [hs]))
      · exact (congrArg Capture.adopted (adoptK_capture _ _)).trans ha
      · rw [laterAdoption_memSize]
        exact hc.addr.1
    · have k := keeps_firstAdoption (clearSegments s) (parseBlock (capturedBlock s))
      have hs := firstAdoption_search (clearSegments s) (parseBlock (capturedBlock s))
      exact ready_adopted rfl (k.inReset.trans hr) (memSize_parseBlock _) (k.txn.trans ht)
        (hc.rests.congr (by rw [hs]) (by rw [hs]))
  · exact ready_capture hc _ rfl

theorem ready_readEffects {s : State} (h : EventReady s) (hr : s.inReset = false) (ht : s.txn = none) (t : Txn) :
    EventReady (readEffects s t) := by
  have hj := covers_journalRead s t
  have hk := (keeps_journalRead s t).trans
    (Keeps.foldl (captureSegment t.readStream) (keeps_captureSegment _) (List.finRange 8) _)
  have hc := ready_captureSegments (h.covers hj) t.readStream (List.finRange 8)
  unfold readEffects configRead
  simp only
  split
  · exact ready_judgeBlock hc (hk.inReset.trans hr) (hk.txn.trans ht)
  · exact hc

/-- A transaction is recorded only out of reset. -/
theorem inReset_of_txn {s : State} (h : ResetQuiet s) {t : Txn} (ht : s.txn = some t) : s.inReset = false := by
  by_contra hn
  obtain ⟨_, e⟩ := h.2 (by simpa using hn)
  exact absurd (e.symm.trans ht) (by simp)

theorem ready_release {s : State} (h : EventReady s) (r : Release) (b : Byte) (e : MemEnd) : EventReady (s.release r b e) :=
  ⟨⟨h.quiet.1, fun hr => ⟨(h.quiet.2 hr).1, rfl⟩⟩, h.rests.congr rfl rfl, h.addr.1, fun t ht => by simp at ht⟩

theorem kept_endRead (s : State) (t : Txn) (r : Release) (ht : s.txn = some t) (h : Kept s) : Kept (endRead s t r) :=
  have hr : s.inReset = false := inReset_of_txn h.quiet ht
  kept_finish s (ready_readEffects (ready_release h.ready ..) hr rfl t)

/-! ## Releases -/

theorem kept_release {s : State} (h : Kept s) (r : Release) (b : Byte) (e : MemEnd) : Kept (s.release r b e) :=
  (still_release s r b e).kept_ended h rfl rfl

/-- A change of the mirror alone. -/
theorem kept_mirror {s : State} (h : Kept s) (m : Mirror) : Kept { s with mirror := m } := Still.kept_same {} h rfl rfl

theorem kept_wrenMirror {s : State} (h : Kept s) : Kept (wrenMirror s) := by
  unfold wrenMirror
  split
  · exact kept_mirror h _
  · exact kept_mirror h _
  · exact kept_mirror h _
  all_goals exact h

theorem kept_resumeMirror {s : State} (h : Kept s) : Kept (resumeMirror s) := by
  unfold resumeMirror
  split
  · have k := keeps_resumeErase s
    exact kept_mirror ((still_resumeErase s).kept_same h k.inReset k.txn) _
  all_goals exact h

theorem kept_endPlain {effect : State → State} (he : ∀ s, Kept s → Kept (effect s)) (s : State) (t : Txn) (r : Release)
    (h : Kept s) : Kept (endPlain effect s t r) := by
  unfold endPlain
  split
  · exact he _ (kept_release h ..)
  · exact kept_mirror (kept_release h ..) _

theorem kept_refuse {s : State} (h : Kept s) (t : Txn) (c : CmdClass) (r : Release) (code : RefusalCode) (str : Option Str) :
    Kept (refuse s t c r code str) := by
  unfold refuse
  simp only
  have k := kept_mirror (kept_release h r r.x.miso (.partialByte (lastLevel s.ports r)))
    { (s.release r r.x.miso (.partialByte (lastLevel s.ports r))).mirror with
      refusalFlag := true, wel := .clear, lastRefusal := ⟨some code, str, c, refusedAddr t c⟩ }
  have n := keeps_noteRefusal { s.release r r.x.miso (.partialByte (lastLevel s.ports r)) with
    mirror := { (s.release r r.x.miso (.partialByte (lastLevel s.ports r))).mirror with
      refusalFlag := true, wel := .clear, lastRefusal := ⟨some code, str, c, refusedAddr t c⟩ } } code str
  exact (still_noteRefusal _ code str).kept_same k n.inReset n.txn

/-- The mirror of a forwarded write. -/
theorem kept_releasedMirror {s : State} (h : Kept s) (p : Bool) (c : CmdClass) : Kept (releasedMirror s p c) := by
  unfold releasedMirror
  exact kept_mirror (kept_mirror (kept_mirror h _) _) _

theorem touches_congr {s u : State} (h : u.cfgBase = s.cfgBase) (t : Txn) (c : CmdClass) (k : RegionKind) :
    touches u t c k = touches s t c k := by
  unfold touches spanKinds
  rw [h]

/-- A forwarded write other than an append. -/
theorem kept_forwardWrite {s : State} (h : Kept s) (t : Txn) (c : CmdClass) (r : Release) (ha : verdict s t c = .accepted)
    (hj : c = .program → touches s t .program .journal = false) : Kept (forwardWrite s t c r) := by
  have k := kept_releasedMirror (kept_release h r r.x.miso .asSent) (isProtected s t c) c
  have hp : s.journal.prog = none := prog_of_accepted ha
  unfold forwardWrite
  simp only
  split
  · split
    · next hc =>
      have n := keeps_commitProgram (releasedMirror (s.release r r.x.miso .asSent) (isProtected s t c) c) t
      refine (still_commitProgram ?_ ?_).kept_same k n.inReset n.txn
      · exact (touches_congr rfl t _ _).trans (hj hc)
      · exact hp
    · have n := keeps_commitErase (releasedMirror (s.release r r.x.miso .asSent) (isProtected s t c) c) t c
      exact (still_commitErase ..).kept_same k n.inReset n.txn
  · exact k

theorem kept_endWrite {s : State} (h : Kept s) (t : Txn) (c : CmdClass) (r : Release)
    (hj : c = .program → cleanRelease t c r = true → verdict s t c = .accepted → touches s t .program .journal = false) :
    Kept (endWrite c s t r) := by
  unfold endWrite
  split
  · next hcl =>
    split
    · exact kept_refuse h ..
    · next ha => exact kept_forwardWrite h t c r ha fun hc => hj hc hcl ha
  · exact kept_mirror (kept_release h ..) _

/-- An append that is accepted ends as an event. -/
theorem kept_append {s : State} (h : Kept s) (t : Txn) (r : Release) (hj : touches s t .program .journal = true) :
    Kept (finish s (forwardWrite s t .program r)) := by
  have k := (kept_releasedMirror (kept_release h r r.x.miso .asSent) (isProtected s t .program) .program).ready
  refine kept_finish s ?_
  unfold forwardWrite
  simp only [if_true]
  split
  · unfold commitProgram
    split
    · exact k.covers (tracks_acceptAppend ..).covers
    · next hn => exact absurd ((touches_congr rfl t .program .journal).trans hj) hn
  · exact k

theorem kept_endProgram (s : State) (t : Txn) (r : Release) (h : Kept s) : Kept (endProgram s t r) := by
  unfold endProgram
  split
  · next hc =>
    simp only [Bool.and_eq_true] at hc
    exact kept_append h t r hc.1.2
  · next hc =>
    refine kept_endWrite h t _ r fun _ hcl ha => ?_
    simpa [hcl, ha] using hc

theorem kept_endBlock (s : State) (t : Txn) (r : Release) (h : Kept s) : Kept (endBlock s t r) := by
  unfold endBlock
  split
  · exact kept_release h ..
  · exact kept_refuse h ..

/-- A bus row keeps the invariants if its bytes and its release do. -/
theorem kept_busCommand {mine : Option CmdClass → Bool} {byte : State → Xfer → State} {finally_ : State → Txn → Release → State}
    (bytes : ∀ s x, Kept s → Kept (byte s x)) (ends : ∀ s t r, s.txn = some t → Kept s → Kept (finally_ s t r))
    {s : State} (h : Kept s) (xs : List Xfer) (rel : Option Release) : Kept (busCommand s mine xs rel byte finally_) :=
  busCommand_inv (fun _ xs rel ht h => kept_unforwarded h xs rel ht) bytes ends xs rel h

theorem kept_advance {s : State} (h : Kept s) (dt : Nat) : Kept (s.advance dt) := Still.kept_same {} h rfl rfl

end Sys2Proof.Machine

/-! Every command keeps the invariants of O8. -/

namespace Sys2Proof.Machine

/-! ## The reset state -/

@[simp] theorem reset_table (i : Str) : State.reset.table[i] = Entry.reset := by simp [State.reset]

@[simp] theorem reset_evid (i : Str) : State.reset.evid[i] = Evidence.reset := by simp [State.reset]

@[simp] theorem reset_meas (i : Str) : State.reset.meas[i] = Meas.invalid := by simp [State.reset]

@[simp] theorem reset_seqs (i : Str) : State.reset.seqs[i] = Seq.reset := by simp [State.reset]

/-- At reset every sequencer is without a switch state, and the arbiter's queue is empty. -/
theorem reset_waitsFor (i : Str) : State.reset.seqs[i].waitsFor = none := by
  rw [reset_seqs]
  rfl

theorem reset_grantsInUse : grantsInUse State.reset = 0 := by
  unfold grantsInUse
  rw [List.filter_eq_nil_iff.mpr fun i _ => by rw [reset_seqs]; decide]
  rfl

theorem reset_tableAgrees : TableAgrees State.reset := by
  intro i _
  have hp : pendingHolds State.reset i = false := rfl
  simp only [targetOf, ownIsolated, coherenceOf, hp, reset_table, reset_evid]
  exact ⟨rfl, rfl⟩

theorem anyPresent_eq_false {s : State} {p : Str → Bool} (h : ∀ i, p i = false) : anyPresent s p = false := by
  unfold anyPresent
  simp [h]

theorem reset_pinsAgree : PinsAgree State.reset := by
  have h₀ : unrecordedReason State.reset = false := anyPresent_eq_false fun i => by rw [reset_table]; rfl
  have h₁ : failedReason State.reset = false := anyPresent_eq_false fun i => by rw [reset_seqs]; rfl
  have h₂ : damagedReason State.reset = false := anyPresent_eq_false fun i => by rw [reset_table]; rfl
  have hb : backupTrip State.reset = false := by
    unfold backupTrip
    rw [anyPresent_eq_false fun i => by rw [reset_seqs]; rfl, Bool.and_false]
  unfold PinsAgree attentionReasons
  rw [hb, h₀, h₁, h₂]
  rfl

theorem reset_kept : Kept State.reset where
  table := reset_tableAgrees
  pins := reset_pinsAgree
  quiet := ⟨fun _ => rfl, fun _ => ⟨rfl, rfl⟩⟩
  rests := ⟨fun _ => rfl, fun _ => rfl⟩
  hold h := nomatch h
  taken i _ := by
    rw [reset_table, reset_seqs]
    exact ⟨fun _ => ⟨nofun, nofun⟩, fun h => (nomatch h), fun h => (nomatch h)⟩
  addr := ⟨by decide, fun t h => nomatch h⟩

/-! ## Resets -/

/-- An actuation ends or moves to a phase that is no settle. -/
theorem still_setAct (s : State) (i : Str) (x : Option Act) (hx : ∀ a, x = some a → a.phase ≠ .settle) :
    Still s (s.setSeq i { s.seqs[i] with act := x }) :=
  still_setSeq s i { s.seqs[i] with act := x } rfl fun a ha hp => absurd hp (hx a ha)


theorem resetInput_state (q : Seq) : q.resetInput.state = .unfound := rfl

/-- A reset input carries no settle on (R83). -/
theorem resetInput_act {q : Seq} {a : Act} (h : q.resetInput.act = some a) : a.phase ≠ .settle := by
  obtain ⟨_, hp⟩ := Option.filter_eq_some_iff.mp h
  intro e
  simp [e] at hp

theorem kept_dropState (s : State) (cut : Release) : Kept (dropState s cut) :=
  Still.kept_same {} reset_kept rfl rfl

theorem kept_resetInput (s : State) (cut : Release) (v : Vector Seq 24) :
    Kept { dropState s cut with seqs := mapAll (fun _ q => q.resetInput) v } := by
  have hv (i : Str) : (mapAll (fun _ q => q.resetInput) v)[i] = v[i].resetInput := mapAll_get _ v i
  refine Still.kept_same (s := State.reset) { state := fun i => ?_, settle := fun i a ha hp => ?_ } reset_kept rfl rfl
  · rw [hv, reset_seqs]
    rfl
  · rw [hv] at ha
    exact absurd hp (resetInput_act ha)

theorem kept_resetDriveEnd {s : State} (h : Kept s) (i : Str) (a : Act) (shown : Bool) :
    Kept (if s.inReset && a.phase == .pulse && decide (a.until_ ≤ s.now) then
        s.setSeq i { s.seqs[i] with act := if shown then none else some { a with phase := .travel } }
      else if s.inReset && a.phase == .travel && shown then s.setSeq i { s.seqs[i] with act := none }
      else s) := by
  split
  · refine (still_setAct s i _ fun b hb => ?_).kept_same h rfl rfl
    split at hb
    · exact absurd hb (by simp)
    · obtain rfl := Option.some.inj hb
      simp
  · split
    · exact (still_setAct s i none fun b hb => absurd hb (by simp)).kept_same h rfl rfl
    · exact h

theorem builtin_memSize : 0 < Config.builtin.memSize := by decide

theorem kept_releaseReset {s : State} (h : Kept s) (hr : s.inReset = true) (sel1 sel0 : Bool) :
    Kept (releaseReset s sel1 sel0) := by
  obtain ⟨ha, ht⟩ := h.quiet.2 hr
  have hc : Config.builtin = s.cfg := (h.quiet.1 ha).symm
  unfold releaseReset startIso startScan
  refine Still.kept { cfg := hc } h ⟨fun _ => rfl, fun e => absurd e (by simp)⟩ ⟨builtin_memSize, fun t hx => ?_⟩
  exact absurd (ht.symm.trans hx) (by simp)

/-! ## Measurement and switches -/

/-- `t` differs from `s` at most in what measurement and the switches write. -/
def Moves (s t : State) : Prop :=
  ∃ (e : Vector Evidence 24) (m : Vector Meas 24) (sc : Scan) (x : Iso) (q : Vector Seq 24) (l : Vector Bool 24),
    t = { s with evid := e, meas := m, scan := sc, iso := x, seqs := q, lines := l }

theorem Moves.refl (s : State) : Moves s s := ⟨_, _, _, _, _, _, rfl⟩

theorem Moves.trans {a b c : State} (h : Moves a b) (k : Moves b c) : Moves a c := by
  obtain ⟨_, _, _, _, _, _, rfl⟩ := h
  obtain ⟨_, _, _, _, _, _, rfl⟩ := k
  exact ⟨_, _, _, _, _, _, rfl⟩

theorem Moves.foldl {α : Type} (f : State → α → State) (h : ∀ s a, Moves s (f s a)) (xs : List α) (s : State) :
    Moves s (xs.foldl f s) := by
  induction xs generalizing s with
  | nil => exact .refl s
  | cons x xs ih => exact (h s x).trans (ih (f s x))

theorem moves_setSeq (s : State) (i : Str) (q : Seq) : Moves s (s.setSeq i q) := ⟨_, _, _, _, _, _, rfl⟩

theorem moves_setEvid (s : State) (i : Str) (e : Evidence) : Moves s (s.setEvid i e) := ⟨_, _, _, _, _, _, rfl⟩

theorem moves_actuate (s : State) (i : Str) (q : Seq) : Moves s (s.actuate i q) := ⟨_, _, _, _, _, _, rfl⟩

theorem moves_lines (s : State) (l : Vector Bool 24) : Moves s { s with lines := l } := ⟨_, _, _, _, _, _, rfl⟩

theorem moves_failSwitch (s : State) (i : Str) : Moves s (failSwitch s i) := by
  unfold failSwitch
  simp only
  split
  · exact (moves_actuate s _ _).trans (moves_setEvid _ _ _)
  · exact (moves_setSeq s _ _).trans (moves_setEvid _ _ _)

theorem moves_failClose (s : State) (i : Str) : Moves s (failClose s i) := (moves_actuate s _ _).trans (moves_setEvid _ _ _)

theorem moves_endPulse (s : State) (i : Str) (a : Act) : Moves s (endPulse s i a) := by
  unfold endPulse
  simp only
  split
  · exact moves_actuate ..
  · exact moves_actuate ..

theorem moves_feedbackSeen (s : State) (i : Str) (a : Act) : Moves s (feedbackSeen s i a) := by
  unfold feedbackSeen
  simp only
  repeat' split
  · exact moves_actuate ..
  · exact moves_setSeq ..
  · exact .refl s

theorem moves_scanString (n : Nat) (s : State) (i : Str) : Moves s (scanString n s i) := by
  unfold scanString
  simp only
  split
  · split
    · exact moves_setSeq ..
    · exact (moves_setSeq s _ _).trans (moves_setEvid _ _ _)
    · exact (moves_setSeq s _ _).trans (moves_setEvid _ _ _)
    · exact (moves_setSeq s _ _).trans (moves_failSwitch _ _)
  · exact .refl s

theorem moves_completeScan (s : State) (job : ScanJob) (xs : Vector Sample 24) (bus : Int) :
    Moves s (completeScan s job xs bus) := by
  have hw : Moves s (writeRecords s job xs bus) := by
    unfold writeRecords
    exact ⟨_, _, _, _, _, _, rfl⟩
  have he : Moves s (evaluateAll (writeRecords s job xs bus)) := by
    unfold evaluateAll
    exact hw.trans ⟨_, _, _, _, _, _, rfl⟩
  unfold completeScan
  exact (he.trans (Moves.foldl _ (moves_scanString _) _ _)).trans ⟨_, _, _, _, _, _, rfl⟩

theorem EventReady.moves {s t : State} (h : EventReady s) (k : Moves s t) : EventReady t := by
  obtain ⟨_, _, _, _, _, _, rfl⟩ := k
  exact h.congr rfl rfl rfl rfl (h.rests.congr rfl rfl)

/-- A change of the inputs alone. -/
theorem EventReady.inputs {s : State} (h : EventReady s) (x : Inputs) : EventReady { s with inputs := x } :=
  h.congr rfl rfl rfl rfl (h.rests.congr rfl rfl)

theorem kept_inputs {s : State} (h : Kept s) (x : Inputs) (hx : x.shdnActive = s.inputs.shdnActive) :
    Kept { s with inputs := x } := Still.kept_same { shdn := hx } h rfl rfl

/-- A line change in reset is only remembered (log 20). -/
theorem kept_feedbackSeen {s : State} (h : Kept s) {i : Str} {a : Act} (hr : s.inReset = true) :
    Kept (feedbackSeen s i a) := by
  unfold feedbackSeen
  simp only
  rw [if_neg fun e => absurd (hr.symm.trans e.2) (by simp)]
  split
  · next hp =>
    refine (still_setAct s i _ fun b hb => ?_).kept_same h rfl rfl
    obtain rfl := Option.some.inj hb
    rcases hp with hp | hp <;> simp [hp]
  · exact h

/-! ## Every command -/

/-- The next state that a command answers, if it answers one, keeps the invariants. -/
def Answers (o : Host.Outcome State Fault Refusal) : Prop := ∀ u, o = .next u → Kept u

theorem answers_next {u : State} (h : Kept u) : Answers (.next u) := by
  rintro _ ⟨⟩
  exact h

theorem answers_chipSelect {s : State} (h : Kept s) (dt : Nat) (code : Option Xfer) :
    Answers (execChipSelectAssert dt code s) := by
  have ha := kept_advance h dt
  refine answers_next ?_
  split
  · exact Still.kept_same {} ha rfl rfl
  · next hr =>
    have hr : s.inReset = false := eq_false_of_ne_true hr
    refine Still.kept {} ha ⟨h.quiet.1, fun e => absurd (hr.symm.trans e) (by simp)⟩ ⟨h.addr.1, fun t ht => ?_⟩
    obtain rfl := Option.some.inj ht
    exact ⟨h.addr.1, h.addr.1⟩

/-- `t` differs from `s` at most in the evidence and where the end of an event may change a state. -/
def Latches (s t : State) : Prop := ∃ e : Vector Evidence 24, Carries { s with evid := e } t

theorem Carries.latches {s t : State} (h : Carries s t) : Latches s t := ⟨s.evid, h⟩

theorem latches_endFound (s : State) (i : Str) : Latches s (endFound s i) := ⟨_, carries_endSearch (s.latch i .ground) _ _⟩

theorem latches_judgeValue (s : State) (v : Nat) : Latches s (judgeValue s v) := by
  unfold judgeValue
  simp only
  split
  · exact (Carries.refl s).latches
  · split
    · exact (carries_endSearch ..).latches
    · exact (carries_beginStep ..).latches
  · repeat' split
    · exact latches_endFound ..
    · exact (carries_beginStep ..).latches
    · exact (carries_beginStep ..).latches
  · repeat' split
    · exact latches_endFound ..
    · exact (carries_notConfirmed _).latches
    · exact (carries_notConfirmed _).latches
  · split
    · exact (Carries.refl s).latches
    · next i _ =>
      split
      · exact ⟨(s.latch i .ground).evid, (carries_search (s.latch i .ground) _).trans (carries_nextTest _ _)⟩
      · exact (carries_nextTest ..).latches

theorem latches_judgeCompletion (s : State) : Latches s (judgeCompletion s) := by
  unfold judgeCompletion
  repeat' split
  · exact (carries_endSearch ..).latches
  · exact (Carries.refl s).latches
  · exact (carries_endSearch ..).latches
  · exact (carries_search ..).latches
  · exact (Carries.refl s).latches
  · exact latches_judgeValue ..
  · exact (Carries.refl s).latches

theorem carries_startSearch (s : State) : Carries s (startSearch s) := by
  have h := carries_setRoles s [] (closedStrings s)
  unfold startSearch
  simp only
  split
  · exact h.trans ((carries_search _ _).trans (carries_endSearch _ _ _))
  · exact h.trans (carries_search _ _)

theorem carries_recovered (s : State) : Carries s (recovered s) := by
  unfold recovered
  split
  · exact carries_search ..
  · exact .refl s

theorem latches_searchOnCompletion (s : State) : Latches s (searchOnCompletion s) := by
  have hr := carries_recovered s
  unfold searchOnCompletion
  simp only
  split
  · split
    · exact (hr.trans ((carries_search _ _).trans (carries_startSearch _))).latches
    · exact (hr.trans (carries_search _ _)).latches
  · obtain ⟨e, he⟩ := latches_judgeCompletion (recovered s)
    exact ⟨e, Carries.trans (b := { recovered s with evid := e }) { hr with evid := rfl } he⟩

theorem ready_searchOnCompletion {s : State} (h : EventReady s) : EventReady (searchOnCompletion s) := by
  obtain ⟨_, k⟩ := latches_searchOnCompletion s
  exact h.congr k.cfg (congrArg Capture.adopted k.capture) k.inReset k.txn (searchRests_searchOnCompletion h.rests)

section commands
variable {s : State} (h : Kept s) (dt : Nat)
include h

theorem answers_resetDriveEnd (i : Str) : Answers (execResetDriveEnd dt i s) := by
  have ha := kept_advance h dt
  unfold execResetDriveEnd
  simp only
  split
  · exact answers_next ha
  · exact answers_next (kept_resetDriveEnd ha i _ _)

theorem answers_resetRelease (sel1 sel0 : Bool) : Answers (execResetRelease dt sel1 sel0 s) := by
  have ha := kept_advance h dt
  refine answers_next ?_
  split
  · next hr => exact kept_releaseReset ha (by simp_all) ..
  · exact ha

theorem answers_scanStart : Answers (execScanStart dt s) := by
  have ha := kept_advance h dt
  refine answers_next ?_
  split
  · exact Still.kept_same {} ha rfl rfl
  · exact ha

theorem answers_scanCompletion (xs : Vector Sample 24) (bus : Int) : Answers (execScanCompletion dt xs bus s) := by
  have ha := kept_advance h dt
  unfold execScanCompletion
  simp only
  split
  · exact answers_next ha
  · refine answers_next ?_
    split
    · exact kept_finish _ (ha.ready.moves (moves_completeScan ..))
    · exact ha

theorem answers_insulationCompletion (kohm : Nat) (inBand : Bool) : Answers (execInsulationCompletion dt kohm inBand s) := by
  have ha := kept_advance h dt
  unfold execInsulationCompletion
  simp only
  split
  · exact answers_next ha
  · next job _ =>
    refine answers_next ?_
    split
    · have hm : Moves (s.advance dt) (startIso (writeIso (s.advance dt) job kohm inBand)) := ⟨_, _, _, _, _, _, rfl⟩
      exact kept_finish _ (ready_searchOnCompletion (ha.ready.moves hm))
    · exact ha

theorem answers_searchSettleExpiry : Answers (execSearchSettleExpiry dt s) := by
  have ha := kept_advance h dt
  refine answers_next ?_
  split
  · next hs =>
    refine Still.kept_same { hold := fun e => absurd e (by simp), rests := fun hr => ?_ } ha rfl rfl
    have hp : s.search.phase ≠ .idle := fun hp => absurd (hs.1.symm.trans (hr.mp hp)) (by simp)
    exact ⟨fun e => absurd e hp, fun e => absurd e (by simp)⟩
  · exact ha

theorem answers_searchTimeout : Answers (execSearchTimeout dt s) := by
  have ha := kept_advance h dt
  refine answers_next ?_
  split
  · exact kept_finish _ (ha.ready.carries (carries_endSearch ..) (searchRests_endSearch ..))
  · exact ha

theorem answers_rearm : Answers (execRearmTimerExpiry dt s) := by
  have ha := kept_advance h dt
  refine answers_next ?_
  split
  · exact Still.kept_same {} ha rfl rfl
  · exact ha

theorem answers_shdnLevel (level : Bool) : Answers (execShdnLevelChange dt level s) := by
  have ha := kept_advance h dt
  refine answers_next ?_
  split
  · exact ha
  · exact kept_inputs ha _ rfl

theorem answers_maintLevel (level : Bool) : Answers (execMaintLevelChange dt level s) := by
  have ha := kept_advance h dt
  refine answers_next ?_
  split
  · exact ha
  · exact kept_inputs ha _ rfl

theorem answers_maintActivation : Answers (execMaintActivation dt s) := by
  have ha := kept_advance h dt
  refine answers_next ?_
  split
  · exact kept_inputs ha _ rfl
  · exact ha

theorem answers_maintRelease : Answers (execMaintRelease dt s) := by
  have ha := kept_advance h dt
  refine answers_next ?_
  split
  · exact kept_inputs ha _ rfl
  · exact ha

theorem answers_shutdownActivation : Answers (execShutdownActivation dt s) := by
  have ha := kept_advance h dt
  refine answers_next ?_
  split
  · exact kept_finish _ (ha.ready.inputs _)
  · exact ha

theorem answers_shutdownRelease : Answers (execShutdownRelease dt s) := by
  have ha := kept_advance h dt
  refine answers_next ?_
  split
  · have hl : Moves (s.advance dt) (latchSnapshot (s.advance dt)) := by
      unfold latchSnapshot
      split
      · exact ⟨_, _, _, _, _, _, rfl⟩
      · exact .refl _
    exact kept_finish _ ((ha.ready.moves hl).inputs _)
  · exact ha

theorem answers_closeSettleEnd (i : Str) : Answers (execCloseSettleEnd dt i s) := by
  have ha := kept_advance h dt
  unfold execCloseSettleEnd
  simp only
  split
  · exact answers_next ha
  · refine answers_next ?_
    split
    · exact (still_pulse _ i _).kept_same ha rfl rfl
    · exact ha

theorem answers_openSettleEnd (i : Str) : Answers (execOpenSettleEnd dt i s) := by
  have ha := kept_advance h dt
  unfold execOpenSettleEnd
  simp only
  split
  · exact answers_next ha
  · refine answers_next ?_
    split
    · exact (still_pulse _ i _).kept_same ha rfl rfl
    · exact ha

theorem answers_retryWaitEnd (i : Str) : Answers (execRetryWaitEnd dt i s) := by
  have ha := kept_advance h dt
  unfold execRetryWaitEnd
  simp only
  split
  · exact answers_next ha
  · refine answers_next ?_
    split
    · exact (still_pulse _ i _).kept_same ha rfl rfl
    · exact ha

theorem answers_coilPulseEnd (i : Str) : Answers (execCoilPulseEnd dt i s) := by
  have ha := kept_advance h dt
  unfold execCoilPulseEnd
  simp only
  split
  · exact answers_next ha
  · refine answers_next ?_
    split
    · exact kept_finish _ (ha.ready.moves (moves_endPulse ..))
    · exact ha

theorem answers_feedbackLineChange (i : Str) (closed : Bool) : Answers (execFeedbackLineChange dt i closed s) := by
  have ha := kept_advance h dt
  unfold execFeedbackLineChange
  simp only
  split
  · exact answers_next ha
  · have hl : Kept { s.advance dt with lines := s.lines.set i closed } := Still.kept_same {} ha rfl rfl
    split
    · exact answers_next hl
    · refine answers_next ?_
      split
      · split
        · next hr => exact kept_feedbackSeen hl hr
        · exact kept_finish _ (hl.ready.moves (moves_feedbackSeen ..))
      · exact hl

theorem answers_closeTravelExpiry (i : Str) : Answers (execCloseTravelExpiry dt i s) := by
  have ha := kept_advance h dt
  unfold execCloseTravelExpiry
  simp only
  split
  · exact answers_next ha
  · refine answers_next ?_
    split
    · refine kept_finish _ (ha.ready.moves ?_)
      split
      · exact moves_actuate ..
      · exact moves_failClose ..
    · exact ha

theorem answers_openTravelExpiry (i : Str) : Answers (execOpenTravelExpiry dt i s) := by
  have ha := kept_advance h dt
  unfold execOpenTravelExpiry
  simp only
  split
  · exact answers_next ha
  · refine answers_next ?_
    split
    · refine kept_finish _ (ha.ready.moves ?_)
      repeat' split
      · exact moves_actuate ..
      · exact moves_failSwitch ..
      · exact moves_setSeq ..
    · exact ha

theorem answers_grantReturn (i : Str) : Answers (execGrantReturn dt i s) := by
  have ha := kept_advance h dt
  unfold execGrantReturn
  simp only
  split
  · refine answers_next ?_
    split
    · exact kept_finish _ (ha.ready.moves (moves_setSeq ..))
    · exact ha
  · exact answers_next ha
  · exact answers_next ha

theorem answers_programCommitTimeout : Answers (execProgramCommitTimeout dt s) := by
  have ha := kept_advance h dt
  unfold execProgramCommitTimeout
  simp only
  split
  · exact answers_next ha
  · refine answers_next ?_
    split
    · exact kept_finish _ (ha.ready.covers (tracks_programTimeout _).covers)
    · exact ha

theorem answers_eraseCommitTimeout : Answers (execEraseCommitTimeout dt s) := by
  have ha := kept_advance h dt
  unfold execEraseCommitTimeout
  simp only
  split
  · exact answers_next ha
  · refine answers_next ?_
    split
    · have k := keeps_failErase (s.advance dt) .commitTimeout
      exact kept_mirror ((still_failErase ..).kept_same ha k.inReset k.txn) _
    · exact ha

/-- A bus row answers a state that keeps the invariants, if its bytes and its release do. -/
theorem answers_row {mine : Option CmdClass → Bool} {byte : State → Xfer → State} {finally_ : State → Txn → Release → State}
    (xs : List Xfer) (rel : Option Release) (bytes : ∀ s x, Kept s → Kept (byte s x))
    (ends : ∀ s t r, s.txn = some t → Kept s → Kept (finally_ s t r)) :
    Answers (.next (busCommand (s.advance dt) mine xs rel byte finally_)) :=
  answers_next (kept_busCommand bytes ends (kept_advance h dt) xs rel)

theorem answers_exec (c : Instr) : Answers (exec c s) := by
  cases c with
  | chipSelectAssert dt code => exact answers_chipSelect h dt code
  | read dt xs rel => exact answers_row h dt xs rel kept_readByte kept_endRead
  | readFast dt xs rel => exact answers_row h dt xs rel kept_readByte kept_endRead
  | status dt xs rel => exact answers_row h dt xs rel kept_statusByte fun _ _ _ _ h => kept_release h ..
  | wren dt xs rel =>
    exact answers_row h dt xs rel kept_passByte fun _ _ _ _ h => kept_endPlain (fun _ => kept_wrenMirror) _ _ _ h
  | wrdi dt xs rel =>
    exact answers_row h dt xs rel kept_passByte fun _ _ _ _ h => kept_endPlain (fun _ h => kept_mirror h _) _ _ _ h
  | suspend dt xs rel => exact answers_row h dt xs rel kept_passByte fun _ _ _ _ h => kept_endPlain (fun _ => id) _ _ _ h
  | resume dt xs rel =>
    exact answers_row h dt xs rel kept_passByte fun _ _ _ _ h => kept_endPlain (fun _ => kept_resumeMirror) _ _ _ h
  | program dt xs rel => exact answers_row h dt xs rel kept_programByte fun _ _ _ _ h => kept_endProgram _ _ _ h
  | erase4k dt xs rel => exact answers_row h dt xs rel kept_eraseByte fun _ _ _ _ h => kept_endWrite h _ _ _ nofun
  | erase64k dt xs rel => exact answers_row h dt xs rel kept_eraseByte fun _ _ _ _ h => kept_endWrite h _ _ _ nofun
  | eraseAll dt xs rel => exact answers_row h dt xs rel kept_passByte fun _ _ _ _ h => kept_endWrite h _ _ _ nofun
  | pass dt xs rel => exact answers_row h dt xs rel kept_passByte fun _ _ _ _ h => kept_release h ..
  | block dt xs rel => exact answers_row h dt xs rel kept_passByte fun _ _ _ _ h => kept_endBlock _ _ _ h
  | powerOn edge => exact answers_next (kept_dropState ..)
  | resetInput edge => exact answers_next (kept_resetInput ..)
  | resetDriveEnd dt i => exact answers_resetDriveEnd h dt i
  | resetRelease dt sel1 sel0 => exact answers_resetRelease h dt sel1 sel0
  | scanStart dt => exact answers_scanStart h dt
  | scanCompletion dt xs bus => exact answers_scanCompletion h dt xs bus
  | insulationCompletion dt kohm inBand => exact answers_insulationCompletion h dt kohm inBand
  | searchSettleExpiry dt => exact answers_searchSettleExpiry h dt
  | searchTimeout dt => exact answers_searchTimeout h dt
  | rearmTimerExpiry dt => exact answers_rearm h dt
  | shdnLevelChange dt level => exact answers_shdnLevel h dt level
  | shutdownActivation dt => exact answers_shutdownActivation h dt
  | shutdownRelease dt => exact answers_shutdownRelease h dt
  | maintLevelChange dt level => exact answers_maintLevel h dt level
  | maintActivation dt => exact answers_maintActivation h dt
  | maintRelease dt => exact answers_maintRelease h dt
  | closeSettleEnd dt i => exact answers_closeSettleEnd h dt i
  | openSettleEnd dt i => exact answers_openSettleEnd h dt i
  | coilPulseEnd dt i => exact answers_coilPulseEnd h dt i
  | feedbackLineChange dt i closed => exact answers_feedbackLineChange h dt i closed
  | closeTravelExpiry dt i => exact answers_closeTravelExpiry h dt i
  | openTravelExpiry dt i => exact answers_openTravelExpiry h dt i
  | retryWaitEnd dt i => exact answers_retryWaitEnd h dt i
  | grantReturn dt i => exact answers_grantReturn h dt i
  | programCommitTimeout dt => exact answers_programCommitTimeout h dt
  | eraseCommitTimeout dt => exact answers_eraseCommitTimeout h dt

end commands

/-- A step keeps the invariants: it runs the command at the front on the rest of the queue. -/
theorem kept_step {s u : State} (h : Kept s) (e : step s = .next u) : Kept u := by
  unfold step at e
  split at e
  · exact answers_next h u e
  · next c rest _ => exact answers_exec (s := { s with pending := rest }) (Still.kept_same {} h rfl rfl) c u e

end Sys2Proof.Machine

namespace Sys2Proof.Claims

open Sys2Proof Sys2Proof.Machine

/-- Settles O8: every command either ends an event, which sets the table, the sequencers, the hold stage and the pins anew, or moves
nothing that they follow. -/
theorem tableAndPinsKept : Obligations.TableAndPinsKept := by
  rintro s u ⟨ht, hp, hq, hs, hh, hg, ha⟩ e
  obtain ⟨ht, hp, hq, hs, hh, hg, ha⟩ := kept_step ⟨ht, hp, hq, hs, hh, hg, ha⟩ e
  exact ⟨ht, hp, hq, hs, hh, hg, ha⟩

end Sys2Proof.Claims

/-! The reset state (O3, O4). -/

namespace Sys2Proof.Claims

open Sys2Proof Sys2Proof.Machine

/-- Settles O3: the tables hold the reset value of their entry in every place, and every other field is the one that the reset names. -/
theorem resetValues : Obligations.ResetValues := by
  have hs (i : Str) : State.reset.seqs[i].state = .unfound ∧ State.reset.seqs[i].act = none ∧ State.reset.seqs[i].grant = .none
      ∧ State.reset.seqs[i].probation = 0 ∧ State.reset.seqs[i].qual = 0 := by
    rw [reset_seqs]
    exact ⟨rfl, rfl, rfl, rfl, rfl⟩
  have hg (j : Fin 8) : State.reset.capture.segments[j].valid = false := by
    simp [State.reset, Capture.reset]
  have hx : ∀ x ∈ State.reset.journal.slots, x = .unseen := fun x => List.eq_of_mem_replicate
  have hy : ∀ x ∈ State.reset.journal.sectors, x = ⟨.unseen, 0⟩ := fun x => List.eq_of_mem_replicate
  have hw (l : Fin 25) : State.reset.window[l] = ⟨false, []⟩ := by
    simp [State.reset]
  exact ⟨rfl, rfl, rfl, rfl, rfl, reset_table, reset_evid, reset_meas, hs, rfl, rfl, rfl, rfl, rfl, rfl, rfl, rfl, rfl, rfl, rfl, rfl,
    rfl, rfl, rfl, rfl, rfl, rfl, rfl, rfl, rfl, rfl, rfl, rfl, rfl, rfl, rfl, rfl, rfl, rfl, rfl, hg, rfl, rfl, rfl, rfl, hx, hy, rfl,
    rfl, rfl, hw, rfl⟩

theorem reset_mirrorAgrees : MirrorAgrees State.reset :=
  ⟨fun _ => ⟨rfl, rfl⟩, fun h => (nomatch h), fun h => (nomatch h), fun h => (nomatch h), fun h => (nomatch h)⟩

theorem reset_grantsAgree : GrantsAgree State.reset := by
  have ha (i : Str) : State.reset.seqs[i].act = none := by rw [reset_seqs]; rfl
  refine ⟨?_, fun i a h => ?_, fun i h => ?_⟩
  · rw [reset_grantsInUse]
    exact Nat.zero_le _
  · exact absurd ((ha i).symm.trans h) (by simp)
  · rw [ha i] at h
    exact absurd h (by simp)

theorem reset_arbiterRests : ArbiterRests State.reset :=
  ⟨fun _ => .inl rfl, fun _ h => (nomatch h), fun i _ h => absurd (reset_waitsFor i) h⟩

theorem reset_queueAgrees : QueueAgrees State.reset := ⟨nofun, List.nodup_nil, List.Pairwise.nil⟩

/-- Settles O4: at reset no string waits or is driven, no commit and no search stands, and nothing is claimed against a string. -/
theorem invariantsAtReset : Obligations.InvariantsAtReset :=
  have h := reset_kept
  ⟨h.table, h.pins, h.quiet, h.rests, h.taken, h.hold, h.addr, reset_mirrorAgrees, reset_grantsAgree, reset_arbiterRests,
    reset_queueAgrees⟩

end Sys2Proof.Claims

/-! Releases of programs and erases: what a refused and an accepted one answers (O28). -/

namespace Sys2Proof.Claims

open Sys2Proof Sys2Proof.Machine

/-- A refusal leaves what R126 names. -/
theorem refuse_eq_refused (dt : Nat) (s : State) (t : Txn) (c : CmdClass) (r : Release) (code : RefusalCode) (str : Option Str) :
    refuse (s.advance dt) t c r code str = refused s dt t c r code str := by
  have ha : refusedAddr t c = if c ∈ addressed then t.start else 0 := by cases c <;> rfl
  unfold refuse refused
  rw [ha]
  cases str <;> rfl

/-- A release after the address, and a program's first byte, is clean after a whole number of bytes (R108). -/
theorem cleanRelease_of_complete {t : Txn} {c : CmdClass} {r : Release} (hr : r.bits = 0) (h : Complete t c) :
    cleanRelease t c r = true := by
  obtain ⟨ha, hp⟩ := h
  cases c <;> simp_all [cleanRelease, CmdClass.addrLen, addressed]

/-- The release of a write that is not an accepted append (R120). -/
theorem endProgram_eq_endWrite {s : State} {t : Txn} (h : verdict s t .program = .accepted → touches s t .program .journal = false)
    (r : Release) : endProgram s t r = endWrite .program s t r := by
  unfold endProgram
  refine if_neg fun hc => ?_
  simp only [Bool.and_eq_true, beq_iff_eq] at hc
  exact absurd (hc.1.2.symm.trans (h hc.2)) (by simp)

theorem endWrite_refused {s : State} {t : Txn} {c : CmdClass} {r : Release} {code : RefusalCode} {str : Option Str}
    (hc : cleanRelease t c r = true) (hv : verdict s t c = .refused code str) :
    endWrite c s t r = refuse s t c r code str := by
  unfold endWrite
  rw [if_pos hc, hv]

theorem endWrite_accepted {s : State} {t : Txn} {c : CmdClass} {r : Release} (hc : cleanRelease t c r = true)
    (hv : verdict s t c = .accepted) : endWrite c s t r = forwardWrite s t c r := by
  unfold endWrite
  rw [if_pos hc, hv]

/-- The release of a row of its own class, with no byte before it. -/
theorem exec_row_release {s : State} {t : Txn} {c : CmdClass} (ht : s.txn = some t) (hc : t.cls = some c) (dt : Nat) (r : Release) :
    (c = .program → exec (row c dt [] (some r)) s = .next (endProgram (s.advance dt) t r))
    ∧ (c ∈ [CmdClass.erase4k, .erase64k, .eraseAll] → exec (row c dt [] (some r)) s = .next (endWrite c (s.advance dt) t r))
    ∧ (c = .read ∨ c = .readFast → exec (row c dt [] (some r)) s = .next (endRead (s.advance dt) t r))
    ∧ (c = .block → exec (row c dt [] (some r)) s = .next (endBlock (s.advance dt) t r)) := by
  have hb {mine : Option CmdClass → Bool} {byte : State → Xfer → State} {f : State → Txn → Release → State}
      (hm : mine t.cls = true) : busCommand (s.advance dt) mine [] (some r) byte f = f (s.advance dt) t r := by
    have ht' : (s.advance dt).txn = some t := ht
    rw [busCommand_mine ht' hm, List.foldl_nil, ht']
  refine ⟨?_, fun h => ?_, ?_, ?_⟩
  · rintro rfl
    exact congrArg _ (hb (by simp [hc]))
  · simp only [List.mem_cons, List.not_mem_nil, or_false] at h
    rcases h with rfl | rfl | rfl
    · exact congrArg Host.Outcome.next (hb (mine := (· == some .erase4k)) (by simp [hc]))
    · exact congrArg Host.Outcome.next (hb (mine := (· == some .erase64k)) (by simp [hc]))
    · exact congrArg Host.Outcome.next (hb (mine := (· == some .eraseAll)) (by simp [hc]))
  · rintro (rfl | rfl)
    · exact congrArg Host.Outcome.next (hb (mine := (· == some .read)) (by simp [hc]))
    · exact congrArg Host.Outcome.next (hb (mine := (· == some .readFast)) (by simp [hc]))
  · rintro rfl
    exact congrArg Host.Outcome.next (hb (mine := fun c => c == some .block || c == none) (by simp [hc]))

/-- A clean write whose verdict refuses it answers what R126 leaves. -/
theorem exec_refused {s : State} {t : Txn} {c : CmdClass} {dt : Nat} {r : Release} {code : RefusalCode} {str : Option Str}
    (hw : c ∈ writes) (ht : s.txn = some t) (hc : t.cls = some c) (hr : r.bits = 0) (hf : Complete t c)
    (hv : verdict (s.advance dt) t c = .refused code str) :
    exec (row c dt [] (some r)) s = .next (refused s dt t c r code str) := by
  have hcl := cleanRelease_of_complete hr hf
  obtain ⟨hp, he, _, _⟩ := exec_row_release ht hc dt r
  have hw : c = .program ∨ c ∈ [CmdClass.erase4k, .erase64k, .eraseAll] := by simpa [writes] using hw
  rw [← refuse_eq_refused, ← endWrite_refused hcl hv]
  rcases hw with rfl | hw
  · rw [hp rfl, endProgram_eq_endWrite fun h => absurd (hv.symm.trans h) (by simp)]
  · exact he hw

/-- A clean erase whose verdict accepts it is forwarded. -/
theorem exec_accepted_erase {s : State} {t : Txn} {c : CmdClass} {dt : Nat} {r : Release}
    (hw : c ∈ [CmdClass.erase4k, .erase64k, .eraseAll]) (ht : s.txn = some t) (hc : t.cls = some c) (hr : r.bits = 0)
    (hf : Complete t c) (hv : verdict (s.advance dt) t c = .accepted) :
    exec (row c dt [] (some r)) s = .next (forwardWrite (s.advance dt) t c r) := by
  obtain ⟨_, he, _, _⟩ := exec_row_release ht hc dt r
  rw [he hw, endWrite_accepted (cleanRelease_of_complete hr hf) hv]

/-- A clean program into JOURNAL whose verdict accepts it is forwarded, and its acceptance ends as an event. -/
theorem exec_accepted_append {s : State} {t : Txn} {dt : Nat} {r : Release} (ht : s.txn = some t) (hc : t.cls = some .program)
    (hr : r.bits = 0) (hf : Complete t .program) (hj : touches s t .program .journal = true)
    (hv : verdict (s.advance dt) t .program = .accepted) :
    exec (.program dt [] (some r)) s = .next (finish (s.advance dt) (forwardWrite (s.advance dt) t .program r)) := by
  obtain ⟨hp, _, _, _⟩ := exec_row_release ht hc dt r
  refine (hp rfl).trans (congrArg _ ?_)
  unfold endProgram
  refine if_pos ?_
  have hj : touches (s.advance dt) t .program .journal = true := (touches_congr rfl t .program .journal).trans hj
  rw [cleanRelease_of_complete hr hf, hv, hj]
  rfl

/-! ## Codes -/

/-- The codes with which the bus passage itself refuses (R120). -/
def busCodes : List RefusalCode :=
  [.memoryStateUnknown, .welNotSet, .commitPending, .chipErase, .windowWrite, .eraseSpan, .configWrite, .guarded]

theorem checkEffects_code {s : State} {p : Projection} {i : Str} {r : Record} {d : Disposition} {code : RefusalCode}
    (h : checkEffects s p i r d = some code) : code ∉ busCodes := by
  unfold checkEffects at h
  repeat' split at h
  all_goals cases h
  all_goals decide

theorem checkRecord_code {s : State} {p : Projection} {bs : List Byte} {code : RefusalCode}
    (h : checkRecord s p bs = .error code) : code ∉ busCodes := by
  unfold checkRecord at h
  simp only at h
  split at h
  · cases h
    decide
  · split at h
    · cases h
      decide
    · split at h
      · cases h
        decide
      · split at h
        · cases h
          decide
        · split at h
          · next he =>
            cases h
            exact checkEffects_code he
          · cases h

theorem checkRecords_code {s : State} {code : RefusalCode} {str : Option Str} (xs : List (List Byte)) {p : Projection}
    (h : checkRecords s p xs = .refused code str) : code ∉ busCodes := by
  induction xs generalizing p with
  | nil => exact absurd h (by simp [checkRecords])
  | cons bs rest ih =>
    unfold checkRecords at h
    split at h
    · next he =>
      cases h
      exact checkRecord_code he
    · exact ih h

theorem appendVerdict_code {s : State} {page : Nat} {image : List (Option Byte)} {code : RefusalCode} {str : Option Str}
    (h : appendVerdict s page image = .refused code str) : code ∉ busCodes := by
  unfold appendVerdict at h
  simp only at h
  split at h
  · cases h
    decide
  · split at h
    case h_4 =>
      split at h
      · cases h
        decide
      · split at h
        · cases h
          decide
        · split at h
          · cases h
            decide
          · exact checkRecords_code _ h
    all_goals
      cases h
      decide

theorem eraseVerdict_code {s : State} {j : Nat} {code : RefusalCode} {str : Option Str}
    (h : eraseVerdict s j = .refused code str) : code ∉ busCodes := by
  unfold eraseVerdict at h
  simp only at h
  repeat' split at h
  all_goals cases h
  all_goals decide

theorem journalVerdict_code {s : State} {t : Txn} {c : CmdClass} {code : RefusalCode} {str : Option Str}
    (h : journalVerdict s t c = .refused code str) : code ∉ busCodes := by
  unfold journalVerdict at h
  split at h
  · exact appendVerdict_code h
  · exact eraseVerdict_code h

/-- A refusal by one of the checks of R120 names no string; the others are the journal tracker's. -/
theorem verdict_refused {s : State} {t : Txn} {c : CmdClass} {code : RefusalCode} {str : Option Str}
    (h : verdict s t c = .refused code str) : str = none ∨ journalVerdict s t c = .refused code str := by
  unfold verdict protectedVerdict at h
  split at h
  · iterate 8
      split at h
      · cases h
        exact .inl rfl
    split at h
    · exact .inr h
    · cases h
  · split at h
    · cases h
      exact .inl rfl
    · cases h

/-- No code of the bus passage names a string (R126). -/
theorem verdict_names_none {s : State} {t : Txn} {c : CmdClass} {code : RefusalCode} {str : Option Str}
    (h : verdict s t c = .refused code str) (hb : code ∈ busCodes) : str = none :=
  (verdict_refused h).resolve_right fun hj => journalVerdict_code hj hb

/-- Settles O28: a refusal is what `refuse` leaves, and the checks of the bus passage name no string. -/
theorem refusalEffects : Obligations.RefusalEffects := by
  intro dt r s t ht
  refine ⟨fun c hw hc hr hf code str hv => ⟨exec_refused hw ht hc hr hf hv, verdict_names_none hv⟩, fun hc => ?_⟩
  obtain ⟨_, _, _, hb⟩ := exec_row_release ht hc dt r
  rw [← refuse_eq_refused]
  refine (hb rfl).trans (congrArg _ ?_)
  unfold endBlock
  rw [hc]
  rfl

end Sys2Proof.Claims

/-! The verdict on a journal erase (O34): the tail of the ring, the live strings of a sector, and what an accepted erase becomes. -/

namespace Sys2Proof.Claims

open Sys2Proof Sys2Proof.Machine

/-! ## Spans of one sector -/

/-- A program and an ERASE_4K touch the sector of their address alone (R112). -/
theorem spanKinds_single {c : CmdClass} (h : c = .program ∨ c = .erase4k) (s : State) (t : Txn) :
    spanKinds s t c = [sectorKind t.cfg s.cfgBase (t.start / 4096)] := by
  have hp : (t.start - t.start % 256) / 4096 = t.start / 4096 := by omega
  have he : (t.start - t.start % 4096) / 4096 = t.start / 4096 := by omega
  rcases h with rfl | rfl
  · simp [spanKinds, sectorsOf, spanOf, Txn.page, upTo, hp]
  · simp [spanKinds, sectorsOf, spanOf, upTo, he]

theorem touches_single {c : CmdClass} (h : c = .program ∨ c = .erase4k) (s : State) (t : Txn) (k : RegionKind) :
    touches s t c k = (sectorKind t.cfg s.cfgBase (t.start / 4096) == k) := by
  unfold touches
  rw [spanKinds_single h]
  cases sectorKind t.cfg s.cfgBase (t.start / 4096) <;> cases k <;> rfl

section journal
variable {s : State} {t : Txn} {c : CmdClass} (hc : c = .program ∨ c = .erase4k)
  (hk : sectorKind t.cfg s.cfgBase (t.start / 4096) = .journal)
include hc hk

theorem touches_journal : touches s t c .journal = true := by
  rw [touches_single hc, hk]
  rfl

theorem isProtected_journal : isProtected s t c = true := by
  unfold isProtected
  rw [spanKinds_single hc, hk]
  rfl

/-- With the checks 1 to 3 passed, the journal tracker judges a write into JOURNAL (R120). -/
theorem verdict_journal (hm : s.mirror.state ≠ .unknown) (hw : s.mirror.wel = .set)
    (hp : (commitPending s && !besideSuspended s t c) = false) : verdict s t c = journalVerdict s t c := by
  have ht (k : RegionKind) (h : k ≠ .journal) : touches s t c k = false := by
    rw [touches_single hc, hk]
    simpa using h.symm
  have hn : c ≠ .eraseAll ∧ c ≠ .erase64k := by rcases hc with rfl | rfl <;> decide
  unfold verdict protectedVerdict
  rw [isProtected_journal hc hk, touches_journal hc hk, ht .window (by decide), ht .config (by decide), ht .guarded (by decide), hp]
  simp [hm, hw, hn]

end journal

theorem commitPending_eq_false {s : State} (hp : s.journal.prog = none) (he : s.journal.erase = none) : commitPending s = false := by
  simp [commitPending, hp, he]

/-! ## The tail -/

/-- Every place of a ring is reached from a given one. -/
theorem exists_rotation (a : Nat) {n k : Nat} (h : k < n) : ∃ d < n, (a + d) % n = k := by
  refine ⟨(k + (n - a % n)) % n, Nat.mod_lt _ (by omega), ?_⟩
  have ha := Nat.mod_lt a (by omega : 0 < n)
  rw [Nat.add_mod, Nat.mod_mod, ← Nat.add_mod]
  have e : a + (k + (n - a % n)) = k + n * (a / n + 1) := by
    have := Nat.div_add_mod a n
    rw [Nat.mul_add]
    omega
  rw [e, Nat.add_mul_mod_self_left, Nat.mod_eq_of_lt h]

/-- The state of a sector, where it is one that the table does not give a missing sector. -/
theorem stateOf_eq_some {s : State} {k : Nat} {x : SectorState} (hx : x ≠ .unseen) :
    stateOf s k = some x ↔ (sectorAt s k).state = x := by
  unfold stateOf sectorAt
  rw [List.getD_eq_getElem?_getD]
  cases s.journal.sectors[k]? with
  | none => simpa using hx.symm
  | some y => simp

theorem sectorAt_eq {s : State} {k : Nat} {y : Sector} (h : s.journal.sectors[k]? = some y) : sectorAt s k = y := by
  unfold sectorAt
  rw [List.getD_eq_getElem?_getD, h]
  rfl

theorem tailFrom_eq (s : State) : tailFrom s = if headOpen s then headSector s + 1 else headSector s := by
  unfold tailFrom headOpen headSector
  simp only [stateOf_eq_some (x := .head) (by decide), beq_iff_eq]

/-- The tail of the sector table is the first sector in ring order that is not ERASED (R133). -/
theorem eq_findTail_iff (s : State) (j : Nat) :
    j = findTail s ↔
      (∃ d < ringSectors s, j = (tailFrom s + d) % ringSectors s ∧ stateOf s j ≠ some .erased
        ∧ ∀ d' < d, stateOf s ((tailFrom s + d') % ringSectors s) = some .erased)
      ∨ (∀ k < ringSectors s, stateOf s k = some .erased) ∧ j = s.journal.head / 512 := by
  have hs (k : Nat) : stateOf s k = some .erased ↔ (sectorAt s k).state = .erased := stateOf_eq_some (by decide)
  unfold findTail
  simp only [← tailFrom_eq, List.find?_map, hs, ne_eq]
  generalize hf : List.find? _ _ = found
  cases found with
  | none =>
    rw [upTo, List.find?_range_eq_none] at hf
    have he (k : Nat) (hk : k < ringSectors s) : (sectorAt s k).state = .erased := by
      obtain ⟨d, hd, rfl⟩ := exists_rotation (tailFrom s) hk
      simpa using hf d hd
    refine ⟨fun h => .inr ⟨he, h⟩, fun h => h.elim ?_ And.right⟩
    rintro ⟨d, hd, rfl, hn, _⟩
    exact absurd (he _ (Nat.mod_lt _ (by omega))) hn
  | some d =>
    rw [upTo, List.find?_range_eq_some] at hf
    obtain ⟨hn, hd, hb⟩ := hf
    have hn : (sectorAt s ((tailFrom s + d) % ringSectors s)).state ≠ .erased := by simpa using hn
    have hd : d < ringSectors s := List.mem_range.mp hd
    have hb (e : Nat) (he : e < d) : (sectorAt s ((tailFrom s + e) % ringSectors s)).state = .erased := by
      simpa using hb e he
    refine ⟨fun h => .inl ⟨d, hd, h, ?_, hb⟩, fun h => ?_⟩
    · rw [h]
      exact hn
    · rcases h with ⟨e, he, rfl, hne, hbe⟩ | ⟨hall, _⟩
      · have : e = d := by
          rcases Nat.lt_trichotomy e d with hlt | heq | hgt
          · exact absurd (hb e hlt) hne
          · exact heq
          · exact absurd (hbe d hgt) hn
        rw [this]
        rfl
      · exact absurd (hall _ (Nat.mod_lt _ (by omega))) hn

/-- R133, and R152 while a tail is held. -/
theorem isTail_iff (s : State) (j : Nat) : IsTail s j ↔ j = tailSector s := by
  unfold IsTail tailSector
  cases s.journal.heldTail with
  | none => exact (eq_findTail_iff s j).symm
  | some k => rfl

/-! ## Live strings -/

theorem isPresent_iff {s : State} {i : Str} : isPresent s i = true ↔ i.val < s.cfg.stringCount := by
  simp [isPresent]

theorem mem_liveStrings {s : State} {j : Nat} {i : Str} :
    i ∈ liveStrings s j ↔ i.val < s.cfg.stringCount ∧ ∃ k, s.table[i].liveSlot = some k ∧ k / 512 = j := by
  simp only [liveStrings, presentStrings, allStrings, List.mem_filter, List.mem_finRange, true_and, isPresent_iff, beq_iff_eq,
    Option.map_eq_some_iff]

/-- The first string of a selection, in string-number order. -/
theorem head?_filter_strings {p : Str → Bool} {i : Str} (hi : p i = true) (hb : ∀ j : Str, j.val < i.val → p j = false) :
    (allStrings.filter p).head? = some i := by
  rw [List.head?_filter, List.find?_eq_some_iff_getElem]
  refine ⟨hi, i.val, by simp [allStrings], by simp [allStrings], fun k hk => ?_⟩
  rw [hb]
  · rfl
  · simpa [allStrings] using hk

theorem liveStrings_head? {s : State} {j k : Nat} {i : Str} (hp : i.val < s.cfg.stringCount) (hk : s.table[i].liveSlot = some k)
    (hj : k / 512 = j) (hb : ∀ i' : Str, i'.val < i.val → ∀ k', s.table[i'].liveSlot = some k' → k' / 512 ≠ j) :
    (liveStrings s j).head? = some i := by
  unfold liveStrings presentStrings
  rw [List.filter_filter]
  refine head?_filter_strings (by rw [hk, isPresent_iff.mpr hp, Option.map_some, hj]; simp) fun i' hi' => ?_
  rw [Bool.and_eq_false_iff]
  refine .inl (beq_eq_false_iff_ne.mpr fun e => ?_)
  obtain ⟨k', hk', e⟩ := Option.map_eq_some_iff.mp e
  exact hb i' hi' k' hk' e

theorem liveCount_eq_zero {s : State} {j : Nat}
    (h : ∀ i : Str, i.val < s.cfg.stringCount → ∀ k, s.table[i].liveSlot = some k → k / 512 ≠ j) : liveCount s j = 0 := by
  unfold liveCount
  rw [List.length_eq_zero_iff, List.eq_nil_iff_forall_not_mem]
  intro i hi
  obtain ⟨hp, k, hk, hj⟩ := mem_liveStrings.mp hi
  exact h i hp k hk hj

theorem liveCount_ne_zero {s : State} {j k : Nat} {i : Str} (hp : i.val < s.cfg.stringCount) (hk : s.table[i].liveSlot = some k)
    (hj : k / 512 = j) : liveCount s j ≠ 0 :=
  fun h => List.not_mem_nil (List.length_eq_zero_iff.mp h ▸ mem_liveStrings.mpr ⟨hp, k, hk, hj⟩)

/-! ## The verdict -/

/-- The verdict on an erase of a journal sector while ADOPTED (R147). -/
theorem eraseVerdict_adopted {s : State} {j : Nat} {y : Sector} (ha : s.journal.state = .adopted)
    (hy : s.journal.sectors[j]? = some y) :
    eraseVerdict s j =
      if (j ≠ tailSector s ∧ y.state ≠ .unknown) ∨ y.state = .head then .refused .eraseNotTail none
      else if liveCount s j ≠ 0 then .refused .eraseLive (liveStrings s j).head?
      else .accepted := by
  unfold eraseVerdict
  simp only [ha, sectorAt_eq hy]

/-- The same for a sector that may be erased but for its live records. -/
theorem eraseVerdict_tail {s : State} {j : Nat} {y : Sector} (ha : s.journal.state = .adopted)
    (hy : s.journal.sectors[j]? = some y) (ht : IsTail s j ∨ y.state = .unknown) (hh : y.state ≠ .head) :
    eraseVerdict s j = if liveCount s j ≠ 0 then .refused .eraseLive (liveStrings s j).head? else .accepted := by
  rw [eraseVerdict_adopted ha hy, if_neg]
  rintro (⟨hj, hu⟩ | hx)
  · exact ht.elim (fun h => hj ((isTail_iff s j).mp h)) hu
  · exact hh hx

/-- The forwarded erase of a journal sector becomes the pending erase commit (R148, R153). -/
theorem forwardWrite_journalErase {dt : Nat} {r : Release} {s : State} {t : Txn} {j : Nat}
    (hk : sectorKind t.cfg s.cfgBase (t.start / 4096) = .journal) (hj : j = (t.start - ringBase s) / 4096) :
    forwardWrite (s.advance dt) t .erase4k r = acceptJournalErase (released s dt r .busyErase) j := by
  have hp : isProtected (s.advance dt) t .erase4k = true := isProtected_journal (.inr rfl) hk
  have ht : touches (released s dt r .busyErase) t .erase4k .journal = true := touches_journal (.inr rfl) hk
  unfold forwardWrite
  simp only [hp, if_true, reduceCtorEq, if_false]
  change commitErase (released s dt r .busyErase) t .erase4k = _
  unfold commitErase
  rw [if_pos ht, hj]
  rfl

theorem acceptJournalErase_tail {s : State} {j : Nat} {y : Sector} (ha : s.journal.state = .adopted)
    (hy : s.journal.sectors[j]? = some y) :
    acceptJournalErase s j = { s with journal := { s.journal with
      sectors := s.journal.sectors.set j ⟨.erasing, y.count⟩
      erase := some ⟨.journal, ringBase s + 4096 * j, 4096, some j, false, .running (s.now + ms s.cfg.tEc)⟩ } } := by
  simp [acceptJournalErase, startErase, State.setSector, State.setJournal, sectorAt, ha, hy]

theorem acceptJournalErase_recovery {s : State} {j : Nat} (ha : s.journal.state ≠ .adopted) :
    acceptJournalErase s j = { s with
      journal := { s.journal with
        slots := setRange (512 * j) 512 .unseen s.journal.slots
        erase := some ⟨.journal, ringBase s + 4096 * j, 4096, some j, true, .running (s.now + ms s.cfg.tEc)⟩ }
      capture := { s.capture with coverage := setRange (16 * j) 16 false s.capture.coverage } } := by
  simp [acceptJournalErase, startErase, State.fillSector, State.coverSector, State.setJournal, ha]

/-- Settles O34: the release is judged by the journal tracker alone, in each state of the journal; `isTail_iff` and `mem_liveStrings` tie
the tail and the live strings to the model's. -/
theorem journalEraseVerdict : Obligations.JournalEraseVerdict := by
  intro dt r s t j ht hc hr hn hk hj hm hw hp he accepted
  have hf : Complete t .erase4k := ⟨fun _ => hn, nofun⟩
  have hv : verdict (s.advance dt) t .erase4k = eraseVerdict (s.advance dt) j := by
    rw [verdict_journal (s := s.advance dt) (.inr rfl) hk (by simp [hm]) hw
      (by rw [commitPending_eq_false (s := s.advance dt) hp he]; rfl), hj]
    rfl
  have refuses {code : RefusalCode} {str : Option Str} (h : eraseVerdict (s.advance dt) j = .refused code str) :
      exec (.erase4k dt [] (some r)) s = .next (refused s dt t .erase4k r code str) :=
    exec_refused (c := .erase4k) (by decide) ht hc hr hf (hv.trans h)
  have accepts (h : eraseVerdict (s.advance dt) j = .accepted) :
      exec (.erase4k dt [] (some r)) s = .next (acceptJournalErase (released s dt r .busyErase) j) := by
    rw [← forwardWrite_journalErase hk hj]
    exact exec_accepted_erase (c := .erase4k) (by decide) ht hc hr hf (hv.trans h)
  refine ⟨fun y ha hy => ⟨fun htail hh hl => ?_, fun hx => ?_, fun i k htail hh hi hk' hkj hb => ?_⟩, fun hd => ?_, fun hx => ?_⟩
  · rw [accepts ?_, acceptJournalErase_tail (s := released s dt r .busyErase) ha hy]
    · rfl
    · rw [eraseVerdict_tail (s := s.advance dt) ha hy htail hh, if_neg]
      exact not_not.mpr (liveCount_eq_zero (s := s.advance dt) hl)
  · refine refuses ?_
    rw [eraseVerdict_adopted (s := s.advance dt) ha hy, if_pos]
    exact hx.imp_left fun h => ⟨fun e => h.1 ((isTail_iff s j).mpr e), h.2⟩
  · refine refuses ?_
    rw [eraseVerdict_tail (s := s.advance dt) ha hy htail hh, if_pos (liveCount_ne_zero (s := s.advance dt) hi hk' hkj),
      liveStrings_head? (s := s.advance dt) hi hk' hkj hb]
  · refine refuses ?_
    unfold eraseVerdict
    rw [advance_journal, hd]
  · have hna : s.journal.state ≠ .adopted := by rcases hx with h | h <;> simp [h]
    have hv' : eraseVerdict (s.advance dt) j = if s.inputs.maintActive then .accepted else .refused .notAdopted none := by
      unfold eraseVerdict
      rcases hx with h | h <;> rw [advance_journal, h] <;> rfl
    refine ⟨fun hma => refuses (by rw [hv', hma]; rfl), fun hma =>
      ⟨(s.fillSector j .unseen).journal.slots, (s.coverSector j false).capture.coverage, ?_, ?_, ?_⟩⟩
    · rw [accepts (by rw [hv', hma]; rfl), acceptJournalErase_recovery (s := released s dt r .busyErase) hna]
      rfl
    · exact fillSector_slots s j .unseen
    · exact coverSector_coverage s j false

end Sys2Proof.Claims

/-! The append that is accepted (O35), and one that is accepted and should not be (O36). -/

namespace Sys2Proof.Claims

open Sys2Proof Sys2Proof.Machine

/-! ## The range -/

theorem writtenSlots_eq (image : List (Option Byte)) :
    writtenSlots image = (touched image).map fun k => (k, slotBytes image k) := by
  unfold writtenSlots imageSlots touched
  rw [List.filter_map]
  rfl

theorem rangeSlots_eq (base : Nat) (image : List (Option Byte)) : rangeSlots base image = (touched image).map (base + ·) := by
  unfold rangeSlots
  rw [writtenSlots_eq, List.map_map]
  rfl

/-- Every list of a list is whole exactly if it is the image of a list of its entries. -/
theorem map_allSome_eq {α : Type} (xs : List (List (Option α))) (ys : List (List α)) :
    xs.map allSome = ys.map some ↔ ys.map (fun y => y.map some) = xs := by
  induction xs generalizing ys with
  | nil => cases ys <;> simp
  | cons x xs ih =>
    cases ys with
    | nil => simp
    | cons y ys =>
      rw [List.map_cons, List.map_cons, List.cons.injEq, allSome_eq_some, ih, List.map_cons, List.cons.injEq, eq_comm]

/-- The model's slots of a range are its contents (R136). -/
theorem wholeSlots_eq_some (image : List (Option Byte)) (contents : List (List Byte)) :
    wholeSlots image = some contents ↔ Whole image contents := by
  unfold wholeSlots Whole
  rw [allSome_eq_some, writtenSlots_eq, List.map_map, ← map_allSome_eq, List.map_map]
  rfl

theorem length_touched {image : List (Option Byte)} {contents : List (List Byte)} (h : Whole image contents) :
    (touched image).length = contents.length := by
  simpa using (congrArg List.length h).symm

/-! ## The projection -/

theorem reserve_eq (s : State) : reserve s = reserveOf s := by
  have hh : headOpen s = true ↔ stateOf s (s.journal.head / 512) = some .head := by
    rw [stateOf_eq_some (by decide), headOpen, beq_iff_eq]
    rfl
  have he (k : Nat) : ((sectorAt s k).state == SectorState.erased) = decide (stateOf s k = some .erased) := by
    simp only [stateOf_eq_some (x := .erased) (by decide), Bool.beq_eq_decide_eq]
  unfold reserve reserveOf erasedSectors
  simp only [hh, he]
  rfl

theorem projection_eq (s : State) : projection s = asItStands s := by
  unfold projection asItStands
  rw [reserve_eq]

/-! ## One record -/

theorem strOfByte_eq_some {b : Byte} {i : Str} : strOfByte b = some i ↔ b.toNat = i.val := by
  unfold strOfByte
  split
  · simp [Fin.ext_iff]
  · have := i.isLt
    simp only [reduceCtorEq, false_iff]
    omega

theorem presentOfByte_eq_some {s : State} {b : Byte} {i : Str} :
    presentOfByte s b = some i ↔ b.toNat = i.val ∧ i.val < s.cfg.stringCount := by
  unfold presentOfByte
  rw [Option.filter_eq_some_iff, strOfByte_eq_some, isPresent_iff]

theorem presentOfByte_of_names {s : State} {bs : List Byte} {i : Str} (h : Names s bs i) :
    presentOfByte s (recordFields bs).str = some i := presentOfByte_eq_some.mpr h

/-- The release mask names GROUND, WELD or LOCKOUT_CLEAR exactly if it has a bit of 0xD0 (10.2, R138). -/
theorem keyed_mask (m : Byte) :
    (CauseSet.has m .ground || CauseSet.has m .weld || m &&& lockoutClear != 0) = decide (m &&& 0xD0 ≠ 0) := by
  revert m
  decide +kernel

theorem carryForward_iff (s : State) (p : Projection) (bs : List Byte) (i : Str) (d : Disposition) :
    carryForward s p i (recordFields bs) d = true ↔ CarriesForward s p bs i d := by
  have hm : (recordFields bs).mask = byteAt bs 3 := rfl
  unfold carryForward CarriesForward
  simp only [Bool.and_eq_true, Bool.or_eq_true, beq_iff_eq, bne_iff_ne, ne_eq, Option.map_eq_some_iff, isTail_iff, hm,
    stateOf_eq_some (x := .head) (by decide)]
  constructor
  · rintro ⟨⟨⟨hs, k, hk, ht⟩, hz⟩, hd⟩
    exact ⟨⟨_, k, rfl, hs, hk, ht⟩, hz, hd⟩
  · rintro ⟨⟨_, k, rfl, hs, hk, ht⟩, hz, hd⟩
    exact ⟨⟨⟨hs, k, hk, ht⟩, hz⟩, hd⟩

section record
variable {s : State} {p : Projection} {bs : List Byte} {i : Str} {d : Disposition}

/-- With the form of a record passed, its effects are judged (R138). -/
theorem checkRecord_of_form (h : FormOk s bs i d) :
    checkRecord s p bs = match checkEffects s p i (recordFields bs) d with
      | some code => .error code
      | none => .ok (recorded p bs i d) := by
  have hd : Disposition.ofByte (recordFields bs).disp = some d := h.disp
  unfold checkRecord
  simp only [h.marker, ne_eq, not_true_eq_false, if_false, presentOfByte_of_names h.names, hd, h.check, Bool.true_eq_false]
  rfl

/-- The releases passed, the effects are judged by what stays latched, the lockout and the reserve (R139, R140). -/
theorem checkEffects_of_release (h : ReleaseOk s p bs i d) :
    checkEffects s p i (recordFields bs) d =
      if d = .connect ∧ p.latched[i] &&& ~~~(byteAt bs 3 &&& 0x7F) ≠ 0 then some .causeLatched
      else if (d = .connect ∨ d = .isolate) ∧ p.recorded[i] = .lockout ∧ byteAt bs 3 &&& 0x80 = 0 then some .lockoutHeld
      else if carryForward s p i (recordFields bs) d = false ∧ p.reserve - 1 < s.cfg.stringCount then some .journalFull
      else none := by
  have hk : (decide (byteAt bs 3 &&& 0xD0 ≠ 0) && !s.inputs.maintActive) = false := by
    rcases h.keyed with e | e
    · rw [decide_eq_false (not_not.mpr e), Bool.false_and]
    · rw [e, Bool.not_true, Bool.and_false]
  have hs : (recordFields bs).seq = p.seq := h.seq
  have hm : (recordFields bs).mask = byteAt bs 3 := rfl
  unfold checkEffects
  rw [hm, if_neg (not_not.mpr hs), if_neg (not_not.mpr h.absent), keyed_mask, hk]
  rfl

/-- The reserve decides last (R140); a named string leaves the string count positive. -/
theorem checkEffects_of_passes (h : Passes s p bs i d) : checkEffects s p i (recordFields bs) d = none := by
  have hn : i.val < s.cfg.stringCount := h.release.form.names.2
  rw [checkEffects_of_release h.release]
  refine (if_neg h.latched).trans ((if_neg h.lockout).trans (if_neg ?_))
  rintro ⟨hf, hr⟩
  rcases h.reserve with hc | hc
  · rw [(carryForward_iff ..).mpr hc] at hf
    exact absurd hf (by simp)
  · omega

/-- A record that passes leaves the projection that it adds to (R138). -/
theorem checkRecord_of_passes (h : Passes s p bs i d) : checkRecord s p bs = .ok (recorded p bs i d) := by
  rw [checkRecord_of_form h.release.form, checkEffects_of_passes h]

end record

/-! ## The records of a program -/

theorem checkRecords_of_projects {s : State} {p q : Projection} {xs : List (List Byte)} (h : Projects s p xs q) :
    checkRecords s p xs = .accepted := by
  induction h with
  | nil p => rfl
  | cons p q bs rest i d hp _ ih =>
    rw [checkRecords, checkRecord_of_passes hp]
    exact ih

/-! ## The verdict -/

/-- At the head the verdict is that of the records (R136 to R138). -/
theorem appendVerdict_atHead {s : State} {t : Txn} {contents : List (List Byte)} (h : AtHead s t contents) :
    appendVerdict s t.page t.image = checkRecords s (asItStands s) contents := by
  have hr : rangeSlots ((t.page - ringBase s) / 8) t.image = writtenRange s t := rangeSlots_eq ..
  have hl : (writtenRange s t).length = contents.length := (List.length_map ..).trans (length_touched h.whole)
  have hh : (sectorAt s (headSector s)).state = .head := (stateOf_eq_some (by decide)).mp h.head
  have hs : ¬ ((s.journal.erase.bind (·.sector)) = some (headSector s) ∧ s.mirror.state = .eraseSuspended) := by
    rw [Option.bind_eq_some_iff, and_comm]
    exact h.free
  unfold appendVerdict
  simp only [(wholeSlots_eq_some _ _).mpr h.whole, h.adopted, hr, hl, projection_eq]
  exact (if_neg (not_not.mpr h.range)).trans ((if_neg hs).trans (if_neg (not_not.mpr hh)))

theorem checkRecords_advance (s : State) (dt : Nat) (p : Projection) (xs : List (List Byte)) :
    checkRecords (s.advance dt) p xs = checkRecords s p xs := by
  induction xs generalizing p with
  | nil => rfl
  | cons bs rest ih =>
    unfold checkRecords
    simp only [ih]
    rfl

theorem appendVerdict_advance (s : State) (dt : Nat) (page : Nat) (image : List (Option Byte)) :
    appendVerdict (s.advance dt) page image = appendVerdict s page image := by
  unfold appendVerdict
  simp only [checkRecords_advance]
  rfl

/-- With the checks 1 to 3 passed, an append's commit stands in nothing's way (R122). -/
theorem commit_of_ready {s : State} {t : Txn} (h : Ready s t .program) :
    (commitPending s && !besideSuspended s t .program) = false := by
  obtain ⟨_, _, hn⟩ := h
  have hp : s.journal.prog = none := by
    by_contra e
    exact hn (.inl (Option.isSome_iff_ne_none.mpr e))
  cases he : s.journal.erase with
  | none => rw [commitPending_eq_false hp he, Bool.false_and]
  | some e =>
    by_contra hc
    refine hn (.inr ⟨e, he, fun hx => hc ?_⟩)
    obtain ⟨_, hm, ht⟩ := hx
    have hb : besideSuspended s t .program = true := by
      unfold besideSuspended
      rw [he, hp, hm]
      rcases ht with ht | ⟨ht, hx⟩
      · simp [ht]
      · have hx : (!(decide (e.base ≤ t.page) && decide (t.page < e.base + e.size))) = true := by
          rw [Bool.not_eq_true', Bool.and_eq_false_iff, decide_eq_false_iff_not, decide_eq_false_iff_not]
          omega
        rcases ht with ht | ht <;> simp [ht, hx]
    rw [hb, Bool.not_true, Bool.and_false]

theorem verdict_append {s : State} {t : Txn} {dt : Nat} (hk : sectorKind t.cfg s.cfgBase (t.start / 4096) = .journal)
    (h : Ready s t .program) : verdict (s.advance dt) t .program = appendVerdict s t.page t.image := by
  rw [verdict_journal (s := s.advance dt) (.inl rfl) hk h.1 h.2.1 (commit_of_ready h), ← appendVerdict_advance s dt]
  rfl

/-! ## The accepted append -/

/-- The sector table after sector `j` of a ring of `n` sectors holds the head (R132): if it is ERASED it becomes HEAD. -/
def openedSectors (xs : List Sector) (j n : Nat) : List Sector :=
  if (xs.getD j ⟨.unseen, 0⟩).state == .erased && decide (j < n) then xs.set j { xs.getD j ⟨.unseen, 0⟩ with state := .head } else xs

theorem openHead_eq (s : State) :
    s.openHead = s.setJournal { s.journal with sectors := openedSectors s.journal.sectors (headSector s) (ringSectors s) } := by
  unfold State.openHead openedSectors sectorAt State.setSector
  simp only
  split <;> rfl

theorem getElem?_openedSectors (xs : List Sector) (j n k : Nat) :
    (openedSectors xs j n)[k]? =
      if k = j ∧ j < n ∧ (xs[k]?.map (·.state)) = some .erased then xs[k]?.map fun z => ⟨.head, z.count⟩ else xs[k]? := by
  unfold openedSectors
  by_cases hk : k = j
  · subst hk
    cases hx : xs[k]? with
    | none => simp [hx]
    | some z =>
      obtain ⟨hl, hz⟩ := List.getElem?_eq_some_iff.mp hx
      by_cases hn : k < n <;> by_cases he : z.state = .erased <;> simp [hx, hn, hz, he, hl]
  · simp only [hk, false_and, if_false]
    split
    · exact List.getElem?_set_ne (Ne.symm hk)
    · rfl

/-- An accepted append, field by field of the journal (R132, R141). -/
theorem acceptAppend_eq {s : State} {image : List (Option Byte)} {contents : List (List Byte)} {y : Sector}
    (h : Whole image contents) (hy : s.journal.sectors[s.journal.head / 512]? = some y) :
    acceptAppend s image = s.setJournal { s.journal with
      slots := setMany s.journal.head (contents.map fun bs => .record (recordFields bs)) s.journal.slots
      sectors := openedSectors
        (s.journal.sectors.set (s.journal.head / 512)
          ⟨if 512 ≤ s.journal.head % 512 + contents.length then .full else y.state, y.count + contents.length⟩)
        ((s.journal.head + contents.length) % ringSlots s / 512) (ringSectors s)
      head := (s.journal.head + contents.length) % ringSlots s
      nextSeq := s.journal.nextSeq + BitVec.ofNat 16 contents.length
      prog := some ⟨.journal, slotAddr s s.journal.head, s.journal.head, contents.map recordFields, s.now + ms s.cfg.tPc⟩ } := by
  have hx : s.journal.sectors.getD (s.journal.head / 512) ⟨.unseen, 0⟩ = y := sectorAt_eq hy
  unfold acceptAppend advanceHead
  simp only [openHead_eq, (wholeSlots_eq_some _ _).mpr h, Option.getD_some, List.length_map, List.map_map, decide_eq_true_eq]
  simp only [State.setSlots, State.setSector, setJournal_journal, sectorAt, headSector, hx]
  rfl

theorem forwardWrite_append {dt : Nat} {r : Release} {s : State} {t : Txn}
    (hk : sectorKind t.cfg s.cfgBase (t.start / 4096) = .journal) :
    forwardWrite (s.advance dt) t .program r =
      acceptAppend (released s dt r (if s.mirror.state = .eraseSuspended then .busyProgramInSuspend else .busyProgram)) t.image := by
  have hp : isProtected (s.advance dt) t .program = true := isProtected_journal (.inl rfl) hk
  have ht : touches (released s dt r (if s.mirror.state = .eraseSuspended then .busyProgramInSuspend else .busyProgram)) t .program
    .journal = true := touches_journal (.inl rfl) hk
  unfold forwardWrite
  simp only [hp, if_true]
  change commitProgram (released s dt r (if s.mirror.state = .eraseSuspended then .busyProgramInSuspend else .busyProgram)) t = _
  unfold commitProgram
  rw [if_pos ht]

/-- The sector table after an accepted append within its sector (R132). -/
theorem appended_sectors {xs : List Sector} {head n ring : Nat} {y : Sector} (hy : xs[head / 512]? = some y) (hs : y.state = .head)
    (hn : head % 512 + n ≤ 512) (hh : head < ring * 512) (k : Nat) :
    (openedSectors (xs.set (head / 512) ⟨if 512 ≤ head % 512 + n then .full else y.state, y.count + n⟩)
        ((head + n) % (ring * 512) / 512) ring)[k]? =
      if k = head / 512 then some ⟨if head % 512 + n = 512 then .full else y.state, y.count + n⟩
      else if head % 512 + n = 512 ∧ k = (head + n) % (ring * 512) / 512 ∧ (xs[k]?.map (·.state)) = some .erased then
        xs[k]?.map fun z => ⟨.head, z.count⟩
      else xs[k]? := by
  have hl : head / 512 < xs.length := (List.getElem?_eq_some_iff.mp hy).1
  have hf : (512 ≤ head % 512 + n) ↔ head % 512 + n = 512 := by omega
  rw [getElem?_openedSectors]
  simp only [hf]
  by_cases hk : k = head / 512
  · subst hk
    rw [List.getElem?_set_self hl, if_pos rfl, if_neg]
    rintro ⟨_, _, he⟩
    have he := Option.some.inj he
    simp only [hs] at he
    split at he <;> cases he
  · rw [List.getElem?_set_ne (Ne.symm hk), if_neg hk]
    refine if_congr ?_ rfl rfl
    by_cases hfull : head % 512 + n = 512
    · have : (head + n) % (ring * 512) < ring * 512 := Nat.mod_lt _ (by omega)
      simp only [hfull, true_and]
      exact ⟨fun h => ⟨h.1, h.2.2⟩, fun h => ⟨h.1, by omega, h.2⟩⟩
    · have hm : (head + n) % (ring * 512) / 512 = head / 512 := by
        rw [Nat.mod_eq_of_lt (by omega)]
        omega
      rw [hm]
      simp [hk, hfull]

/-- Settles O35: the checks leave the verdict to the records, `acceptAppend_eq` names what the append writes, and the end of the event
makes its strings PENDING. -/
theorem appendAccepted : Obligations.AppendAccepted := by
  intro dt r s t contents y ht hc hr hn hk hready hat hproj hslots hy hin hring head' full
  obtain ⟨p, hp⟩ := hproj
  have hf : Complete t .program := ⟨fun _ => by omega, fun _ => hn⟩
  have hv : verdict (s.advance dt) t .program = .accepted := by
    rw [verdict_append hk hready, appendVerdict_atHead hat, checkRecords_of_projects hp]
  have he := exec_accepted_append (dt := dt) (r := r) ht hc hr hf (touches_journal (.inl rfl) hk) hv
  rw [forwardWrite_append hk,
    acceptAppend_eq (s := released s dt r (if s.mirror.state = .eraseSuspended then .busyProgramInSuspend else .busyProgram))
      hat.whole hy] at he
  have hys : y.state = .head := by
    have := hat.head
    unfold stateOf at this
    rw [hy] at this
    exact Option.some.inj this
  set w := State.setJournal (released s dt r (if s.mirror.state = .eraseSuspended then .busyProgramInSuspend else .busyProgram)) _
    with hw
  have hcar := carries_finish (s.advance dt) w
  refine ⟨_, _, _, he, hcar.mirror, hcar.ports, hcar.txn, hcar.journal, fun k => ?_, fun k => appended_sectors hy hys hin hring k,
    fun i hi hb => ?_, hcar.evid, hcar.capture, hcar.cfg, fun i => ?_⟩
  · change (setMany s.journal.head _ s.journal.slots)[k]? = _
    rw [getElem?_setMany, List.length_map, List.getElem?_map]
    by_cases hlo : s.journal.head ≤ k
    · by_cases hup : k < s.journal.head + contents.length
      · rw [if_pos ⟨hlo, hup, by omega⟩, if_pos hlo, List.getElem?_eq_getElem (l := contents) (by omega)]
        rfl
      · rw [if_neg (fun h => hup h.2.1), if_pos hlo, List.getElem?_eq_none (l := contents) (by omega)]
        rfl
    · rw [if_neg (fun h => hlo h.1), if_neg hlo]
  · obtain ⟨bs, hbs, hbi⟩ := hb
    have hpre : isPresent (finish (s.advance dt) w) i = true := (isPresent_congr hcar.cfg ..).trans (isPresent_iff.mpr hi)
    rw [(finish_agrees (s.advance dt) w i hpre).2]
    refine if_pos ?_
    unfold pendingHolds
    rw [hcar.journal]
    exact List.any_eq_true.mpr ⟨_, List.mem_map_of_mem hbs, beq_iff_eq.mpr (strOfByte_eq_some.mpr hbi)⟩
  · obtain ⟨hr, hl, hd, hx⟩ := hcar.record i
    exact ⟨hr, hl, hd, hx⟩

end Sys2Proof.Claims

namespace Sys2Proof.Claims

open Sys2Proof Sys2Proof.Machine

/-! ## A record that no check stops (O36)

`Disposition.ofByte` ends in `else none`, and `none` there is the disposition `Disposition.none` and not the absent option: every byte but
0x01, 0x02 and 0x03 reads as the disposition NONE. So the disposition check of R138 refuses no record, and a record with disposition byte
0x04 is accepted. -/

theorem ofByte_four : Disposition.ofByte 0x04 = some .none := by decide

namespace DispositionFour

/-- A record of string 5 with disposition byte 0x04, the sequence 0, and no release. -/
def bytes : List Byte := Record.bytes ⟨5, 0x04, 0, 0⟩

/-- The built-in configuration with a ring of two sectors from sector 1 on. -/
def cfg : Config := { Config.builtin with regions := [⟨.journal, 1, 2⟩] }

/-- A program of the record to slot 0. -/
def txn : Txn where
  code := some 0x02
  cls := some .program
  dummy := 0
  cfg := cfg
  cond := .never
  count := 12
  addrBytes := [0x00, 0x10, 0x00]
  start := 0x1000
  addr := 0x1008
  image := bytes.map some ++ List.replicate 248 none
  stream := []

/-- An empty adopted ring, an IDLE mirror with write enable set, and the program about to be released. -/
def state : State :=
  { State.reset with
    inReset := false
    cfg := cfg
    txn := some txn
    mirror := ⟨.idle, .set, false, ⟨none, none, .none, 0⟩⟩
    journal := { Journal.reset with state := .adopted, everAdopted := true, sectors := [⟨.head, 0⟩, ⟨.erased, 0⟩] } }

/-- A release at a byte boundary. -/
def release : Release := ⟨0, ⟨0, 0⟩⟩

theorem whole : Whole txn.image [bytes] := (wholeSlots_eq_some _ _).mp (by decide +kernel)

theorem atHead : AtHead state txn [bytes] where
  adopted := rfl
  whole := whole
  range := by decide +kernel
  free := fun h => absurd h.1 (by decide)
  head := by decide

theorem ready : Ready state txn .program := by
  refine ⟨by decide, rfl, ?_⟩
  rintro (h | ⟨e, he, _⟩)
  · cases h
  · cases he

theorem names : Names state bytes 5 := ⟨by decide, by decide⟩

/-- The model takes the record as one that passes. -/
theorem checkRecords_accepted : checkRecords state (asItStands state) [bytes] = .accepted := by decide +kernel

theorem verdict_accepted : verdict (state.advance 0) txn .program = .accepted := by
  rw [verdict_append (by decide) ready, appendVerdict_atHead atHead, checkRecords_accepted]

/-- So the append is forwarded, and the refusal flag stays clear. -/
theorem exec_flag : ∃ u, exec (.program 0 [] (some release)) state = .next u ∧ u.mirror.refusalFlag = false := by
  have hf : Complete txn .program := ⟨fun _ => by decide, fun _ => by decide⟩
  have he := exec_accepted_append (dt := 0) (r := release) (s := state) rfl rfl rfl hf (touches_journal (.inl rfl) (by decide))
    verdict_accepted
  rw [forwardWrite_append (by decide),
    acceptAppend_eq (s := released state 0 release (if state.mirror.state = .eraseSuspended then .busyProgramInSuspend else .busyProgram))
      whole rfl] at he
  exact ⟨_, he, congrArg Mirror.refusalFlag (carries_finish (state.advance 0) _).mirror⟩

end DispositionFour

open DispositionFour in
/-- Refutes O36: the append of a record with disposition byte 0x04 would be refused with BAD_DISPOSITION, and the model accepts it. -/
theorem not_appendsAreRefused : ¬ Obligations.AppendsAreRefused := by
  intro h
  obtain ⟨_, hall⟩ := h 0 release state txn rfl rfl rfl (by decide) (by decide) ready
  have hfails : Fails state (asItStands state) bytes .badDisposition := .disposition 5 (by decide) names (by decide)
  have hrefused := ((hall [bytes] whole).2.2.2.2 atHead [] bytes [] (asItStands state) _ rfl (.nil _) hfails).1 5 names
  obtain ⟨u, hu, hflag⟩ := exec_flag
  rw [hrefused] at hu
  cases hu
  cases hflag

end Sys2Proof.Claims

/-! The end of an event as R62 reads it: row by row, what a sequencer does about the target that the event leaves. -/

namespace Sys2Proof.Machine

/-! ## The measurement in progress -/

/-- The insulation measurement in progress, if there is one, has been disturbed (R34). -/
def IsoMarked (s : State) : Prop := ∀ j, s.iso.job = some j → j.disturbed = true

theorem IsoMarked.congr {s t : State} (h : IsoMarked s) (hj : t.iso.job = s.iso.job) : IsoMarked t := fun j hx => h j (hj ▸ hx)

theorem isoMarked_disturb (s : State) : IsoMarked s.disturb := by
  intro j hj
  obtain ⟨_, _, rfl⟩ := Option.map_eq_some_iff.mp hj
  rfl

theorem isoMarked_giveGrant (s : State) (i : Str) (c : Coil) : IsoMarked (giveGrant s i c) := isoMarked_disturb _

theorem IsoMarked.applyPendingK {s : State} (h : IsoMarked s) : IsoMarked (applyPendingK s) := by
  unfold Machine.applyPendingK
  repeat' split
  all_goals exact h

theorem IsoMarked.request {s : State} (h : IsoMarked s) (i : Str) : IsoMarked (request s i) := by
  unfold Machine.request
  split
  · exact h
  · split
    · split
      · exact isoMarked_giveGrant _ _ _
      · exact h
    · exact h

theorem IsoMarked.requestAll {s : State} (h : IsoMarked s) : IsoMarked (requestAll s) := by
  unfold Machine.requestAll
  induction allStrings generalizing s with
  | nil => exact h
  | cons i is ih => exact ih (h.request i)

theorem IsoMarked.grantHeads (n : Nat) {s : State} (h : IsoMarked s) : IsoMarked (grantHeads n s) := by
  induction n generalizing s with
  | zero => exact h
  | succ n ih =>
    unfold Machine.grantHeads
    split
    · exact h
    · split
      · exact ih (isoMarked_giveGrant _ _ _)
      · exact h

theorem IsoMarked.arbitrate {s : State} (h : IsoMarked s) : IsoMarked (arbitrate s) := by
  have hw : IsoMarked (withdraw s) := h.congr rfl
  unfold Machine.arbitrate
  exact (hw.applyPendingK.requestAll).grantHeads _

theorem IsoMarked.reconcile {s : State} (h : IsoMarked s) : IsoMarked (reconcile s) := by
  unfold Machine.reconcile
  simp only
  split
  · exact isoMarked_disturb _
  · exact h.congr rfl

theorem IsoMarked.recompute {s : State} (h : IsoMarked s) : IsoMarked (recompute s) := h.congr (by simp only [Machine.recompute])

theorem IsoMarked.carryOut {s : State} (h : IsoMarked s) : IsoMarked (carryOut s) := by
  unfold Machine.carryOut
  exact (h.recompute.reconcile).arbitrate

/-- A bypass that goes off as a target is taken disturbs the measurement (R34, R76). -/
theorem isoMarked_reconcile {s : State} {i : Str} (hp : isPresent s i = true)
    (hd : bypassDropped s.seqs[i] (s.seqs[i].takeTarget s.table[i].target s.now) = true) : IsoMarked (reconcile s) := by
  unfold reconcile
  simp only
  rw [if_pos]
  · exact isoMarked_disturb _
  · refine List.any_eq_true.mpr ⟨i, List.mem_finRange i, ?_⟩
    rw [mapAll_get, if_pos hp]
    exact hd

/-! ## What the judgement of the switch wait leaves alone -/

theorem endSearch_leaves (s : State) (r : SearchResult) (f : Option Str) :
    (endSearch s r f).arb = s.arb ∧ (endSearch s r f).iso = s.iso := by
  simp only [endSearch, setRoles, and_self]

theorem nextTest_leaves (s : State) (untested : List Str) :
    (nextTest s untested).arb = s.arb ∧ (nextTest s untested).iso = s.iso := by
  unfold nextTest
  split
  · split <;> exact endSearch_leaves ..
  · simp only [setRoles, and_self]

theorem judgeSwitchWait_leaves (s : State) : (judgeSwitchWait s).arb = s.arb ∧ (judgeSwitchWait s).iso = s.iso := by
  unfold judgeSwitchWait
  split
  · split
    · split <;> exact ⟨rfl, rfl⟩
    · exact nextTest_leaves ..
    all_goals exact ⟨rfl, rfl⟩
  · exact ⟨rfl, rfl⟩

/-! ## The two times that targets are carried out -/

/-- The targets that stand before the switch wait is judged stand after it as well. -/
def TargetsStand (s₀ s₁ : State) : Prop :=
  ∀ i : Str, isPresent s₁ i = true →
    targetOf (judgeSwitchWait (carryOut (searchReact s₀ s₁))) i = (carryOut (searchReact s₀ s₁)).table[i].target

/-- But for a hold stage the targets stand. -/
theorem targetsStand_of_stage {s₀ s₁ : State} (h : (searchReact s₀ s₁).search.stage ≠ .hold) : TargetsStand s₀ s₁ := by
  intro i hp
  have hp : isPresent (carryOut (searchReact s₀ s₁)) i = true :=
    (isPresent_congr ((carries_searchReact s₀ s₁).trans (carries_carryOut _)).cfg i).trans hp
  obtain ⟨x, hx⟩ := judgeSwitchWait_moves (s := carryOut (searchReact s₀ s₁)) (by rwa [carryOut_search])
  have ha := (carryOut_agrees (searchReact s₀ s₁) i hp).1
  rw [hx]
  generalize carryOut (searchReact s₀ s₁) = m at ha
  exact ha.symm

theorem targetOf_shutdown {s : State} (i : Str) (h : s.inputs.shdnActive = true) : targetOf s i = .isolated := by
  unfold targetOf ownIsolated
  simp [h]

/-- Under a shutdown every target is ISOLATED, so the targets stand (R6, R10). -/
theorem targetsStand_of_shutdown {s₀ s₁ : State} (h : s₁.inputs.shdnActive = true) : TargetsStand s₀ s₁ := by
  intro i hp
  have hc := (carries_searchReact s₀ s₁).trans (carries_carryOut _)
  have hp : isPresent (carryOut (searchReact s₀ s₁)) i = true := (isPresent_congr hc.cfg i).trans hp
  have hm : (carryOut (searchReact s₀ s₁)).inputs.shdnActive = true := by rw [hc.inputs, h]
  rw [(carryOut_agrees (searchReact s₀ s₁) i hp).1, targetOf_shutdown i hm,
    targetOf_shutdown i (by rw [(carries_judgeSwitchWait (carryOut (searchReact s₀ s₁))).inputs, hm])]

section again
variable {m j : State} (ht : TargetsTaken m) (hc : j.cfg = m.cfg) (hq : j.seqs = m.seqs)
  (hs : ∀ i : Str, isPresent m i = true → targetOf j i = m.table[i].target)
include ht hc hq hs

/-- Sequencers that have taken their targets do not move when the same targets are carried out again. -/
theorem reconcile_stands (i : Str) : (reconcile (recompute j)).seqs[i] = m.seqs[i] := by
  have hj : (recompute j).seqs[i] = m.seqs[i] := by simp only [recompute_seqs, hq]
  rw [reconcile_seq, hj, isPresent_recompute, isPresent_congr hc]
  split
  · next hp =>
    rw [recompute_target j i ((isPresent_congr hc i).trans hp), hs i hp]
    exact takeTarget_of_hasTaken (ht i hp) _
  · rfl

theorem carryOut_stands (ha : j.arb = m.arb) (hr : ArbiterRests m) (he : EntriesFit m) (i : Str) :
    (carryOut j).seqs[i] = m.seqs[i]
      ∧ ∀ e ∈ (carryOut j).arb.queue, (carryOut j).seqs[e.str].waitsFor = some e.kind := by
  have hsq := fun k => reconcile_stands ht hc hq hs k
  have hb : (reconcile (recompute j)).arb = m.arb := ((reconcile_arb _).trans (recompute_arb j)).trans ha
  have hcf : (reconcile (recompute j)).cfg = m.cfg := (((carries_recompute j).trans (carries_reconcile _)).cfg).trans hc
  have hf : EntriesFit (reconcile (recompute j)) := by
    intro e hm
    rw [hb] at hm
    rw [hsq]
    exact he e hm
  have hag : carryOut j = withdraw (reconcile (recompute j)) := arbitrate_again (hr.congr hcf hb hsq) hf
  rw [hag]
  exact ⟨hsq i, fun e hm => (Arbitrated.withdraw (reconcile (recompute j))).queue e hm⟩

end again

theorem refreshPins_arb (s : State) : (refreshPins s).arb = s.arb := rfl

theorem refreshPins_iso (s : State) : (refreshPins s).iso = s.iso := rfl

section finish
variable {s₀ s₁ : State} (hs : TargetsStand s₀ s₁)
include hs

theorem finish_stands (i : Str) : (finish s₀ s₁).seqs[i] = (carryOut (searchReact s₀ s₁)).seqs[i]
    ∧ ∀ e ∈ (finish s₀ s₁).arb.queue, (finish s₀ s₁).seqs[e.str].waitsFor = some e.kind := by
  have hp (k : Str) : isPresent (carryOut (searchReact s₀ s₁)) k = isPresent s₁ k :=
    isPresent_congr ((carries_searchReact s₀ s₁).trans (carries_carryOut _)).cfg k
  have hs' : ∀ k : Str, isPresent (carryOut (searchReact s₀ s₁)) k = true →
      targetOf (judgeSwitchWait (carryOut (searchReact s₀ s₁))) k = (carryOut (searchReact s₀ s₁)).table[k].target :=
    fun k hk => hs k ((hp k).symm.trans hk)
  unfold finish
  rw [refreshPins_seqs, refreshPins_arb]
  exact carryOut_stands (carryOut_targetsTaken _) (carries_judgeSwitchWait _).cfg (judgeSwitchWait_seqs _) hs'
    (judgeSwitchWait_leaves _).1 (carryOut_rests _) (carryOut_entriesFit _) i

theorem finish_target {i : Str} (hp : isPresent s₁ i = true) :
    (finish s₀ s₁).table[i].target = (carryOut (searchReact s₀ s₁)).table[i].target := by
  have hpj : isPresent (judgeSwitchWait (carryOut (searchReact s₀ s₁))) i = true :=
    (isPresent_congr (((carries_searchReact s₀ s₁).trans (carries_carryOut _)).trans (carries_judgeSwitchWait _)).cfg i).trans hp
  unfold finish
  rw [refreshPins_table, carryOut_table, recompute_target _ i hpj, hs i hp]

/-- R62 at the end of an event: a sequencer takes the target that then stands, and the arbiter may start the sequence that it waits for. -/
theorem finish_takes {i : Str} (hp : isPresent s₁ i = true) :
    (s₁.seqs[i].takeTarget (finish s₀ s₁).table[i].target s₁.now).MayStart (finish s₀ s₁).seqs[i] s₁.cfg s₁.now := by
  have hr := carries_searchReact s₀ s₁
  have hpr : isPresent (searchReact s₀ s₁) i = true := (isPresent_congr hr.cfg i).trans hp
  have hq : (searchReact s₀ s₁).seqs[i] = s₁.seqs[i] := by rw [searchReact_seqs]
  have h := carryOut_seq (searchReact s₀ s₁) hpr
  rw [hq, hr.cfg, hr.now] at h
  rwa [(finish_stands hs i).1, finish_target hs hp]

/-- R34, R62: a settle that its target cuts short disturbs the measurement. -/
theorem finish_marked {i : Str} (hp : isPresent s₁ i = true)
    (hd : bypassDropped s₁.seqs[i] (s₁.seqs[i].takeTarget (finish s₀ s₁).table[i].target s₁.now) = true) : IsoMarked (finish s₀ s₁) := by
  have hr := (carries_searchReact s₀ s₁).trans (carries_recompute _)
  have hq : (recompute (searchReact s₀ s₁)).seqs[i] = s₁.seqs[i] := by rw [recompute_seqs, searchReact_seqs]
  rw [finish_target hs hp, carryOut_table, ← hq, ← hr.now] at hd
  have hm : IsoMarked (carryOut (searchReact s₀ s₁)) := by
    unfold carryOut
    exact (isoMarked_reconcile ((isPresent_congr hr.cfg i).trans hp) hd).arbitrate
  have hj := (hm.congr (congrArg Iso.job (judgeSwitchWait_leaves _).2)).carryOut
  unfold finish
  exact hj.congr (congrArg Iso.job (refreshPins_iso _))

end finish

end Sys2Proof.Machine

namespace Sys2Proof.Claims

open Sys2Proof Sys2Proof.Machine

/-! ## One sequencer at the end of an event -/

theorem start_eq (q : Seq) (c : Coil) (cfg : Config) (now : Nat) : q.start c cfg now = startedAt q c cfg now := by
  cases c <;> rfl

theorem eq_of_mayStart {q r : Seq} {cfg : Config} {now : Nat} (h : q.MayStart r cfg now) (hw : q.waitsFor = none) : r = q := by
  rcases h with h | ⟨c, hc, _⟩
  · exact h
  · rw [hw] at hc
    cases hc

/-- What the end of an event leaves of the string `i`, whose sequencer it finds at `q`. -/
structure Ended (q : Seq) (u : State) (i : Str) : Prop where
  seq      : (q.takeTarget u.table[i].target u.now).MayStart u.seqs[i] u.cfg u.now
  queue    : ∀ e ∈ u.arb.queue, u.seqs[e.str].waitsFor = some e.kind
  requests : u.seqs[i].waitsFor ≠ none → u.seqs[i].grant ≠ .none ∨ ∃ e ∈ u.arb.queue, e.str = i
  marked   : bypassDropped q (q.takeTarget u.table[i].target u.now) = true → IsoMarked u

section ended
variable {q q' : Seq} {u : State} {i : Str} (h : Ended q u i)
include h

theorem Ended.eq {t : Target} (ht : u.table[i].target = t) (hq : q.takeTarget t u.now = q') (hw : q'.waitsFor = none) :
    u.seqs[i] = q' := by
  subst ht hq
  exact eq_of_mayStart h.seq hw

theorem Ended.notQueued (hw : u.seqs[i].waitsFor = none) : NotQueued u i := by
  rintro e he rfl
  rw [h.queue e he] at hw
  cases hw

theorem Ended.asks {t : Target} {c : Coil} (ht : u.table[i].target = t) (hq : q.takeTarget t u.now = q')
    (hw : q'.waitsFor = some c) : Asks u i q' c := by
  have hs := h.seq
  rw [ht, hq] at hs
  rcases hs with hs | ⟨d, hd, hs⟩
  · refine .inl ⟨hs, ?_⟩
    rw [← hs]
    refine (h.requests (by rw [hs, hw]; simp)).imp_right fun ⟨e, he, hi⟩ => ?_
    have hk := h.queue e he
    subst hi
    rw [hs, hw] at hk
    cases Option.some.inj hk
    exact he
  · rw [hw] at hd
    cases Option.some.inj hd
    exact .inr (hs.trans (start_eq ..))

/-- R62, row by row. -/
theorem Ended.takesTarget : TakesTarget q u i where
  opened hq := ⟨fun ht => h.eq ht (by simp only [Seq.takeTarget, hq]; rfl) rfl,
    fun ht => h.eq ht (by simp only [Seq.takeTarget, hq]) (by rw [Seq.waitsFor, hq])⟩
  qualify hq := ⟨fun ht => h.eq ht (by simp only [Seq.takeTarget, hq]; rfl) rfl,
    fun ht => h.eq ht (by simp only [Seq.takeTarget, hq]) (by rw [Seq.waitsFor, hq])⟩
  closeQueued hq := by
    refine ⟨fun ht => ?_, fun ht => h.asks ht (by simp only [Seq.takeTarget, hq]) (by rw [Seq.waitsFor, hq])⟩
    have hs := h.eq (q' := q.enter .opened) ht (by simp only [Seq.takeTarget, hq]) rfl
    exact ⟨hs, h.notQueued (by rw [hs]; rfl)⟩
  settle a hq ha hp := by
    have hiso : q.takeTarget .isolated u.now = (q.cancelSettle u.now).enter .opened := by
      simp only [Seq.takeTarget, hq, ha, hp, if_true]
    refine ⟨fun ht => ⟨h.eq ht hiso rfl, h.marked ?_⟩,
      fun ht => h.eq ht (by simp only [Seq.takeTarget, hq]) (by rw [Seq.waitsFor, hq])⟩
    rw [ht, hiso, bypassDropped, ha]
    rfl
  closed hq := ⟨fun ht => h.asks (q' := q.enter .openQueued) ht (by simp only [Seq.takeTarget, hq]) rfl,
    fun ht => h.eq ht (by simp only [Seq.takeTarget, hq]) (by rw [Seq.waitsFor, hq])⟩
  openQueued hq := by
    refine ⟨fun ht => ?_, fun ht => h.asks ht (by simp only [Seq.takeTarget, hq]) (by rw [Seq.waitsFor, hq])⟩
    have hs := h.eq (q' := q.enter .closed) ht (by simp only [Seq.takeTarget, hq]) rfl
    exact ⟨hs, h.notQueued (by rw [hs]; rfl)⟩
  others hq := by
    refine h.eq rfl ?_ ?_
    · generalize u.table[i].target = t
      rcases hq with hq | ⟨hq, ha⟩
      · simp only [List.mem_cons, List.not_mem_nil, or_false] at hq
        rcases hq with hq | hq | hq <;> cases t <;> simp only [Seq.takeTarget, hq]
      · cases t with
        | connected => simp only [Seq.takeTarget, hq]
        | isolated =>
          cases hx : q.act with
          | none => simp only [Seq.takeTarget, hq, hx]
          | some a => simp only [Seq.takeTarget, hq, hx, if_neg (ha a hx)]
    · rcases hq with hq | ⟨hq, _⟩
      · simp only [List.mem_cons, List.not_mem_nil, or_false] at hq
        rcases hq with hq | hq | hq <;> rw [Seq.waitsFor, hq]
      · rw [Seq.waitsFor, hq]

end ended

theorem ended_finish {s₀ s₁ : State} {i : Str} (hs : TargetsStand s₀ s₁) (hi : i.val < s₁.cfg.stringCount) :
    Ended s₁.seqs[i] (finish s₀ s₁) i := by
  have hc := carries_finish s₀ s₁
  have hp : isPresent s₁ i = true := isPresent_iff.mpr hi
  refine ⟨?_, (finish_stands hs i).2, (finish_rests s₀ s₁).requests i ((isPresent_congr hc.cfg i).trans hp), fun hd => ?_⟩
  · rw [hc.now, hc.cfg]
    exact finish_takes hs hp
  · rw [hc.now] at hd
    exact finish_marked hs hp hd

/-- R62 at the end of an event whose targets stand. -/
theorem finish_takesTarget {s₀ s₁ : State} {i : Str} (hs : TargetsStand s₀ s₁) (hi : i.val < s₁.cfg.stringCount) :
    TakesTarget s₁.seqs[i] (finish s₀ s₁) i := (ended_finish hs hi).takesTarget

/-! ## No string test starts -/

theorem endSearch_stage (s : State) (r : SearchResult) (f : Option Str) : (endSearch s r f).search.stage = .none := rfl

/-- The stage is a hold that a sweep has just begun, with strings to test (R96). -/
def SweepBegins (s : State) : Prop := s.search.phase = .sweep ∧ s.search.suspects ≠ []

theorem enterSweep_hold {s : State} (h : (enterSweep s).search.stage = .hold) : SweepBegins (enterSweep s) := by
  unfold enterSweep at h ⊢
  simp only at h ⊢
  split at h
  · rw [endSearch_stage] at h
    cases h
  · next hs =>
    rw [if_neg hs]
    exact ⟨rfl, fun he => hs (List.isEmpty_iff.mpr he)⟩

theorem notConfirmed_hold {s : State} (h : (notConfirmed s).search.stage = .hold) : SweepBegins (notConfirmed s) := by
  unfold notConfirmed at h ⊢
  split at h
  · next ho =>
    rw [if_pos ho]
    exact enterSweep_hold h
  · rw [endSearch_stage] at h
    cases h

theorem beginStep_hold {s : State} {suspects : List Str} (h : (beginStep s suspects).search.stage = .hold) :
    SweepBegins (beginStep s suspects) := by
  unfold beginStep at h ⊢
  split at h
  · exact notConfirmed_hold h
  · cases h
  · cases h

/-- A hold stage that the overtaken reports leave stood before them, or they have begun a sweep. -/
theorem takeOvertaken_hold {s : State} {gone : List Str} (hs : s.search.stage ≠ .hold)
    (h : (takeOvertaken s gone).search.stage = .hold) : s.search.phase ≠ .sweep ∧ SweepBegins (takeOvertaken s gone) := by
  unfold takeOvertaken at h ⊢
  simp only at h ⊢
  cases hp : s.search.phase with
  | idle => simp only [hp] at h; exact absurd h hs
  | baseline =>
    simp only [hp] at h
    split at h
    · rw [endSearch_stage] at h
      cases h
    · cases h
  | halving =>
    simp only [hp] at h ⊢
    exact ⟨by simp, beginStep_hold h⟩
  | confirm =>
    simp only [hp] at h ⊢
    exact ⟨by simp, notConfirmed_hold h⟩
  | sweep =>
    simp only [hp] at h
    split at h
    · split at h
      · exact absurd h (nextTest_stage _ _)
      · exact absurd h hs
    · split at h
      · rw [endSearch_stage] at h
        cases h
      · exact absurd h hs

theorem searchReact_hold {s₀ s₁ : State} (hs : s₁.search.stage ≠ .hold) (h : (searchReact s₀ s₁).search.stage = .hold) :
    s₁.search.phase ≠ .sweep ∧ SweepBegins (searchReact s₀ s₁) := by
  unfold searchReact at h ⊢
  simp only at h ⊢
  split at h
  · exact absurd h hs
  · next hp =>
    rw [if_neg hp]
    split at h
    · cases h
    · next hf =>
      rw [if_neg hf]
      split at h
      · cases h
      · next ha =>
        rw [if_neg ha]
        split at h
        · cases h
        · next hc =>
          rw [if_neg hc]
          split at h
          · exact absurd h hs
          · next hg =>
            rw [if_neg hg]
            exact takeOvertaken_hold hs h

theorem nextTest_phase {s : State} (h : s.search.suspects ≠ []) : (nextTest s s.search.suspects).search.phase = s.search.phase := by
  unfold nextTest
  split
  · next he => exact absurd he h
  · rfl

/-- A sweep that begins is a sweep at the end of the event. -/
theorem SweepBegins.finish {s₀ s₁ : State} (h : SweepBegins (searchReact s₀ s₁)) (hh : (searchReact s₀ s₁).search.stage = .hold) :
    (finish s₀ s₁).search.phase = .sweep := by
  have hx := carryOut_search (searchReact s₀ s₁)
  rw [finish_search]
  unfold SweepBegins at h
  rw [← hx] at h hh
  generalize carryOut (searchReact s₀ s₁) = m at h hh
  unfold judgeSwitchWait
  rw [hh]
  split
  · exact (nextTest_phase h.2).trans h.1
  · exact h.1

/-- Where no string test starts, an event that has moved no search leaves its targets standing. -/
theorem targetsStand_of_noTest {s₀ s₁ s : State} (hx : s₁.search = s.search) (h : NoTestStarts s (finish s₀ s₁)) :
    TargetsStand s₀ s₁ := by
  refine targetsStand_of_stage fun hh => ?_
  obtain ⟨hp, hb⟩ := searchReact_hold (by rw [hx]; exact h.1) hh
  rw [hx] at hp
  exact hp (h.2 (hb.finish hh))

/-- R62 at the end of an event that moves no sequencer before. -/
theorem finish_targetsAreTaken {s₀ s₁ s : State} (hc : s₁.cfg = s.cfg) (hq : s₁.seqs = s.seqs) (hs : TargetsStand s₀ s₁) :
    TargetsAreTaken s (finish s₀ s₁) fun _ => True := by
  intro i hi _
  have h := finish_takesTarget hs (i := i) (by rw [hc]; exact hi)
  rwa [hq] at h

end Sys2Proof.Claims

/-! The commands of the SHDN input (O52, O53). -/

namespace Sys2Proof.Claims

open Sys2Proof Sys2Proof.Machine

/-! ## What the end of an event carries -/

theorem Carries.sameBus {s u : State} (h : Carries s u) : SameBus s u :=
  ⟨h.inReset, h.cfg, h.cfgBase, h.ports, h.txn, h.capture, h.window, h.pending⟩

theorem Carries.sameRecord {s u : State} (h : Carries s u) (i : Str) : SameRecord s.table[i] u.table[i] := by
  obtain ⟨hr, hl, hd, hx⟩ := h.record i
  exact ⟨hr, hl, hd, hx⟩

theorem Carries.sameJournal {s u : State} (h : Carries s u) : SameJournal s u := ⟨h.mirror, h.journal, Carries.sameRecord h⟩

theorem Carries.sameMeasurement {s u : State} (h : Carries s u) : SameMeasurement s u :=
  ⟨h.meas, h.scan, h.isoValue, h.isoStatus, h.isoStart, h.isoFault⟩

/-! ## An abort of a search -/

theorem judgeSwitchWait_none {s : State} (h : s.search.stage = .none) : judgeSwitchWait s = s := by
  unfold judgeSwitchWait
  rw [h]
  split <;> rfl

theorem endSearch_role (s : State) (r : SearchResult) (f : Option Str) (i : Str) : (endSearch s r f).table[i].role = .none := by
  simp only [endSearch, setRoles, mapAll_get, List.contains_nil, Bool.false_eq_true, if_false]

/-- An event that ends a search leaves it ended, with every role NONE (R86). -/
theorem finish_of_endSearch {s₀ s₁ : State} {r : SearchResult} {f : Option Str} (h : searchReact s₀ s₁ = endSearch s₁ r f) :
    (finish s₀ s₁).search = (endSearch s₁ r f).search ∧ ∀ i : Str, (finish s₀ s₁).table[i].role = .none := by
  have hj : judgeSwitchWait (carryOut (endSearch s₁ r f)) = carryOut (endSearch s₁ r f) :=
    judgeSwitchWait_none (by rw [carryOut_search, endSearch_stage])
  unfold finish
  rw [h, hj, refreshPins_search, refreshPins_table]
  refine ⟨by rw [carryOut_search, carryOut_search], fun i => ?_⟩
  rw [carryOut_role, carryOut_role, endSearch_role]

theorem failedEntry_of_seqs {s₀ s₁ : State} (h : s₁.seqs = s₀.seqs) : failedEntry s₀ s₁ = false := by
  unfold failedEntry
  rw [h, List.any_eq_false]
  intro i _
  cases s₀.seqs[i].state <;> simp

/-! ## SHUTDOWN_ACTIVATION -/

theorem mem_shutdownSnapshot {s : State} {i : Str} :
    i ∈ shutdownSnapshot s ↔ i.val < s.cfg.stringCount ∧ s.seqs[i].state = .closed := by
  unfold shutdownSnapshot presentStrings
  rw [List.mem_filter, List.mem_filter, isPresent_iff, beq_iff_eq]
  exact and_congr_left fun _ => and_iff_right (List.mem_finRange i)

/-- The part in shutdown from the event on, with its snapshot (R56). -/
def inShutdown (s : State) : State :=
  { s with inputs := { s.inputs with shdnActive := true, shdnTiming := none, snapshot := shutdownSnapshot s } }

theorem exec_shutdownActivation {s : State} {dt x : Nat} (hr : s.inputs.shdnRaw = true) (ha : s.inputs.shdnActive = false)
    (ht : s.inputs.shdnTiming = some x) (hx : x ≤ s.now + dt) :
    exec (.shutdownActivation dt) s = .next (finish (s.advance dt) (inShutdown (s.advance dt))) := by
  have hd : due s.inputs.shdnTiming (s.now + dt) = true := by
    rw [ht]
    exact decide_eq_true hx
  have hc : (s.inputs.shdnRaw && !s.inputs.shdnActive && due s.inputs.shdnTiming (s.now + dt)) = true := by
    rw [hr, ha, hd]
    rfl
  change execShutdownActivation dt s = _
  unfold execShutdownActivation
  exact congrArg Host.Outcome.next (if_pos hc)

/-- R99: the activation aborts a search. -/
theorem searchReact_inShutdown {s : State} (hp : s.search.phase ≠ .idle) (ha : s.inputs.shdnActive = false) :
    searchReact s (inShutdown s) = endSearch (inShutdown s) .abortedShutdown none := by
  have hf : failedEntry s (inShutdown s) = false := failedEntry_of_seqs rfl
  have hi : (!s.inputs.shdnActive && (inShutdown s).inputs.shdnActive) = true := by
    rw [ha]
    rfl
  have hp : (inShutdown s).search.phase ≠ .idle := hp
  unfold searchReact
  exact (if_neg hp).trans ((if_neg (by rw [hf]; simp)).trans (if_pos hi))

/-- Settles O52: the targets are ISOLATED by the shutdown alone, whatever the search unit does with its roles. -/
theorem shutdownIsolatesAll : Obligations.ShutdownIsolatesAll := by
  intro dt s x hraw hact htim hx
  have hc := carries_finish (s.advance dt) (inShutdown (s.advance dt))
  have hag := finish_agrees (s.advance dt) (inShutdown (s.advance dt))
  have htk := finish_targetsTaken (s.advance dt) (inShutdown (s.advance dt))
  have hst : TargetsStand (s.advance dt) (inShutdown (s.advance dt)) := targetsStand_of_shutdown rfl
  have hcfg₁ : (inShutdown (s.advance dt)).cfg = s.cfg := rfl
  have hseqs₁ : (inShutdown (s.advance dt)).seqs = s.seqs := rfl
  have htaken := finish_targetsAreTaken hcfg₁ hseqs₁ hst
  have hend := fun hp : s.search.phase ≠ .idle => finish_of_endSearch (searchReact_inShutdown (s := s.advance dt) hp hact)
  refine ⟨_, exec_shutdownActivation hraw hact htim hx, ?_⟩
  generalize finish (s.advance dt) (inShutdown (s.advance dt)) = u at *
  have hbus := Carries.sameBus hc
  have hjournal := Carries.sameJournal hc
  have hmeas := Carries.sameMeasurement hc
  have hcfg : u.cfg = s.cfg := hc.cfg
  have hin : u.inputs = (inShutdown (s.advance dt)).inputs := hc.inputs
  have hactive : u.inputs.shdnActive = true := congrArg Inputs.shdnActive hin
  refine ⟨hactive, congrArg Inputs.shdnTiming hin, fun i => ?_, fun i hi => ?_, htaken, fun hp => ?_,
    hbus, hjournal, hmeas, hc.evid, hc.lines⟩
  · rw [hin]
    exact mem_shutdownSnapshot
  · have hp : isPresent u i = true := (isPresent_congr hcfg i).trans (isPresent_iff.mpr hi)
    have ht : u.table[i].target = .isolated := (hag i hp).1.trans (targetOf_shutdown i hactive)
    have hn := (htk i hp).isolated ht
    exact ⟨ht, fun he => hn (by rw [he]; decide)⟩
  · obtain ⟨hsearch, hrole⟩ := hend hp
    have hphase : u.search.phase = .idle := congrArg Search.phase hsearch
    have hresult : u.search.result = .abortedShutdown := congrArg Search.result hsearch
    exact ⟨hphase, hresult, hrole⟩

/-! ## SHUTDOWN_RELEASE -/

/-- The part out of shutdown from the event on, with the latches of OPT_SDL (R57). -/
def outOfShutdown (s : State) : State :=
  { latchSnapshot s with inputs := { (latchSnapshot s).inputs with shdnActive := false, shdnTiming := none, snapshot := [] } }

theorem latchSnapshot_eq (s : State) : ∃ evid, latchSnapshot s = { s with evid := evid } := by
  unfold latchSnapshot
  split <;> exact ⟨_, rfl⟩

theorem exec_shutdownRelease {s : State} {dt x : Nat} (hr : s.inputs.shdnRaw = false) (ha : s.inputs.shdnActive = true)
    (ht : s.inputs.shdnTiming = some x) (hx : x ≤ s.now + dt) :
    exec (.shutdownRelease dt) s = .next (finish (s.advance dt) (outOfShutdown (s.advance dt))) := by
  have hd : due s.inputs.shdnTiming (s.now + dt) = true := by
    rw [ht]
    exact decide_eq_true hx
  have hc : (!s.inputs.shdnRaw && s.inputs.shdnActive && due s.inputs.shdnTiming (s.now + dt)) = true := by
    rw [hr, ha, hd]
    rfl
  change execShutdownRelease dt s = _
  unfold execShutdownRelease
  exact congrArg Host.Outcome.next (if_pos hc)

theorem latchSnapshot_of_off {s : State} (h : s.cfg.optSdl = false) : latchSnapshot s = s := by
  unfold latchSnapshot
  rw [h]
  rfl

theorem latchSnapshot_evid {s : State} {i : Str} (h : s.cfg.optSdl = true) (hi : i.val < s.cfg.stringCount)
    (hs : i ∈ s.inputs.snapshot) : (latchSnapshot s).evid[i] = s.evid[i].latchHeld .other := by
  have hc : (isPresent s i && s.inputs.snapshot.contains i) = true := by
    rw [isPresent_iff.mpr hi, List.contains_iff_mem.mpr hs]
    rfl
  unfold latchSnapshot
  rw [if_pos h]
  exact (mapAll_get _ s.evid i).trans (if_pos hc)

theorem latchHeld_held (e : Evidence) (o : Origin) : CauseSet.has (e.latchHeld o).latched .held = true := by
  change CauseSet.has (CauseSet.add e.latched .held) .held = true
  generalize e.latched = cs
  revert cs
  decide +kernel

theorem latched_ne_zero {cs : CauseSet} {c : Cause} (h : CauseSet.has cs c = true) : cs ≠ 0 := by
  rintro rfl
  cases c <;> cases h

theorem targetOf_latched {s : State} {i : Str} (h : s.evid[i].latched ≠ 0) : targetOf s i = .isolated := by
  unfold targetOf ownIsolated
  rw [bne_iff_ne.mpr h]
  rfl

theorem targetOf_free {s : State} {i : Str} (hl : s.evid[i].latched = 0) (ha : s.inputs.shdnActive = false)
    (hr : s.table[i].recorded = .connect) (hh : s.table[i].role ≠ .held) : targetOf s i = .connected := by
  have hb : (s.table[i].role == .held) = false := beq_eq_false_iff_ne.mpr hh
  unfold targetOf ownIsolated
  rw [hl, ha, hr, hb]
  rfl

/-- Settles O53: the latches of OPT_SDL keep their strings ISOLATED, and the others take what the claims leave. -/
theorem shutdownReleases : Obligations.ShutdownReleases := by
  intro dt s x hraw hact htim hx
  have hc := carries_finish (s.advance dt) (outOfShutdown (s.advance dt))
  have hag := finish_agrees (s.advance dt) (outOfShutdown (s.advance dt))
  obtain ⟨v, hv⟩ := latchSnapshot_eq (s.advance dt)
  have hs₁ : outOfShutdown (s.advance dt)
      = { s.advance dt with evid := v, inputs := { s.inputs with shdnActive := false, shdnTiming := none, snapshot := [] } } := by
    unfold outOfShutdown
    rw [hv]
    rfl
  have hevid : (outOfShutdown (s.advance dt)).evid = (latchSnapshot (s.advance dt)).evid := rfl
  have htaken := fun hn : NoTestStarts s (finish (s.advance dt) (outOfShutdown (s.advance dt))) =>
    finish_targetsAreTaken (s := s) (by rw [hs₁]; rfl) (by rw [hs₁]; rfl)
      (targetsStand_of_noTest (s := s) (by rw [hs₁]; rfl) hn)
  refine ⟨_, exec_shutdownRelease hraw hact htim hx, ?_⟩
  generalize finish (s.advance dt) (outOfShutdown (s.advance dt)) = u at *
  have hact' : u.inputs.shdnActive = false := congrArg Inputs.shdnActive hc.inputs
  have hcfg : u.cfg = s.cfg := hc.cfg.trans (by rw [hs₁]; rfl)
  have hpres {i : Str} (hi : i.val < s.cfg.stringCount) : isPresent u i = true := (isPresent_congr hcfg i).trans (isPresent_iff.mpr hi)
  have hu := hc.evid.trans hevid
  rw [hs₁] at hc
  have hbus := Carries.sameBus hc
  have hjournal := Carries.sameJournal hc
  have hmeas := Carries.sameMeasurement hc
  refine ⟨hact', congrArg Inputs.snapshot hc.inputs, fun ho => ?_, fun i ho hi hm => ?_, fun i hi hl hr hh => ?_, htaken,
    hbus, hjournal, hmeas, hc.lines⟩
  · rw [hu, latchSnapshot_of_off (s := s.advance dt) ho]
    rfl
  · have he : u.evid[i] = s.evid[i].latchHeld .other := by
      rw [hu]
      exact latchSnapshot_evid (s := s.advance dt) ho hi hm
    have hh : CauseSet.has u.evid[i].latched .held = true := by rw [he, latchHeld_held]
    exact ⟨hh, by rw [he]; rfl, (hag i (hpres hi)).1.trans (targetOf_latched (latched_ne_zero hh))⟩
  · exact (hag i (hpres hi)).1.trans (targetOf_free hl hact' hr hh)

end Sys2Proof.Claims

/-! The ends of a pending program without confirmation, by a status byte (O24) or by its timer (O59). -/

namespace Sys2Proof.Machine

open Sys2Proof.Claims (endedProgram endedSectors doubtMark)

/-! ## HELD -/

/-- The evidence after HELD has been latched for the ISOLATE and LOCKOUT records of a list (R15, R144). -/
def heldEvid (v : Vector Evidence 24) (rs : List Record) : Vector Evidence 24 :=
  rs.foldl (fun v r =>
    match strOfByte r.str with
    | some i => if r.isolates then v.set i (v[i].latchHeld .other) else v
    | none => v) v

theorem holdRecords_eq (s : State) (rs : List Record) : holdRecords s rs = { s with evid := heldEvid s.evid rs } := by
  unfold holdRecords heldEvid
  induction rs generalizing s with
  | nil => rfl
  | cons r rs ih =>
    rw [List.foldl_cons, List.foldl_cons, ih]
    cases strOfByte r.str with
    | none => rfl
    | some i => cases r.isolates <;> rfl

theorem isolates_iff (r : Record) : r.isolates = true ↔ r.disp = 0x02 ∨ r.disp = 0x03 := by
  unfold Record.isolates
  rw [Bool.or_eq_true, beq_iff_eq, beq_iff_eq]

/-- One record of `heldEvid`: an ISOLATE or LOCKOUT record of a string latches HELD there, and nothing moves otherwise. -/
theorem heldEvid_cons (v : Vector Evidence 24) (r : Record) (rs : List Record) (i : Str) :
    ∃ w : Vector Evidence 24, heldEvid v (r :: rs) = heldEvid w rs
      ∧ w[i] = if strOfByte r.str = some i ∧ r.isolates = true then v[i].latchHeld .other else v[i] := by
  refine ⟨_, List.foldl_cons .., ?_⟩
  cases hr : strOfByte r.str with
  | none => simp
  | some j =>
    cases r.isolates with
    | false => simp
    | true =>
      by_cases hj : j = i
      · subst hj
        simp
      · have : j.val ≠ i.val := fun e => hj (Fin.ext e)
        simp [Vector.getElem_set_ne _ _ this, hj]

/-- HELD of origin OTHER stands latched. -/
def HeldOther (e : Evidence) : Prop := CauseSet.has e.latched .held = true ∧ e.heldOrigin = some .other

theorem heldOther_latchHeld (e : Evidence) : HeldOther (e.latchHeld .other) := ⟨Claims.latchHeld_held e .other, rfl⟩

theorem HeldOther.heldEvid {v : Vector Evidence 24} {i : Str} (rs : List Record) (h : HeldOther v[i]) : HeldOther (heldEvid v rs)[i] := by
  induction rs generalizing v with
  | nil => exact h
  | cons r rs ih =>
    obtain ⟨w, hw, he⟩ := heldEvid_cons v r rs i
    rw [hw]
    refine ih ?_
    rw [he]
    split
    · exact heldOther_latchHeld _
    · exact h

theorem heldEvid_held {v : Vector Evidence 24} {i : Str} {r : Record} {rs : List Record} (hr : r ∈ rs) (hs : strOfByte r.str = some i)
    (hi : r.isolates = true) : HeldOther (heldEvid v rs)[i] := by
  induction rs generalizing v with
  | nil => cases hr
  | cons x rs ih =>
    obtain ⟨w, hw, he⟩ := heldEvid_cons v x rs i
    rw [hw]
    rcases List.mem_cons.mp hr with rfl | hr
    · refine HeldOther.heldEvid rs ?_
      rw [he, if_pos ⟨hs, hi⟩]
      exact heldOther_latchHeld _
    · exact ih hr

theorem heldEvid_other {v : Vector Evidence 24} {i : Str} {rs : List Record}
    (h : ∀ r ∈ rs, strOfByte r.str = some i → r.isolates = false) : (heldEvid v rs)[i] = v[i] := by
  induction rs generalizing v with
  | nil => rfl
  | cons x rs ih =>
    obtain ⟨w, hw, he⟩ := heldEvid_cons v x rs i
    rw [hw, ih fun r hr => h r (List.mem_cons_of_mem _ hr), he, if_neg]
    rintro ⟨hs, hi⟩
    rw [h x List.mem_cons_self hs] at hi
    cases hi

/-! ## The journal after a program without confirmation -/

/-- The journal after a program that has ended without confirmation with result `r`. -/
def failedProgram (s : State) (c : ProgCommit) (r : CommitResult) : Journal :=
  { (if c.kind = .journal then doubtRange s.dropProg c else s.dropProg).journal with outcome := ⟨.program, r, c.addr⟩ }

/-- The slots after a journal program that has ended without confirmation. -/
def markedSlots (s : State) (c : ProgCommit) : List Summary :=
  setMany c.first (c.records.map fun _ => doubtMark s) s.journal.slots

theorem doubtRange_setJournal (s : State) (c : ProgCommit) : doubtRange s c = s.setJournal (doubtRange s c).journal := by
  unfold doubtRange
  split <;> rfl

theorem resolveProgram_failed {s : State} {c : ProgCommit} (h : s.journal.prog = some c) :
    resolveProgram s true = s.setJournal (failedProgram s c .commitFailed) := by
  unfold resolveProgram failedProgram
  rw [h]
  simp only [if_true]
  split
  · rw [doubtRange_setJournal]
    rfl
  · rfl

theorem expireProgram_eq {s : State} {c : ProgCommit} (h : s.journal.prog = some c) :
    expireProgram s = { s with
      journal := failedProgram s c .commitTimeout
      evid := if c.kind = .journal then heldEvid s.evid c.records else s.evid } := by
  unfold expireProgram failedProgram
  rw [h]
  simp only
  split
  · rw [holdRecords_eq, doubtRange_setJournal]
    rfl
  · rfl

theorem failedProgram_other {s : State} {c : ProgCommit} {r : CommitResult} (h : c.kind ≠ .journal) :
    failedProgram s c r = { s.journal with prog := none, outcome := ⟨.program, r, c.addr⟩ } := by
  unfold failedProgram
  rw [if_neg h]
  rfl

theorem failedProgram_ring {s : State} {c : ProgCommit} {r : CommitResult} (h : Claims.InRing s c) :
    failedProgram s c r = endedProgram s c r (markedSlots s c) := by
  unfold failedProgram doubtRange endedProgram markedSlots doubtMark
  rw [if_pos h.kind]
  rcases h.state with e | e <;> simp [e, State.setSlots, State.setJournal, State.dropProg]

theorem failedProgram_erase (s : State) (c : ProgCommit) (r : CommitResult) : (failedProgram s c r).erase = s.journal.erase := by
  unfold failedProgram doubtRange
  split
  · split <;> rfl
  · rfl

theorem failedProgram_congr {s t : State} (h : t.journal = s.journal) (c : ProgCommit) (r : CommitResult) :
    failedProgram t c r = failedProgram s c r := by
  unfold failedProgram doubtRange State.setSlots State.setJournal State.dropProg State.setJournal
  simp only [h]
  split
  · split <;> rfl
  · rfl

theorem failedProgram_outcome (s : State) (c : ProgCommit) (r : CommitResult) :
    (failedProgram s c r).outcome = ⟨.program, r, c.addr⟩ := rfl

theorem markedSlots_range {s : State} {c : ProgCommit} (h : Claims.InRing s c) : Claims.EndedRange s c (markedSlots s c) := by
  intro k
  have hl := h.range
  unfold markedSlots
  rw [getElem?_setMany, List.length_map]
  by_cases hk : c.first ≤ k ∧ k < c.first + c.records.length
  · rw [if_pos ⟨hk.1, hk.2, by omega⟩, if_pos hk, List.getElem?_map, List.getElem?_eq_getElem (l := c.records) (by omega)]
    rfl
  · rw [if_neg fun e => hk ⟨e.1, e.2.1⟩, if_neg hk]

/-! ## An erase that ends with the program -/

/-- The slots after a pending erase has ended without confirmation. -/
def unseenSlots (j : Journal) (e : EraseCommit) : List Summary :=
  match e.sector with
  | some k => if e.recovery then j.slots else setRange (512 * k) 512 .unseen j.slots
  | none => j.slots

theorem getElem?_unseenSlots (j : Journal) (e : EraseCommit) (k : Nat) :
    (unseenSlots j e)[k]? = if Claims.InEnded j e k then some .unseen else j.slots[k]? := by
  unfold unseenSlots Claims.InEnded
  cases hs : e.sector with
  | none => simp
  | some i =>
    cases e.recovery with
    | true => simp
    | false =>
      simp only [Bool.false_eq_true, if_false, true_and, Option.some.injEq]
      rw [getElem?_setRange]
      exact if_congr (by rw [← and_assoc, slot_in_sector, eq_comm]) rfl rfl

/-- The journal after the pending erase `e` has ended without confirmation, with the outcome `o`. -/
def endedErase (j : Journal) (e : EraseCommit) (o : CommitOutcome) : Journal :=
  { j with erase := none, sectors := endedSectors j e, slots := unseenSlots j e, outcome := o }

/-- One event that ends the program by `f` and the erase with it: one of the two outcomes stands (R155). -/
theorem endBoth_eq (s : State) (f : State → State) (r : CommitResult) :
    ∃ j, endBoth s f r = { f s with journal := j, free := (f s).free + 1 }
      ∧ ∀ e, (f s).journal.erase = some e → ∃ o, (o = (f s).journal.outcome ∨ o = ⟨.erase, r, e.base⟩)
        ∧ j = endedErase (f s).journal e o := by
  unfold endBoth
  simp only
  cases he : (f s).journal.erase with
  | none =>
    have hf : failErase (f s) r = f s := by
      unfold failErase
      rw [he]
    rw [hf]
    exact ⟨_, rfl, fun e h => by cases h⟩
  | some e =>
    rw [failErase_eq _ e r he]
    refine ⟨_, rfl, fun e' h => ?_⟩
    cases h
    cases Config.freeEraseLast s.free || s.journal.prog.isNone with
    | true => exact ⟨_, .inr rfl, rfl⟩
    | false => exact ⟨_, .inl rfl, rfl⟩

end Sys2Proof.Machine

namespace Sys2Proof.Claims

open Sys2Proof Sys2Proof.Machine

/-- The slots of a program's range and of the sector of an erase that ends with it. -/
theorem endedBoth_slots {s : State} {c : ProgCommit} {e : EraseCommit} {r : CommitResult} (h : InRing s c) :
    EndedBoth s c e (unseenSlots (endedProgram s c r (markedSlots s c)) e) := by
  intro k
  have hl : (endedProgram s c r (markedSlots s c)).slots.length = s.journal.slots.length := length_setMany ..
  rw [getElem?_unseenSlots]
  unfold InEnded
  rw [hl]
  exact if_congr Iff.rfl rfl (markedSlots_range h k)

section failed
variable {s : State} {c : ProgCommit} {e : EraseCommit} {r : CommitResult} {o : CommitOutcome}

/-- The journal after one event has ended a journal program and an erase. -/
theorem endedErase_ring (h : InRing s c) : endedErase (failedProgram s c r) e o =
    { endedProgram s c r (unseenSlots (endedProgram s c r (markedSlots s c)) e) with
      erase := none, sectors := endedSectors s.journal e, outcome := o } := by
  rw [failedProgram_ring h]
  rfl

/-- The journal after one event has ended a CONFIG or GUARDED program and an erase. -/
theorem endedErase_other (h : c.kind ≠ .journal) : endedErase (failedProgram s c r) e o =
    { s.journal with
      prog := none, erase := none, sectors := endedSectors s.journal e, slots := unseenSlots s.journal e, outcome := o } := by
  rw [failedProgram_other h]
  rfl

theorem endedSlots_other : EndedSlots s e (unseenSlots s.journal e) := getElem?_unseenSlots s.journal e

end failed

/-! ## PROGRAM_COMMIT_TIMEOUT -/

theorem exec_programCommitTimeout {s : State} {dt : Nat} {c : ProgCommit} (h : s.journal.prog = some c) (hx : c.expiry ≤ s.now + dt) :
    exec (.programCommitTimeout dt) s = .next (finish (s.advance dt) (programTimeout (s.advance dt))) := by
  change execProgramCommitTimeout dt s = _
  unfold execProgramCommitTimeout
  simp only [advance_journal, h]
  exact congrArg Host.Outcome.next (if_pos hx)

/-- What the expiry of the program timer makes of the state; the journal as the end of the program, and of an erase with it, leaves it. -/
theorem programTimeout_eq {s : State} {c : ProgCommit} (h : s.journal.prog = some c) :
    ∃ j n, programTimeout s = { s with
        mirror := { s.mirror with state := .unknown }
        journal := j
        evid := if c.kind = .journal then heldEvid s.evid c.records else s.evid
        free := n }
      ∧ (s.mirror.state ≠ .busyProgramInSuspend → j = failedProgram s c .commitTimeout)
      ∧ (s.mirror.state = .busyProgramInSuspend → ∀ e, s.journal.erase = some e →
          ∃ o, EitherOutcome o .commitTimeout c .commitTimeout e ∧ j = endedErase (failedProgram s c .commitTimeout) e o) := by
  unfold programTimeout
  by_cases hm : s.mirror.state = .busyProgramInSuspend
  · obtain ⟨j, hj, hends⟩ := endBoth_eq s expireProgram .commitTimeout
    rw [if_pos hm, hj, expireProgram_eq h]
    rw [expireProgram_eq h] at hends
    exact ⟨_, _, rfl, fun hn => absurd hm hn, fun _ e he => hends e ((failedProgram_erase s c _).trans he)⟩
  · rw [if_neg hm, expireProgram_eq h]
    exact ⟨_, _, rfl, fun _ => rfl, fun hn => absurd hn hm⟩

theorem heldFor_heldEvid {s u : State} {rs : List Record} (h : u.evid = heldEvid s.evid rs) : HeldFor s u rs where
  held i := by
    rintro ⟨r, hr, hs, hd⟩
    rw [h]
    exact heldEvid_held hr (strOfByte_eq_some.mpr hs) ((isolates_iff r).mpr hd)
  others i hn := by
    rw [h]
    refine heldEvid_other fun r hr hs => ?_
    obtain ⟨h₂, h₃⟩ := hn r hr (strOfByte_eq_some.mp hs)
    exact Bool.eq_false_iff.mpr fun he => ((isolates_iff r).mp he).elim h₂ h₃

/-- Settles O59: `programTimeout_eq` names what the expiry writes, and the end of the event moves the targets and what follows them. -/
theorem programTimesOut : Obligations.ProgramTimesOut := by
  intro dt s c hp hx
  obtain ⟨j, n, hs₁, hone, hboth⟩ := programTimeout_eq (s := s.advance dt) hp
  have hexec := exec_programCommitTimeout hp hx
  have hc := carries_finish (s.advance dt) (programTimeout (s.advance dt))
  have hcfg₁ : (programTimeout (s.advance dt)).cfg = s.cfg := (tracks_programTimeout (s.advance dt)).same.cfg
  have hsearch₁ : (programTimeout (s.advance dt)).search = s.search := (tracks_programTimeout (s.advance dt)).same.search
  have hseqs₁ : (programTimeout (s.advance dt)).seqs = s.seqs := by rw [hs₁]; rfl
  have htaken := fun hn : NoTestStarts s (finish (s.advance dt) (programTimeout (s.advance dt))) =>
    finish_targetsAreTaken hcfg₁ hseqs₁ (targetsStand_of_noTest hsearch₁ hn)
  generalize finish (s.advance dt) (programTimeout (s.advance dt)) = u at *
  rw [hs₁] at hc
  have hj : u.journal = j := hc.journal
  have hev : u.evid = if c.kind = .journal then heldEvid s.evid c.records else s.evid := hc.evid
  have hbus := Carries.sameBus hc
  have hmeas := Carries.sameMeasurement hc
  have hrec := Carries.sameRecord hc
  have hadv : failedProgram (s.advance dt) c .commitTimeout = failedProgram s c .commitTimeout := failedProgram_congr (advance_journal s dt) c _
  refine ⟨_, u.journal.slots, hexec, hc.mirror, fun hm => ?_, fun e hm he => ?_, fun hk => heldFor_heldEvid (hev.trans (if_pos hk)),
    fun hk => hev.trans (if_neg hk), htaken, hbus, hmeas, hc.inputs, hrec⟩
  · have hfailed : u.journal = failedProgram s c .commitTimeout :=
      hj.trans ((hone (by rw [advance_mirror, hm]; decide)).trans hadv)
    rw [hfailed]
    refine ⟨fun hr => ?_, failedProgram_other⟩
    rw [failedProgram_ring hr]
    exact ⟨rfl, markedSlots_range hr⟩
  · obtain ⟨o, ho, hfailed⟩ := hboth hm e he
    rw [hadv] at hfailed
    rw [hj, hfailed]
    refine ⟨o, ho, fun hr => ?_, fun hk => ?_⟩
    · rw [endedErase_ring hr]
      exact ⟨rfl, endedBoth_slots hr⟩
    · rw [endedErase_other hk]
      exact ⟨rfl, endedSlots_other⟩

/-! ## A status byte -/

/-- The state that a status observation finds, with its write enable mirror (R114). -/
def welTaken (s : State) (dt : Nat) (t : Txn) (b : Byte) : State :=
  (s.advance dt).setWel (if b.getLsbD t.cfg.welBit then .set else .clear)

theorem observe_eq {s : State} {t : Txn} {x : Xfer} {busy susp err : Bool} (dt : Nat) (h : Observed s t x busy susp err) :
    observe (s.advance dt) t.cfg x.miso = moveMirror (welTaken s dt t x.miso) busy susp err := by
  unfold observe welTaken
  rw [h.busy, h.susp, h.err]

/-- A status byte is an event of its own: the observation with its end, and the byte passed (R114). -/
theorem exec_status_byte {s : State} {t : Txn} {x : Xfer} {busy susp err : Bool} (dt : Nat) (h : Observed s t x busy susp err) :
    ∃ t' b, exec (.status dt [x] none) s
      = .next (((finish (s.advance dt) (moveMirror (welTaken s dt t x.miso) busy susp err)).setTxn t').exchange x b) := by
  have ht : (s.advance dt).txn = some t := h.txn
  have hm : (t.cls == some .status) = true := beq_iff_eq.mpr h.cls
  refine ⟨t.countByte, mergeFlag t.cfg s.mirror.refusalFlag x.miso, ?_⟩
  change execStatus dt [x] none s = _
  unfold execStatus
  rw [busCommand_mine ht hm, List.foldl_cons, List.foldl_nil, statusByte, ht, ← observe_eq dt h]
  rfl

/-- What the mirror does with an observation that is not busy (R116). -/
theorem moveMirror_resolves {s : State} {susp err : Bool} (h : ResolvesProgram s susp) :
    moveMirror s false susp err = (resolveProgram s err).mirrorTo (mirrorTable s.mirror.state false susp) := by
  unfold moveMirror
  rcases h with h | ⟨h, hs⟩
  · rw [h]
    cases susp <;> rfl
  · rw [h, hs]
    rfl

theorem moveMirror_endsBoth {s : State} {err : Bool} (h : s.mirror.state = .busyProgramInSuspend) :
    moveMirror s false false err = (endBoth s (fun s => resolveProgram s err) .unresolved).mirrorTo .idle := by
  unfold moveMirror
  rw [h]
  rfl

/-- A status byte that moves the mirror and the journal alone leaves no more behind. -/
theorem exec_status_leaves {s : State} {t : Txn} {x : Xfer} {busy susp err : Bool} {dt n : Nat} {j : Journal} {m : MirrorState}
    (h : Observed s t x busy susp err)
    (hm : moveMirror (welTaken s dt t x.miso) busy susp err
      = { (welTaken s dt t x.miso).setJournal j with mirror := { (welTaken s dt t x.miso).mirror with state := m }, free := n }) :
    ∃ u, exec (.status dt [x] none) s = .next u ∧ u.journal = j ∧ u.mirror.state = m ∧ u.evid = s.evid
      ∧ ∀ i : Str, SameRecord s.table[i] u.table[i] := by
  obtain ⟨t', b, hexec⟩ := exec_status_byte dt h
  have hc := carries_finish (s.advance dt) (moveMirror (welTaken s dt t x.miso) busy susp err)
  refine ⟨_, hexec, ?_⟩
  generalize finish (s.advance dt) (moveMirror (welTaken s dt t x.miso) busy susp err) = u at hc ⊢
  rw [hm] at hc
  have hr := Carries.sameRecord hc
  exact ⟨hc.journal, congrArg Mirror.state hc.mirror, hc.evid, hr⟩

/-- Settles O24: `resolveProgram_failed` and `endBoth_eq` name the journal that the observation leaves, and it writes nothing else. -/
theorem statusFailsProgram : Obligations.StatusFailsProgram := by
  intro dt x s t susp c hobs hp
  have hw (r : CommitResult) : failedProgram (welTaken s dt t x.miso) c r = failedProgram s c r :=
    failedProgram_congr (s := s) (t := welTaken s dt t x.miso) rfl c r
  have hprog : (welTaken s dt t x.miso).journal.prog = some c := hp
  refine ⟨fun hres => ?_, fun e hm hs he => ?_⟩
  · obtain ⟨u, hu⟩ := exec_status_leaves (dt := dt) hobs
      (by rw [moveMirror_resolves (s := welTaken s dt t x.miso) hres, resolveProgram_failed hprog]; rfl)
    rw [hw] at hu
    refine ⟨fun hk => ⟨u, ?_⟩, fun hr => ⟨markedSlots s c, ⟨u, ?_⟩, markedSlots_range hr⟩⟩
    · rw [failedProgram_other hk] at hu
      exact hu
    · rw [failedProgram_ring hr] at hu
      exact hu
  · subst hs
    obtain ⟨j, hj, hends⟩ := endBoth_eq (welTaken s dt t x.miso) (fun s => resolveProgram s true) .unresolved
    have hfail := resolveProgram_failed hprog
    rw [hw] at hfail
    simp only [hfail] at hj hends
    obtain ⟨o, ho, rfl⟩ := hends e ((failedProgram_erase s c _).trans he)
    obtain ⟨u, hu⟩ := exec_status_leaves (dt := dt) hobs
      (by rw [moveMirror_endsBoth (s := welTaken s dt t x.miso) hm, hj]; rfl)
    have hmt : mirrorTable s.mirror.state false false = .idle := by rw [hm]; rfl
    refine ⟨fun hk => ⟨_, o, ⟨u, ?_⟩, endedSlots_other, ho⟩,
      fun hr => ⟨_, o, ⟨u, ?_⟩, endedBoth_slots (r := .commitFailed) hr, ho⟩⟩
    · rw [hmt, ← endedErase_other hk]
      exact hu
    · rw [hmt, ← endedErase_ring hr]
      exact hu

end Sys2Proof.Claims

/-! The records of a program that a status byte confirms (O23). -/

namespace Sys2Proof.Machine

/-! ## Released causes -/

theorem has_held (cs : CauseSet) : CauseSet.has cs .held = cs.getLsbD 5 := by
  revert cs
  decide +kernel

theorem has_weld (cs : CauseSet) : CauseSet.has cs .weld = cs.getLsbD 6 := by
  revert cs
  decide +kernel

theorem release_zero (e : Evidence) : e.release 0 = e := by
  have hg : e.latched &&& 0 &&& ~~~e.present &&& 0x7F = 0 := by simp
  have hl : e.latched &&& ~~~0 = e.latched := by
    generalize e.latched = cs
    revert cs
    decide +kernel
  unfold Evidence.release
  simp only [hg, hl]
  rfl

/-- Two release masks, one after the other, release what their union does (R53). -/
theorem release_release (e : Evidence) (m n : Byte) : (e.release m).release n = e.release (m ||| n) := by
  obtain ⟨present, noted, latched, origin⟩ := e
  simp only [Evidence.release, Evidence.mk.injEq, true_and, and_true, has_held]
  refine ⟨?_, ?_⟩
  · ext k hk
    simp
    cases latched[k] <;> cases m[k] <;> cases n[k] <;> cases present[k] <;> simp
  · simp
    cases latched[5] <;> cases m[5] <;> cases n[5] <;> cases present[5] <;> simp

theorem release_latched (e : Evidence) (m : Byte) : (e.release m).latched = e.latched &&& ~~~(m &&& ~~~e.present &&& 0x7F) := by
  unfold Evidence.release
  ext k hk
  simp
  cases e.latched[k] <;> simp

theorem release_origin (e : Evidence) (m : Byte) :
    (e.release m).heldOrigin = if CauseSet.has (e.latched &&& m &&& ~~~e.present) .held then none else e.heldOrigin := by
  have hb : CauseSet.has (e.latched &&& m &&& ~~~e.present &&& 0x7F) .held = CauseSet.has (e.latched &&& m &&& ~~~e.present) .held := by
    simp [has_held]
  unfold Evidence.release
  simp only [hb]

/-- A release latches nothing. -/
theorem release_weld {e : Evidence} {m : Byte} (h : CauseSet.has (e.release m).latched .weld = true) :
    CauseSet.has e.latched .weld = true := by
  rw [has_weld] at h ⊢
  simp only [Evidence.release, BitVec.getLsbD_and, Bool.and_eq_true] at h
  exact h.1

/-! ## One record, and a list of them, string by string -/

/-- The sequencer of a string whose WELD has been released (R75). -/
def unwelded (s : State) (i : Str) (q : Seq) : Seq :=
  if q.state = .failed then
    if s.lines[i] then { q.enter .closed with probation := s.cfg.probation } else q.enter .opened
  else q

/-- Has a release between two evidence states of a string taken its WELD? -/
def weldReleased (e e' : Evidence) : Bool := CauseSet.has e.latched .weld && !CauseSet.has e'.latched .weld

/-- Records write entries, evidence and sequencers. -/
theorem applyRecord_frame (s : State) (k : Nat) (r : Record) :
    ∃ table evid seqs, applyRecord s k r = { s with table := table, evid := evid, seqs := seqs } := by
  unfold applyRecord
  split
  · exact ⟨_, _, _, rfl⟩
  · simp only
    split
    · unfold weldCleared
      simp only
      split <;> exact ⟨_, _, _, rfl⟩
    · exact ⟨_, _, _, rfl⟩

theorem applyRecord_skips {s : State} {k : Nat} {r : Record} {i : Str} (h : strOfByte r.str ≠ some i) :
    (applyRecord s k r).table[i] = s.table[i] ∧ (applyRecord s k r).evid[i] = s.evid[i]
      ∧ (applyRecord s k r).seqs[i] = s.seqs[i] := by
  unfold applyRecord
  split
  · exact ⟨rfl, rfl, rfl⟩
  · next j hj =>
    have hne : j.val ≠ i.val := fun e => h (hj.trans (congrArg some (Fin.ext e)))
    have ht (e : Entry) (v : Vector Entry 24) : (v.set j e)[i] = v[i] := Vector.getElem_set_ne _ _ hne
    have he (e : Evidence) (v : Vector Evidence 24) : (v.set j e)[i] = v[i] := Vector.getElem_set_ne _ _ hne
    have hq (q : Seq) (v : Vector Seq 24) : (v.set j q)[i] = v[i] := Vector.getElem_set_ne _ _ hne
    simp only
    split
    · unfold weldCleared
      simp only
      split
      · exact ⟨ht _ _, he _ _, hq _ _⟩
      · exact ⟨ht _ _, he _ _, rfl⟩
    · exact ⟨ht _ _, he _ _, rfl⟩

theorem applyRecord_names {s : State} {k : Nat} {r : Record} {i : Str} (h : strOfByte r.str = some i) :
    (applyRecord s k r).table[i]
        = { s.table[i] with liveSlot := some k, recorded := (Disposition.ofByte r.disp).getD .none, damaged := false }
      ∧ (applyRecord s k r).evid[i] = s.evid[i].release r.mask
      ∧ (applyRecord s k r).seqs[i]
        = if weldReleased s.evid[i] (s.evid[i].release r.mask) then unwelded s i s.seqs[i] else s.seqs[i] := by
  have ht (e : Entry) (v : Vector Entry 24) : (v.set i e)[i] = e := Vector.getElem_set_self _
  have he (e : Evidence) (v : Vector Evidence 24) : (v.set i e)[i] = e := Vector.getElem_set_self _
  have hq (q : Seq) (v : Vector Seq 24) : (v.set i q)[i] = q := Vector.getElem_set_self _
  unfold applyRecord weldReleased
  rw [h]
  simp only [State.setEntry, State.setEvid, he]
  split
  · unfold weldCleared unwelded
    simp only
    split
    · exact ⟨ht _ _, he _ _, hq _ _⟩
    · exact ⟨ht _ _, he _ _, rfl⟩
  · exact ⟨ht _ _, he _ _, rfl⟩

/-- The union of the release masks of a list's records for a string. -/
def maskOf (rs : List (Nat × Record)) (i : Str) : Byte :=
  (rs.filter fun x => x.2.str.toNat == i.val).foldl (fun m x => m ||| x.2.mask) 0

theorem foldl_mask (rs : List (Nat × Record)) (m : Byte) :
    rs.foldl (fun m x => m ||| x.2.mask) m = m ||| rs.foldl (fun m x => m ||| x.2.mask) 0 := by
  induction rs generalizing m with
  | nil => simp
  | cons x rs ih =>
    rw [List.foldl_cons, List.foldl_cons, ih (m ||| x.2.mask), ih (0 ||| x.2.mask)]
    simp [BitVec.or_assoc]

theorem maskOf_names {x : Nat × Record} {rs : List (Nat × Record)} {i : Str} (h : strOfByte x.2.str = some i) :
    maskOf (x :: rs) i = x.2.mask ||| maskOf rs i := by
  unfold maskOf
  rw [List.filter_cons_of_pos (by rw [Claims.strOfByte_eq_some.mp h, beq_self_eq_true]), List.foldl_cons, foldl_mask]
  simp

theorem maskOf_skips {x : Nat × Record} {rs : List (Nat × Record)} {i : Str} (h : strOfByte x.2.str ≠ some i) :
    maskOf (x :: rs) i = maskOf rs i := by
  unfold maskOf
  rw [List.filter_cons_of_neg (by rw [beq_iff_eq]; exact fun e => h (Claims.strOfByte_eq_some.mpr e))]

theorem applyRecords_cons (s : State) (x : Nat × Record) (rs : List (Nat × Record)) :
    applyRecords s (x :: rs) = applyRecords (applyRecord s x.1 x.2) rs := rfl

theorem applyRecords_append (s : State) (xs ys : List (Nat × Record)) :
    applyRecords s (xs ++ ys) = applyRecords (applyRecords s xs) ys := List.foldl_append

theorem applyRecords_frame (s : State) (rs : List (Nat × Record)) :
    ∃ table evid seqs, applyRecords s rs = { s with table := table, evid := evid, seqs := seqs } := by
  induction rs generalizing s with
  | nil => exact ⟨_, _, _, rfl⟩
  | cons x rs ih =>
    obtain ⟨_, _, _, hx⟩ := applyRecord_frame s x.1 x.2
    rw [applyRecords_cons, hx]
    obtain ⟨_, _, _, hr⟩ := ih _
    exact ⟨_, _, _, hr⟩

theorem applyRecords_evid (s : State) (rs : List (Nat × Record)) (i : Str) :
    (applyRecords s rs).evid[i] = s.evid[i].release (maskOf rs i) := by
  induction rs generalizing s with
  | nil => exact (release_zero _).symm
  | cons x rs ih =>
    rw [applyRecords_cons, ih]
    by_cases h : strOfByte x.2.str = some i
    · rw [(applyRecord_names h).2.1, maskOf_names h, release_release]
    · rw [(applyRecord_skips h).2.1, maskOf_skips h]

theorem applyRecords_skips {s : State} {rs : List (Nat × Record)} {i : Str} (h : ∀ x ∈ rs, strOfByte x.2.str ≠ some i) :
    (applyRecords s rs).table[i] = s.table[i] ∧ (applyRecords s rs).evid[i] = s.evid[i] := by
  induction rs generalizing s with
  | nil => exact ⟨rfl, rfl⟩
  | cons x rs ih =>
    obtain ⟨ht, he⟩ := ih (s := applyRecord s x.1 x.2) fun y hy => h y (List.mem_cons_of_mem _ hy)
    obtain ⟨ht', he', _⟩ := applyRecord_skips (s := s) (k := x.1) (h x List.mem_cons_self)
    rw [applyRecords_cons]
    exact ⟨ht.trans ht', he.trans he'⟩

/-- R14: the last record of a string gives its entry. -/
theorem applyRecords_last {s : State} {rs : List (Nat × Record)} {i : Str} {slot : Nat} {r : Record} (h : Claims.LastOf rs i slot r) :
    (applyRecords s rs).table[i].liveSlot = some slot
      ∧ (applyRecords s rs).table[i].recorded = (Disposition.ofByte r.disp).getD .none
      ∧ (applyRecords s rs).table[i].damaged = false := by
  obtain ⟨before, after, rfl, hr, hafter⟩ := h
  have hs := applyRecords_skips (s := applyRecord (applyRecords s before) slot r) (rs := after) (i := i)
    fun x hx e => hafter x hx (Claims.strOfByte_eq_some.mp e)
  rw [applyRecords_append, applyRecords_cons, hs.1, (applyRecord_names (Claims.strOfByte_eq_some.mpr hr)).1]
  exact ⟨rfl, rfl, rfl⟩

theorem unwelded_congr {s t : State} (hl : t.lines = s.lines) (hc : t.cfg = s.cfg) (i : Str) (q : Seq) :
    unwelded t i q = unwelded s i q := by
  unfold unwelded
  rw [hl, hc]

/-- R75: the records move a sequencer exactly if they release a latched WELD. -/
theorem applyRecords_seq (s : State) (rs : List (Nat × Record)) (i : Str) :
    (applyRecords s rs).seqs[i]
      = if weldReleased s.evid[i] (applyRecords s rs).evid[i] then unwelded s i s.seqs[i] else s.seqs[i] := by
  induction rs generalizing s with
  | nil =>
    have hn : weldReleased s.evid[i] (applyRecords s []).evid[i] = false := Bool.and_not_self _
    rw [hn]
    rfl
  | cons x rs ih =>
    obtain ⟨_, _, _, hx⟩ := applyRecord_frame s x.1 x.2
    have hu := fun q => unwelded_congr (s := s) (t := applyRecord s x.1 x.2) (by rw [hx]) (by rw [hx]) i q
    rw [applyRecords_cons, ih, hu, applyRecords_evid]
    by_cases h : strOfByte x.2.str = some i
    · obtain ⟨_, he, hq⟩ := applyRecord_names (s := s) (k := x.1) h
      rw [he, hq]
      have hb := release_weld (e := s.evid[i]) (m := x.2.mask)
      have hc := release_weld (e := s.evid[i].release x.2.mask) (m := maskOf rs i)
      unfold weldReleased
      by_cases hx : CauseSet.has (s.evid[i].release x.2.mask).latched .weld = true
      · simp only [hb hx, hx, Bool.not_true, Bool.and_false, Bool.false_eq_true, if_false]
      · have hy := Bool.eq_false_iff.mpr fun hy => hx (hc hy)
        have hx := Bool.eq_false_iff.mpr hx
        simp only [hx, hy, Bool.not_false, Bool.and_true, Bool.false_and, Bool.false_eq_true, if_false]
    · obtain ⟨_, he, hq⟩ := applyRecord_skips (s := s) (k := x.1) h
      rw [he, hq]

end Sys2Proof.Machine

namespace Sys2Proof.Claims

open Sys2Proof Sys2Proof.Machine

/-! ## Confirmed records at the end of their event -/

theorem Ended.congr {q : Seq} {u v : State} {i : Str} (h : Ended q u i) (hn : v.now = u.now) (hc : v.cfg = u.cfg)
    (ht : v.table = u.table) (hs : v.seqs = u.seqs) (ha : v.arb = u.arb) (hi : v.iso = u.iso) : Ended q v i := by
  obtain ⟨hseq, hqueue, hreq, hmark⟩ := h
  refine ⟨?_, ?_, ?_, ?_⟩
  · rwa [ht, hn, hs, hc]
  · rwa [ha, hs]
  · rwa [hs, ha]
  · rw [ht, hn]
    exact fun hd => (hmark hd).congr (congrArg Iso.job hi)

/-- A passed byte moves the ports and the transaction alone. -/
theorem ended_exchange {q : Seq} {u : State} {i : Str} (h : Ended q u i) (t : Txn) (x : Xfer) (b : Byte) :
    Ended q ((u.setTxn t).exchange x b) i := h.congr rfl rfl rfl rfl rfl rfl

theorem opensNext_of_asks {q : Seq} {u : State} {i : Str} (h : Asks u i { q with state := .openQueued, mismatch := 0 } .open_) :
    OpensNext u.seqs[i] ∧ u.seqs[i].probation = q.probation := by
  rcases h with ⟨h, _⟩ | h
  · rw [h]
    exact ⟨.inl rfl, rfl⟩
  · rw [h]
    exact ⟨.inr rfl, rfl⟩

/-- The event from `s` that has applied the records `rs` on its way to `m`, and that ends in `u`. -/
structure RecordsTaken (s m u : State) (rs : List (Nat × Record)) : Prop where
  table  : m.table = (applyRecords s rs).table
  evid   : m.evid = (applyRecords s rs).evid
  seqs   : m.seqs = (applyRecords s rs).seqs
  carry  : ∀ i : Str, SameRecord m.table[i] u.table[i]
  evid'  : u.evid = m.evid
  rest   : ∀ (i : Str) (q : Seq), m.seqs[i] = q → q.state = .failed → u.seqs[i] = q
  ended  : NoTestStarts s u → ∀ i : Str, i.val < s.cfg.stringCount → Ended m.seqs[i] u i

section recordsTaken
variable {s m u : State} {rs : List (Nat × Record)} (h : RecordsTaken s m u rs)
include h

theorem RecordsTaken.evid_eq (i : Str) : u.evid[i] = s.evid[i].release (maskOf rs i) := by
  rw [h.evid', h.evid, applyRecords_evid]

theorem RecordsTaken.seq_eq (i : Str) :
    m.seqs[i] = if weldReleased s.evid[i] u.evid[i] then unwelded s i s.seqs[i] else s.seqs[i] := by
  rw [h.seqs, h.evid', h.evid]
  exact applyRecords_seq s rs i

theorem RecordsTaken.failed_stays {i : Str} (hf : s.seqs[i].state = .failed)
    (hw : CauseSet.has s.evid[i].latched .weld = false ∨ CauseSet.has u.evid[i].latched .weld = true) : u.seqs[i] = s.seqs[i] := by
  have hn : weldReleased s.evid[i] u.evid[i] = false := by
    unfold weldReleased
    rcases hw with hw | hw <;> rw [hw] <;> simp
  have hq := h.seq_eq i
  rw [hn] at hq
  exact h.rest i _ hq hf

theorem RecordsTaken.released {i : Str} (hf : s.seqs[i].state = .failed) (ha : CauseSet.has s.evid[i].latched .weld = true)
    (hb : CauseSet.has u.evid[i].latched .weld = false) :
    m.seqs[i] = if s.lines[i] then { s.seqs[i].enter .closed with probation := s.cfg.probation } else s.seqs[i].enter .opened := by
  have hr : weldReleased s.evid[i] u.evid[i] = true := by
    unfold weldReleased
    rw [ha, hb]
    rfl
  rw [h.seq_eq, if_pos hr, unwelded, if_pos hf]

/-- R14, R53, R62, R75, R142. -/
theorem RecordsTaken.applied : Applied s u rs where
  records i slot r hl := by
    obtain ⟨hr, hs, hd, _⟩ := h.carry i
    obtain ⟨hs', hr', hd'⟩ := applyRecords_last (s := s) hl
    rw [h.table] at hr hs hd
    exact ⟨hs.trans hs', hr.trans hr', hd.trans hd'⟩
  causes i b hb := by
    subst hb
    rw [h.evid_eq i]
    exact ⟨release_latched .., rfl, rfl, release_origin ..⟩
  welds i hf := by
    refine ⟨h.failed_stays hf, fun hi ha hb hn => ?_⟩
    have hm := h.released hf ha hb
    have ht := (h.ended hn i hi).takesTarget
    refine ⟨fun hl => ?_, fun hl => ?_⟩
    · rw [hl] at hm
      rw [hm] at ht
      obtain ⟨hcon, hiso⟩ := ht.opened rfl
      exact ⟨hiso, hcon⟩
    · rw [hl] at hm
      rw [hm] at ht
      obtain ⟨hiso, hcon⟩ := ht.closed rfl
      exact ⟨hcon, fun hx => opensNext_of_asks (hiso hx)⟩
  others i hn := by
    obtain ⟨ht, he⟩ := applyRecords_skips (s := s) (rs := rs) (i := i) fun x hx e => hn x hx (strOfByte_eq_some.mp e)
    have hc := h.carry i
    rw [h.table, ht] at hc
    exact ⟨hc, by rw [h.evid', h.evid, he]⟩
  targets hn i hi hf := by
    have hq : m.seqs[i] = s.seqs[i] := by
      rw [h.seq_eq]
      split
      · exact if_neg hf
      · rfl
    rw [← hq]
    exact (h.ended hn i hi).takesTarget

end recordsTaken

/-- The records of a program that an observation confirms are taken at the end of that event. -/
theorem recordsTaken_finish {s s₀ m : State} {rs : List (Nat × Record)} {t' : Txn} {x : Xfer} {b : Byte}
    (ht : m.table = (applyRecords s rs).table) (he : m.evid = (applyRecords s rs).evid) (hq : m.seqs = (applyRecords s rs).seqs)
    (hc : m.cfg = s.cfg) (hx : m.search = s.search) : RecordsTaken s m (((finish s₀ m).setTxn t').exchange x b) rs := by
  have hcar := carries_finish s₀ m
  have hrec := Carries.sameRecord hcar
  have hrest (i : Str) (q : Seq) (hi : m.seqs[i] = q) (hf : q.state = .failed) : (finish s₀ m).seqs[i] = q :=
    finish_rest s₀ hi (by rw [Seq.waitsFor, hf]) fun t now => by cases t <;> simp only [Seq.takeTarget, hf]
  have hend (hn : NoTestStarts s (finish s₀ m)) (i : Str) (hi : i.val < s.cfg.stringCount) : Ended m.seqs[i] (finish s₀ m) i :=
    ended_finish (targetsStand_of_noTest hx hn) (by rw [hc]; exact hi)
  generalize finish s₀ m = u at *
  exact ⟨ht, he, hq, hrec, hcar.evid, hrest, fun hn i hi => ended_exchange (hend hn i hi) t' x b⟩

/-- The state of which an observation applies a program's records: write enable taken, the commit at its end. -/
def confirming (s : State) (dt : Nat) (t : Txn) (b : Byte) : State := (welTaken s dt t b).dropProg

theorem resolveProgram_confirmed {s : State} {c : ProgCommit} (h : s.journal.prog = some c) :
    resolveProgram s false = (applyRecords s.dropProg (numbered c.first c.records)).setOutcome .program .confirmed c.addr := by
  unfold resolveProgram
  rw [h]
  rfl

/-- A confirming status byte, by the state `m` that its observation makes: the records and the rest of the journal. -/
theorem confirmed_status {s : State} {t : Txn} {x : Xfer} {susp : Bool} {dt : Nat} {c : ProgCommit} {j : Journal} {k : MirrorState} {n : Nat}
    (hobs : Observed s t x false susp false)
    (hm : moveMirror (welTaken s dt t x.miso) false susp false
      = { applyRecords (confirming s dt t x.miso) (numbered c.first c.records) with
          mirror := { (applyRecords (confirming s dt t x.miso) (numbered c.first c.records)).mirror with state := k }
          journal := j
          free := n }) :
    ∃ u, exec (.status dt [x] none) s = .next u ∧ u.mirror.state = k ∧ u.journal = j ∧ Applied s u (numbered c.first c.records)
      ∧ SameAround s u := by
  obtain ⟨t', b, hexec⟩ := exec_status_byte dt hobs
  obtain ⟨tb, ev, sq, hf⟩ := applyRecords_frame (confirming s dt t x.miso) (numbered c.first c.records)
  have htaken : RecordsTaken (confirming s dt t x.miso) _ _ (numbered c.first c.records) :=
    recordsTaken_finish (s₀ := s.advance dt) (m := moveMirror (welTaken s dt t x.miso) false susp false) (t' := t') (x := x) (b := b)
      (by rw [hm]) (by rw [hm]) (by rw [hm]) (by rw [hm, hf]) (by rw [hm, hf])
  have hc := carries_finish (s.advance dt) (moveMirror (welTaken s dt t x.miso) false susp false)
  refine ⟨_, hexec, ?_⟩
  have happ := htaken.applied
  generalize finish (s.advance dt) (moveMirror (welTaken s dt t x.miso) false susp false) = u at *
  rw [hm, hf] at hc
  refine ⟨congrArg Mirror.state hc.mirror, hc.journal, ⟨happ.records, happ.causes, happ.welds, happ.others, happ.targets⟩, ?_, ?_, hc.inputs⟩
  · exact ⟨hc.inReset, hc.cfg, hc.cfgBase, rfl, rfl, hc.capture, hc.window, hc.pending⟩
  · exact ⟨hc.meas, hc.scan, hc.isoValue, hc.isoStatus, hc.isoStart, hc.isoFault⟩

/-- Settles O23: the records are applied one after the other, and the end of the event takes the sequencers on. -/
theorem statusConfirmsProgram : Obligations.StatusConfirmsProgram := by
  intro dt x s t susp c hobs hp
  have hprog : (welTaken s dt t x.miso).journal.prog = some c := hp
  have hres := resolveProgram_confirmed hprog
  have hj : ((applyRecords (welTaken s dt t x.miso).dropProg (numbered c.first c.records)).setOutcome .program .confirmed c.addr).journal
      = { s.journal with prog := none, outcome := ⟨.program, .confirmed, c.addr⟩ } := by
    obtain ⟨_, _, _, hf⟩ := applyRecords_frame (welTaken s dt t x.miso).dropProg (numbered c.first c.records)
    rw [hf]
    rfl
  refine ⟨fun hr => ?_, fun e hm hs he => ?_⟩
  · have hm := moveMirror_resolves (s := welTaken s dt t x.miso) (err := false) hr
    rw [hres] at hm
    obtain ⟨u, hu, _, hjournal, happ, haround⟩ := confirmed_status (dt := dt) (c := c) hobs hm
    exact ⟨u, hu, hjournal.trans hj, happ, haround⟩
  · subst hs
    obtain ⟨j, hb, hends⟩ := endBoth_eq (welTaken s dt t x.miso) (fun s => resolveProgram s false) .unresolved
    simp only [hres, hj] at hb hends
    obtain ⟨o, ho, rfl⟩ := hends e he
    have hmv := moveMirror_endsBoth (s := welTaken s dt t x.miso) (err := false) hm
    rw [hb] at hmv
    obtain ⟨u, hu, hmirror, hjournal, happ, haround⟩ := confirmed_status (dt := dt) (c := c) hobs hmv
    exact ⟨u, _, o, hu, hmirror, hjournal, endedSlots_other, ho, happ, haround⟩

end Sys2Proof.Claims

/-! The checks of a configuration block and the fields it holds (R172, R181 to R183), for O38. -/

namespace Sys2Proof.Claims

open Sys2Proof Sys2Proof.Machine

/-! ## Fields -/

theorem fieldOf_one (bs : List Byte) (k : Nat) : fieldOf bs k 1 = at1 bs k := by
  simp [fieldOf, upTo, beNat, at1]

theorem fieldOf_two (bs : List Byte) (k : Nat) : fieldOf bs k 2 = at2 bs k := by
  simp [fieldOf, upTo, beNat, at2, at1, List.range_succ]
  omega

theorem beq_byte (b c : Byte) : (b == c) = decide (b.toNat = c.toNat) := by
  rw [Bool.eq_iff_iff, beq_iff_eq, decide_eq_true_eq, BitVec.toNat_inj]

/-- The check word of a block, as a number. -/
theorem halfOf_eq_iff (a b : Byte) (w : Half) : halfOf a b = w ↔ 256 * a.toNat + b.toNat = w.toNat := by
  have ha := a.isLt
  have hb := b.isLt
  rw [← BitVec.toNat_inj, halfOf, BitVec.toNat_ofNat, Nat.mod_eq_of_lt (by omega), Nat.mul_comm]

/-- The fields of 10.3 that have a range are those of one byte and those of two. -/
def rangedList : List Field := ranges1.map (fun x => ⟨x.1, 1, x.2.1, x.2.2⟩) ++ ranges2.map fun x => ⟨x.1, 2, x.2.1, x.2.2⟩

theorem mem_rangedFields (f : Field) : f ∈ rangedFields ↔ f ∈ rangedList :=
  ⟨(show ∀ f ∈ rangedFields, f ∈ rangedList by decide) f, (show ∀ f ∈ rangedList, f ∈ rangedFields by decide) f⟩

theorem rangedFields_ok (bs : List Byte) : rangedFields.all (Field.ok bs) = true ↔
    (∀ x ∈ ranges1, x.2.1 ≤ at1 bs x.1 ∧ at1 bs x.1 ≤ x.2.2) ∧ ∀ x ∈ ranges2, x.2.1 ≤ at2 bs x.1 ∧ at2 bs x.1 ≤ x.2.2 := by
  have h₁ (x : Nat × Nat × Nat) : Field.ok bs ⟨x.1, 1, x.2.1, x.2.2⟩ = true ↔ x.2.1 ≤ at1 bs x.1 ∧ at1 bs x.1 ≤ x.2.2 := by
    rw [Field.ok, fieldOf_one, Bool.and_eq_true, decide_eq_true_eq, decide_eq_true_eq]
  have h₂ (x : Nat × Nat × Nat) : Field.ok bs ⟨x.1, 2, x.2.1, x.2.2⟩ = true ↔ x.2.1 ≤ at2 bs x.1 ∧ at2 bs x.1 ≤ x.2.2 := by
    rw [Field.ok, fieldOf_two, Bool.and_eq_true, decide_eq_true_eq, decide_eq_true_eq]
  rw [List.all_eq_true]
  simp only [mem_rangedFields, rangedList, List.forall_mem_append, List.forall_mem_map, h₁, h₂]

/-! ## Lists without repetition -/

theorem codesUnique_iff (xs : List Byte) : codesUnique xs = true ↔ xs.Nodup := by
  induction xs with
  | nil => simp [codesUnique]
  | cons x xs ih => simp [codesUnique, ih]

/-- Runs of sectors that share none. -/
def Apart (a b : Region) : Prop := a.base + a.count ≤ b.base ∨ b.base + b.count ≤ a.base

theorem not_overlap_iff (a b : Region) : (!overlap a.base a.count b.base b.count) = true ↔ Apart a b := by
  unfold overlap Apart
  simp only [Bool.not_eq_true', Bool.and_eq_false_iff, decide_eq_false_iff_not]
  omega

theorem noOverlap_iff (rs : List Region) : noOverlap rs = true ↔ rs.Pairwise Apart := by
  induction rs with
  | nil => simp [noOverlap]
  | cons r rs ih =>
    simp only [noOverlap, Bool.and_eq_true, List.all_eq_true, not_overlap_iff, ih, List.pairwise_cons]

/-- A symmetric relation holds between the picked numbers below `n` pair by pair. -/
theorem pairwise_picked {α : Type} (n : Nat) (p : Nat → Bool) (f : Nat → α) (R : α → α → Prop) (hR : ∀ a b, R a b → R b a) :
    (((List.range n).filter p).map f).Pairwise R ↔
      ∀ k < n, ∀ k' < n, k ≠ k' → p k = true → p k' = true → R (f k) (f k') := by
  have hd : ((List.range n).filter p).Nodup := List.nodup_range.filter p
  have : Std.Symm fun k k' => R (f k) (f k') := ⟨fun a b => hR _ _⟩
  rw [List.pairwise_map]
  constructor
  · intro h k hk k' hk' hne hp hp'
    exact h.forall (List.mem_filter.mpr ⟨List.mem_range.mpr hk, hp⟩) (List.mem_filter.mpr ⟨List.mem_range.mpr hk', hp'⟩) hne
  · intro h
    refine hd.pairwise_of_forall_ne fun k hk k' hk' hne => ?_
    obtain ⟨hk, hp⟩ := List.mem_filter.mp hk
    obtain ⟨hk', hp'⟩ := List.mem_filter.mp hk'
    exact h k (List.mem_range.mp hk) k' (List.mem_range.mp hk') hne hp hp'

theorem forall_picked {α : Type} (n : Nat) (p : Nat → Bool) (f : Nat → α) (P : α → Prop) :
    (∀ x ∈ ((List.range n).filter p).map f, P x) ↔ ∀ k < n, p k = true → P (f k) := by
  simp only [List.forall_mem_map, List.mem_filter, List.mem_range, and_imp]

theorem codesUnique_picked (n : Nat) (p : Nat → Bool) (f : Nat → Byte) : codesUnique (((List.range n).filter p).map f) = true ↔
    ∀ k < n, ∀ k' < n, k ≠ k' → p k = true → p k' = true → (f k).toNat ≠ (f k').toNat := by
  rw [codesUnique_iff, List.Nodup, pairwise_picked n p f _ fun a b h => h.symm]
  simp only [ne_eq, BitVec.toNat_inj]

/-! ## The command table -/

theorem ofCode_isSome (n : Nat) : (CmdClass.ofCode n).isSome = true ↔ n ≤ 0x0D := by
  unfold CmdClass.ofCode
  split <;> simp
  grind

theorem ofCode_none (n : Nat) : CmdClass.ofCode n = some .none ↔ n = 0 := by
  unfold CmdClass.ofCode
  split <;> simp
  omega

theorem code_ofCode {n : Nat} {c : CmdClass} (h : CmdClass.ofCode n = some c) : (CmdClass.code c).toNat = n := by
  unfold CmdClass.ofCode at h
  split at h <;> cases h <;> rfl

/-- Entry `e` of the command table of a block that passes. -/
def commandOf (bs : List Byte) (e : Nat) : CmdEntry :=
  ⟨byteAt bs (16 + 3 * e), (CmdClass.ofCode (at1 bs (17 + 3 * e))).getD .none,
    if at1 bs (17 + 3 * e) = 0 then 0 else at1 bs (18 + 3 * e)⟩

/-- Entry `e` of the command table passes check 4 (R182). -/
def CommandFits (bs : List Byte) (e : Nat) : Prop :=
  at1 bs (17 + 3 * e) ≤ 0x0D ∧ (at1 bs (17 + 3 * e) ≠ 0 → at1 bs (18 + 3 * e) ≤ 4)

theorem commandAt_isSome (bs : List Byte) (e : Nat) : (commandAt bs e).isSome = true ↔ CommandFits bs e := by
  have hs := ofCode_isSome (at1 bs (17 + 3 * e))
  have hn := ofCode_none (at1 bs (17 + 3 * e))
  unfold commandAt CommandFits
  rw [fieldOf_one, fieldOf_one]
  split
  · next h =>
    rw [h] at hs
    simp at hs ⊢
    omega
  · next h =>
    have h0 := hn.mp h
    simp [h0]
  · next c hc h =>
    have h0 : at1 bs (17 + 3 * e) ≠ 0 := fun h0 => hc (Option.some.inj (h.symm.trans (hn.mpr h0)))
    rw [h] at hs
    have hle := hs.mp rfl
    split <;> simp <;> omega

theorem commandAt_eq {bs : List Byte} {e : Nat} (h : CommandFits bs e) : commandAt bs e = some (commandOf bs e) := by
  have hn := ofCode_none (at1 bs (17 + 3 * e))
  have hx := (commandAt_isSome bs e).mpr h
  unfold commandAt at hx ⊢
  unfold commandOf
  rw [fieldOf_one, fieldOf_one] at *
  split at hx
  · cases hx
  · next hc => rw [hc]; simp [hn.mp hc]
  · next c hc h' =>
    have h0 : at1 bs (17 + 3 * e) ≠ 0 := fun h0 => hc (Option.some.inj (h'.symm.trans (hn.mpr h0)))
    rw [h']
    simp [h0, h.2 h0]

theorem blockCommands_eq {bs : List Byte} (h : ∀ e < 16, CommandFits bs e) : blockCommands bs = (List.range 16).map (commandOf bs) := by
  unfold blockCommands upTo
  rw [List.filterMap_congr (g := some ∘ commandOf bs) fun e he => commandAt_eq (h e (List.mem_range.mp he)), List.filterMap_eq_map]

/-- Entry `e` of the command table is used. -/
def usedCommand (bs : List Byte) (e : Nat) : Bool := decide (at1 bs (17 + 3 * e) ≠ 0)

theorem commandOf_used (bs : List Byte) {e : Nat} (h : CommandFits bs e) : ((commandOf bs e).cls != .none) = usedCommand bs e := by
  have hs := (ofCode_isSome (at1 bs (17 + 3 * e))).mpr h.1
  have hn := ofCode_none (at1 bs (17 + 3 * e))
  obtain ⟨c, hc⟩ := Option.isSome_iff_exists.mp hs
  unfold commandOf usedCommand
  rw [hc] at hn ⊢
  rw [Bool.eq_iff_iff, bne_iff_ne, decide_eq_true_eq]
  exact not_congr (Option.some_inj.symm.trans hn)

/-- Check 5: no code stands twice (R182). -/
theorem codes_iff {bs : List Byte} (h : ∀ e < 16, CommandFits bs e) :
    codesUnique (((blockCommands bs).filter fun e => e.cls != .none).map (·.code)) = true ↔
      ∀ e < 16, ∀ e' < 16, e ≠ e' → at1 bs (17 + 3 * e) ≠ 0 → at1 bs (17 + 3 * e') ≠ 0 →
        at1 bs (16 + 3 * e) ≠ at1 bs (16 + 3 * e') := by
  have hused : (List.range 16).filter ((fun e => e.cls != .none) ∘ commandOf bs) = (List.range 16).filter (usedCommand bs) :=
    List.filter_congr fun e he => commandOf_used bs (h e (List.mem_range.mp he))
  rw [blockCommands_eq h, List.filter_map, List.map_map, hused, codesUnique_picked]
  simp only [usedCommand, decide_eq_true_eq]
  rfl

/-- Check 6: the status bits are distinct (R182). -/
theorem bits_iff (bs : List Byte) : codesUnique [byteAt bs 5, byteAt bs 6, byteAt bs 7, byteAt bs 8] = true ↔
    ∀ k < 4, ∀ k' < 4, k ≠ k' → at1 bs (5 + k) ≠ at1 bs (5 + k') := by
  have h : [byteAt bs 5, byteAt bs 6, byteAt bs 7, byteAt bs 8] = ((List.range 4).filter fun _ => true).map fun k => byteAt bs (5 + k) := by
    rw [List.filter_true]
    rfl
  rw [h, codesUnique_picked]
  simp only [true_implies]
  rfl

/-! ## The region map -/

theorem kindOfCode_isSome (n : Nat) : (RegionKind.ofCode n).isSome = true ↔ n ≤ 3 := by
  unfold RegionKind.ofCode
  split <;> simp
  grind

theorem kindOfCode_pass (n : Nat) : RegionKind.ofCode n = some .pass ↔ n = 0 := by
  unfold RegionKind.ofCode
  split <;> simp
  omega

theorem code_kindOfCode {n : Nat} {k : RegionKind} (h : RegionKind.ofCode n = some k) : (RegionKind.code k).toNat = n := by
  unfold RegionKind.ofCode at h
  split at h <;> cases h <;> rfl

/-- Entry `r` of the region map of a block that passes, where it is used. -/
def regionOf (bs : List Byte) (r : Nat) : Region :=
  ⟨(RegionKind.ofCode (at1 bs (64 + 4 * r))).getD .pass, at2 bs (65 + 4 * r), at1 bs (67 + 4 * r)⟩

/-- Entry `r` of the region map passes check 4 (R182). -/
def RegionFits (bs : List Byte) (r : Nat) : Prop :=
  at1 bs (64 + 4 * r) ≤ 3 ∧ (at1 bs (64 + 4 * r) ≠ 0 → at2 bs (65 + 4 * r) ≤ 4095)

/-- Entry `r` of the region map is used. -/
def usedRegion (bs : List Byte) (r : Nat) : Bool := decide (at1 bs (64 + 4 * r) ≠ 0)

theorem regionAt_isSome (bs : List Byte) (r : Nat) : (regionAt bs r).isSome = true ↔ RegionFits bs r := by
  have hs := kindOfCode_isSome (at1 bs (64 + 4 * r))
  have hn := kindOfCode_pass (at1 bs (64 + 4 * r))
  unfold regionAt RegionFits
  rw [fieldOf_one, fieldOf_one, fieldOf_two]
  split
  · next h =>
    rw [h] at hs
    simp at hs ⊢
    omega
  · next h =>
    have h0 := hn.mp h
    simp [h0]
  · next c hc h =>
    have h0 : at1 bs (64 + 4 * r) ≠ 0 := fun h0 => hc (Option.some.inj (h.symm.trans (hn.mpr h0)))
    rw [h] at hs
    have hle := hs.mp rfl
    split <;> simp <;> omega

theorem regionAt_used {bs : List Byte} {r : Nat} (h : RegionFits bs r) :
    (regionAt bs r).filter (fun x => x.kind != .pass) = if usedRegion bs r then some (regionOf bs r) else none := by
  have hn := kindOfCode_pass (at1 bs (64 + 4 * r))
  have hx := (regionAt_isSome bs r).mpr h
  unfold regionAt at hx ⊢
  unfold regionOf usedRegion
  rw [fieldOf_one, fieldOf_one, fieldOf_two] at *
  split at hx
  · cases hx
  · next hc =>
    rw [hc]
    simp [hn.mp hc]
  · next c hc h' =>
    have h0 : at1 bs (64 + 4 * r) ≠ 0 := fun h0 => hc (Option.some.inj (h'.symm.trans (hn.mpr h0)))
    have hk : (c != .pass) = true := bne_iff_ne.mpr hc
    rw [h']
    simp [h0, h.2 h0, hk]

theorem blockRegions_eq {bs : List Byte} (h : ∀ r < 7, RegionFits bs r) :
    blockRegions bs = ((List.range 7).filter (usedRegion bs)).map (regionOf bs) := by
  unfold blockRegions upTo
  rw [List.filterMap_congr fun r hr => regionAt_used (h r (List.mem_range.mp hr)), ← List.filterMap_eq_map, List.filterMap_filter]
  rfl

theorem kind_regionOf {bs : List Byte} {r : Nat} (h : RegionFits bs r) :
    (RegionKind.code (regionOf bs r).kind).toNat = at1 bs (64 + 4 * r) := by
  obtain ⟨k, hk⟩ := Option.isSome_iff_exists.mp ((kindOfCode_isSome _).mpr h.1)
  unfold regionOf
  rw [hk]
  exact code_kindOfCode hk

theorem kindCode_inj {k k' : RegionKind} (h : (RegionKind.code k).toNat = (RegionKind.code k').toNat) : k = k' := by
  cases k <;> cases k' <;> simp_all [RegionKind.code]

/-- The used entries of one kind. -/
theorem regions_ofKind {bs : List Byte} (h : ∀ r < 7, RegionFits bs r) {k : RegionKind} {n : Nat} (hk : (RegionKind.code k).toNat = n)
    (hn : n ≠ 0) : (blockRegions bs).filter (fun x => x.kind == k)
      = ((List.range 7).filter fun r => at1 bs (64 + 4 * r) == n).map (regionOf bs) := by
  have hf : ∀ r ∈ List.range 7, ((((fun x => x.kind == k) ∘ regionOf bs) r) && usedRegion bs r) = (at1 bs (64 + 4 * r) == n) := by
    intro r hr
    have hr := kind_regionOf (h r (List.mem_range.mp hr))
    have hi : (regionOf bs r).kind = k ↔ at1 bs (64 + 4 * r) = n := by
      rw [← hr, ← hk]
      exact ⟨fun e => by rw [e], kindCode_inj⟩
    rw [Bool.eq_iff_iff, Bool.and_eq_true, beq_iff_eq, Function.comp_apply, beq_iff_eq, hi]
    unfold usedRegion
    rw [decide_eq_true_eq]
    exact and_iff_left_of_imp fun e => by rwa [e]
  rw [blockRegions_eq h, List.filter_map, List.filter_filter, List.filter_congr hf]

/-- The count of every used entry of one kind. -/
theorem counts_ofKind {bs : List Byte} (h : ∀ r < 7, RegionFits bs r) {k : RegionKind} {n : Nat} (hk : (RegionKind.code k).toNat = n)
    (hn : n ≠ 0) (p : Nat → Bool) : ((blockRegions bs).filter fun x => x.kind == k).all (fun x => p x.count) = true ↔
      ∀ r < 7, at1 bs (64 + 4 * r) = n → p (at1 bs (67 + 4 * r)) = true := by
  rw [regions_ofKind h hk hn, List.all_eq_true, forall_picked]
  simp only [beq_iff_eq]
  rfl

/-- Check 8: no two regions share a sector, and none shares the CONFIG sector (R183). -/
theorem apart_iff {bs : List Byte} (h : ∀ r < 7, RegionFits bs r) (c : Nat) :
    noOverlap (⟨.config, c, 1⟩ :: blockRegions bs) = true ↔
      (∀ r < 7, at1 bs (64 + 4 * r) ≠ 0 → at2 bs (65 + 4 * r) + at1 bs (67 + 4 * r) ≤ c ∨ c < at2 bs (65 + 4 * r))
        ∧ ∀ r < 7, ∀ r' < 7, r ≠ r' → at1 bs (64 + 4 * r) ≠ 0 → at1 bs (64 + 4 * r') ≠ 0 →
          at2 bs (65 + 4 * r) + at1 bs (67 + 4 * r) ≤ at2 bs (65 + 4 * r')
            ∨ at2 bs (65 + 4 * r') + at1 bs (67 + 4 * r') ≤ at2 bs (65 + 4 * r) := by
  rw [noOverlap_iff, blockRegions_eq h, List.pairwise_cons, forall_picked, pairwise_picked _ _ _ Apart fun a b hab => Or.symm hab]
  simp only [usedRegion, decide_eq_true_eq]
  refine and_congr (forall₂_congr fun r _ => imp_congr_right fun _ => ?_) Iff.rfl
  exact or_comm

/-- Check 8: every region lies in the memory (R183). -/
theorem memory_iff {bs : List Byte} (h : ∀ r < 7, RegionFits bs r) (c : Nat) :
    ((⟨.config, c, 1⟩ :: blockRegions bs).all fun r => decide ((r.base + r.count) * 4096 ≤ blockMemSize bs)) = true ↔
      (c + 1) * 4096 ≤ 1048576 * 2 ^ at1 bs 4
        ∧ ∀ r < 7, at1 bs (64 + 4 * r) ≠ 0 → (at2 bs (65 + 4 * r) + at1 bs (67 + 4 * r)) * 4096 ≤ 1048576 * 2 ^ at1 bs 4 := by
  rw [List.all_cons, Bool.and_eq_true, List.all_eq_true, blockRegions_eq h, forall_picked]
  simp only [usedRegion, decide_eq_true_eq, blockMemSize, fieldOf_one]
  rfl

/-! ## The block -/

/-- Check 4 (R181, R182). -/
theorem check4_iff (bs : List Byte) :
    (rangedFields.all (Field.ok bs) && ((upTo 16).all fun e => (commandAt bs e).isSome)
      && ((upTo 7).all fun r => (regionAt bs r).isSome)
      && decide (fieldOf bs 115 1 < fieldOf bs 116 1) && decide (fieldOf bs 128 2 < fieldOf bs 130 2)) = true ↔
    ((∀ x ∈ ranges1, x.2.1 ≤ at1 bs x.1 ∧ at1 bs x.1 ≤ x.2.2) ∧ ∀ x ∈ ranges2, x.2.1 ≤ at2 bs x.1 ∧ at2 bs x.1 ≤ x.2.2)
      ∧ (∀ e < 16, CommandFits bs e) ∧ (∀ r < 7, RegionFits bs r) ∧ at1 bs 115 < at1 bs 116 ∧ at2 bs 128 < at2 bs 130 := by
  rw [Bool.and_eq_true, Bool.and_eq_true, Bool.and_eq_true, Bool.and_eq_true, rangedFields_ok]
  simp only [upTo, List.all_eq_true, List.mem_range, commandAt_isSome, regionAt_isSome, decide_eq_true_eq, fieldOf_one, fieldOf_two,
    and_assoc]

/-- Check 7 (R183), of a block whose regions pass check 4. -/
theorem check7_iff {bs : List Byte} (h : ∀ r < 7, RegionFits bs r) :
    (decide (((blockRegions bs).filter fun r => r.kind == .journal).length = 1)
      && (((blockRegions bs).filter fun r => r.kind == .journal).all fun r => decide (2 ≤ r.count) && decide (r.count ≤ 8))
      && decide (((blockRegions bs).filter fun r => r.kind == .window).length = 1)
      && (((blockRegions bs).filter fun r => r.kind == .window).all fun r => r.count == 1)
      && decide (((blockRegions bs).filter fun r => r.kind == .guarded).length ≤ 5)
      && (((blockRegions bs).filter fun r => r.kind == .guarded).all fun r => decide (1 ≤ r.count))) = true ↔
    ((List.range 7).filter fun r => at1 bs (64 + 4 * r) == 1).length = 1
      ∧ ((List.range 7).filter fun r => at1 bs (64 + 4 * r) == 2).length = 1
      ∧ ((List.range 7).filter fun r => at1 bs (64 + 4 * r) == 3).length ≤ 5
      ∧ ∀ r < 7, (at1 bs (64 + 4 * r) = 1 → 2 ≤ at1 bs (67 + 4 * r) ∧ at1 bs (67 + 4 * r) ≤ 8)
        ∧ (at1 bs (64 + 4 * r) = 2 → at1 bs (67 + 4 * r) = 1) ∧ (at1 bs (64 + 4 * r) = 3 → 1 ≤ at1 bs (67 + 4 * r)) := by
  have hj := counts_ofKind h (k := .journal) (n := 1) rfl (by decide) fun n => decide (2 ≤ n) && decide (n ≤ 8)
  have hw := counts_ofKind h (k := .window) (n := 2) rfl (by decide) fun n => n == 1
  have hg := counts_ofKind h (k := .guarded) (n := 3) rfl (by decide) fun n => decide (1 ≤ n)
  have lj := congrArg List.length (regions_ofKind h (k := .journal) (n := 1) rfl (by decide))
  have lw := congrArg List.length (regions_ofKind h (k := .window) (n := 2) rfl (by decide))
  have lg := congrArg List.length (regions_ofKind h (k := .guarded) (n := 3) rfl (by decide))
  simp only [List.length_map] at lj lw lg
  simp only [Bool.and_eq_true, decide_eq_true_eq, beq_iff_eq] at hj hw hg ⊢
  rw [hj, hw, hg, lj, lw, lg]
  constructor
  · rintro ⟨⟨⟨⟨⟨h₁, c₁⟩, h₂⟩, c₂⟩, h₃⟩, c₃⟩
    exact ⟨h₁, h₂, h₃, fun r hr => ⟨c₁ r hr, c₂ r hr, c₃ r hr⟩⟩
  · rintro ⟨h₁, h₂, h₃, hc⟩
    exact ⟨⟨⟨⟨⟨h₁, fun r hr => (hc r hr).1⟩, h₂⟩, fun r hr => (hc r hr).2.1⟩, h₃⟩, fun r hr => (hc r hr).2.2⟩

theorem all_eight (a b c d e f g h : Bool) : [a, b, c, d, e, f, g, h].all id = true ↔
    a = true ∧ b = true ∧ c = true ∧ d = true ∧ e = true ∧ f = true ∧ g = true ∧ h = true := by
  simp only [List.all_cons, List.all_nil, id_eq, Bool.and_true, Bool.and_eq_true]

/-- The checks of R172 pass exactly on the blocks of `BlockPasses`. -/
theorem blockOk_iff (c : Nat) (bs : List Byte) : blockOk c bs = true ↔ BlockPasses c bs := by
  have htag : (byteAt bs 0 == 0xB2 && byteAt bs 1 == 0x44) = true ↔ at1 bs 0 = 0xB2 ∧ at1 bs 1 = 0x44 := by
    rw [Bool.and_eq_true, beq_byte, beq_byte, decide_eq_true_eq, decide_eq_true_eq]
    rfl
  have hversion : (byteAt bs 2 == 1) = true ↔ at1 bs 2 = 1 := by
    rw [beq_byte, decide_eq_true_eq]
    rfl
  have hcheck : halfOf (byteAt bs 254) (byteAt bs 255) = crc16 (bs.take 254) ↔ at2 bs 254 = (crc16 (bs.take 254)).toNat :=
    halfOf_eq_iff ..
  unfold blockOk blockChecks
  refine (all_eight ..).trans ?_
  rw [htag, hversion, decide_eq_true_eq, hcheck, check4_iff, bits_iff]
  constructor
  · rintro ⟨tag, version, check, ⟨fields, hcom, hreg, pairs⟩, codes, bits, h7, h8⟩
    obtain ⟨journal, window, guarded, counts⟩ := (check7_iff hreg).mp h7
    rw [Bool.and_eq_true, apart_iff hreg, memory_iff hreg] at h8
    obtain ⟨⟨config, apart⟩, memory⟩ := h8
    exact ⟨tag, version, check, fields, pairs, hcom, hreg, (codes_iff hcom).mp codes, bits, journal, window, guarded, counts, apart,
      config, memory⟩
  · rintro ⟨tag, version, check, fields, pairs, hcom, hreg, codes, bits, journal, window, guarded, counts, apart, config, memory⟩
    refine ⟨tag, version, check, ⟨fields, hcom, hreg, pairs⟩, (codes_iff hcom).mpr codes, bits,
      (check7_iff hreg).mpr ⟨journal, window, guarded, counts⟩, ?_⟩
    rw [Bool.and_eq_true, apart_iff hreg, memory_iff hreg]
    exact ⟨⟨config, apart⟩, memory⟩

/-- The configuration of a block that passes is the one that the block holds (10.3). -/
theorem holdsConfig_parseBlock {c : Nat} {bs : List Byte} (h : BlockPasses c bs) : HoldsConfig bs (parseBlock bs) where
  memory := ⟨fieldOf_one bs 3, congrArg (1048576 * 2 ^ ·) (fieldOf_one bs 4)⟩
  bits := ⟨fieldOf_one .., fieldOf_one .., fieldOf_one .., fieldOf_one ..⟩
  commands := by
    change (blockCommands bs).map _ = _
    rw [blockCommands_eq h.commands, List.map_map]
    refine List.map_congr_left fun e he => ?_
    obtain ⟨k, hk⟩ := Option.isSome_iff_exists.mp ((ofCode_isSome _).mpr (h.commands e (List.mem_range.mp he)).1)
    simp only [Function.comp_apply, commandOf, hk, Option.getD_some, code_ofCode hk]
    rfl
  regions := by
    change (blockRegions bs).map _ = _
    rw [blockRegions_eq h.kinds, List.map_map, List.filter_map]
    have hp : (fun x : Nat × Nat × Nat => x.1 != 0) ∘ (fun r => (at1 bs (64 + 4 * r), at2 bs (65 + 4 * r), at1 bs (67 + 4 * r)))
        = usedRegion bs := by
      funext r
      unfold usedRegion
      rw [Bool.eq_iff_iff, Function.comp_apply, bne_iff_ne, decide_eq_true_eq]
    rw [hp]
    refine List.map_congr_left fun r hr => ?_
    have hr := List.mem_range.mp (List.mem_filter.mp hr).1
    exact Prod.ext (kind_regionOf (h.kinds r hr)) rfl
  scan := ⟨congrArg _ (fieldOf_one ..), congrArg _ (fieldOf_one ..), congrArg _ (fieldOf_one ..), congrArg _ (fieldOf_one ..)⟩
  trips := ⟨fieldOf_two .., fieldOf_one .., fieldOf_two .., fieldOf_one .., fieldOf_two .., fieldOf_one .., fieldOf_two .., fieldOf_one ..⟩
  enables := ⟨rfl, rfl, rfl, rfl⟩
  options := ⟨rfl, rfl, rfl, rfl⟩
  switches := ⟨fieldOf_one .., fieldOf_one .., fieldOf_one .., fieldOf_one .., fieldOf_two .., fieldOf_two .., fieldOf_one ..,
    fieldOf_one .., fieldOf_one ..⟩
  search := ⟨fieldOf_two .., fieldOf_two .., fieldOf_one .., congrArg _ (fieldOf_one ..), fieldOf_one .., fieldOf_one ..⟩
  commits := ⟨fieldOf_one .., fieldOf_two ..⟩

end Sys2Proof.Claims

/-! What a conversion code gives (O41). -/

namespace Sys2Proof.Claims

open Sys2Proof Sys2Proof.Machine

/-- R24: a code that is not full scale is scaled, and the quotient rounded toward zero. -/
theorem currentOf_scaled {c : Int} (hl : -2047 ≤ c) (hu : c ≤ 2047) (iFs : Nat) : currentOf iFs c = Int.tdiv (c * iFs) 2048 := by
  unfold currentOf
  rw [if_neg (by omega), if_neg (by omega)]

theorem saturatedOf_scaled {c : Int} (hl : -2047 ≤ c) (hu : c ≤ 2047) : saturatedOf c = false := by
  unfold saturatedOf
  rw [decide_eq_false (by omega), decide_eq_false (by omega)]
  rfl

theorem natAbs_currentOf {c : Int} (hl : -2047 ≤ c) (hu : c ≤ 2047) (iFs : Nat) :
    (currentOf iFs c).natAbs = c.natAbs * iFs / 2048 := by
  rw [currentOf_scaled hl hu, Int.natAbs_tdiv, Int.natAbs_mul, Int.natAbs_natCast]
  rfl

theorem currentOf_nonneg {c : Int} (hc : 0 ≤ c) (hu : c ≤ 2047) (iFs : Nat) : 0 ≤ currentOf iFs c := by
  rw [currentOf_scaled (by omega) hu]
  exact Int.tdiv_nonneg (Int.mul_nonneg hc (Int.natCast_nonneg iFs)) (by decide)

theorem currentOf_nonpos {c : Int} (hl : -2047 ≤ c) (hc : c ≤ 0) (iFs : Nat) : currentOf iFs c ≤ 0 := by
  rw [currentOf_scaled hl (by omega)]
  have hneg : 0 ≤ -(c * iFs) := Int.neg_nonneg.mpr (Int.mul_nonpos_of_nonpos_of_nonneg hc (Int.natCast_nonneg iFs))
  have hquot : 0 ≤ Int.tdiv (-(c * iFs)) 2048 := Int.tdiv_nonneg hneg (by decide)
  rw [Int.neg_tdiv] at hquot
  exact Int.neg_nonneg.mp hquot

theorem currentOf_zero (iFs : Nat) : currentOf iFs 0 = 0 := by
  rw [currentOf_scaled (by decide) (by decide), Int.zero_mul]
  rfl

/-- R26: a code below full scale is scaled, and the quotient rounded down. -/
theorem voltageOf_scaled {k : Int} (hk : k ≤ 4094) (vFs : Nat) : voltageOf vFs k = k.toNat * vFs / 4096 := if_neg (by omega)

theorem voltageOf_full {k : Int} (hk : 4095 ≤ k) (vFs : Nat) : voltageOf vFs k = vFs := if_pos hk

theorem voltageOf_nonpos {k : Int} (hk : k ≤ 0) (vFs : Nat) : voltageOf vFs k = 0 := by
  rw [voltageOf_scaled (by omega), Int.toNat_of_nonpos hk, Nat.zero_mul, Nat.zero_div]

theorem voltageOf_le (vFs : Nat) (k : Int) : voltageOf vFs k ≤ vFs := by
  rcases Int.lt_or_le k 4095 with hk | hk
  · rw [voltageOf_scaled (by omega)]
    have hn : k.toNat ≤ 4096 := by omega
    exact Nat.div_le_of_le_mul (Nat.mul_le_mul_right vFs hn)
  · exact (voltageOf_full hk vFs).le

/-- Settles O41, by the two scalings and their full-scale codes. -/
theorem conversions : Obligations.Conversions := by
  refine ⟨fun iFs c hl hu => ?_, rfl, rfl, rfl, rfl, rfl, fun iFs => ⟨currentOf_zero iFs, rfl, rfl⟩,
    fun vFs k _ hk => voltageOf_scaled hk vFs, fun vFs => voltageOf_full (le_refl 4095) vFs,
    fun vFs k hk => voltageOf_nonpos hk vFs, voltageOf_le, rfl, rfl⟩
  exact ⟨saturatedOf_scaled hl hu, natAbs_currentOf hl hu iFs, fun hc => currentOf_nonneg hc hu iFs,
    fun hc => currentOf_nonpos hl hc iFs⟩

end Sys2Proof.Claims

/-! The median of the eligible currents (O43). -/

namespace Sys2Proof.Claims

open Sys2Proof Sys2Proof.Machine

section sorted
variable {xs : List Int} (hs : xs.Pairwise (· ≤ ·)) {k : Nat} (hk : k < xs.length)
include hs

/-- In a sorted list only entries before place `k` lie below the entry there. -/
theorem length_filter_lt_sorted : (xs.filter fun x => decide (x < xs[k])).length ≤ k := by
  have hrest : (xs.drop k).filter (fun x => decide (x < xs[k])) = [] := by
    refine List.filter_eq_nil_iff.mpr fun x hx => ?_
    rw [List.drop_eq_getElem_cons hk] at hx
    have hle : xs[k] ≤ x := by
      rcases List.mem_cons.mp hx with rfl | hx
      · exact le_refl _
      · have hp := hs.drop (i := k)
        rw [List.drop_eq_getElem_cons hk] at hp
        exact List.rel_of_pairwise_cons hp hx
    simpa using hle
  calc (xs.filter fun x => decide (x < xs[k])).length
      = (((xs.take k) ++ xs.drop k).filter fun x => decide (x < xs[k])).length := by rw [List.take_append_drop]
    _ = ((xs.take k).filter fun x => decide (x < xs[k])).length := by rw [List.filter_append, hrest, List.append_nil]
    _ ≤ (xs.take k).length := List.length_filter_le _ _
    _ ≤ k := List.length_take_le k xs

/-- In a sorted list the entries up to place `k` do not lie above the entry there. -/
theorem lt_length_filter_le_sorted : k < (xs.filter fun x => decide (x ≤ xs[k])).length := by
  have hall : (xs.take (k + 1)).filter (fun x => decide (x ≤ xs[k])) = xs.take (k + 1) := by
    refine List.filter_eq_self.mpr fun x hx => ?_
    have hp := hs.take (i := k + 1)
    rw [List.take_succ_eq_append_getElem hk] at hx hp
    rcases List.mem_append.mp hx with hx | hx
    · exact decide_eq_true ((List.pairwise_append.mp hp).2.2 x hx _ List.mem_cons_self)
    · rw [List.mem_singleton.mp hx]
      exact decide_eq_true (le_refl _)
  have hsub := (List.take_sublist (k + 1) xs).filter fun x => decide (x ≤ xs[k])
  have hlen := hsub.length_le
  rw [hall, List.length_take_of_le hk] at hlen
  exact hlen

end sorted

/-- R29: three or more currents have a median, the entry of the sorted list at the lower middle place. -/
theorem medianOf_sorted {xs : List Int} (h : 3 ≤ xs.length) :
    ∃ hk : (xs.length - 1) / 2 < (xs.insertionSort (· ≤ ·)).length,
      medianOf xs = some (xs.insertionSort (· ≤ ·))[(xs.length - 1) / 2] := by
  have hk : (xs.length - 1) / 2 < (xs.insertionSort (· ≤ ·)).length := by
    rw [List.length_insertionSort]
    omega
  exact ⟨hk, (if_pos h).trans (List.getElem?_eq_getElem hk)⟩

/-- Settles O43: sorting keeps the number of currents below the median and the number of those not above it. -/
theorem medianIsLowerMiddle : Obligations.MedianIsLowerMiddle := by
  intro xs
  refine ⟨fun h => if_neg (Nat.not_le.mpr h), fun h => ?_⟩
  obtain ⟨hk, hm⟩ := medianOf_sorted h
  have hperm := List.perm_insertionSort (· ≤ ·) xs
  have hsorted := List.pairwise_insertionSort (· ≤ ·) xs
  refine ⟨_, hperm.mem_iff.mp (List.getElem_mem hk), hm, ?_, ?_⟩
  · rw [← (hperm.filter _).length_eq]
    exact length_filter_lt_sorted hsorted hk
  · rw [← (hperm.filter _).length_eq]
    exact lt_length_filter_le_sorted hsorted hk

end Sys2Proof.Claims

/-! What SCAN_START and SCAN_COMPLETION do to the state, and what the work of a completion leaves alone (O42). -/

namespace Sys2Proof.Claims

open Sys2Proof Sys2Proof.Machine

/-! ## SCAN_START -/

/-- R22: the start of a scan, in the numbers of the manual. -/
theorem startScan_eq (s : State) : startScan s =
    { s with
      scan := { s.scan with
        timer := some (s.now + s.cfg.tScan * 1000)
        job := some ⟨s.now, s.now + s.cfg.tScan * 1000 * 4 / 5, s.cfg.stringCount, s.cfg.iFs, s.cfg.vFs⟩ } } := by
  have hfifths : s.cfg.tScan * 1000 * 4 / 5 = s.cfg.tScan * 800 := by omega
  have hdone : s.now + s.cfg.tScan * 1000 * 4 / 5 = s.now + s.cfg.tScan * 800 := congrArg (s.now + ·) hfifths
  rw [hdone]
  rfl

theorem exec_scanStart {s : State} {dt x : Nat} (ht : s.scan.timer = some x) (hx : x ≤ s.now + dt) (hj : s.scan.job = none) :
    exec (.scanStart dt) s = .next (startScan (s.advance dt)) := by
  have hd : (due s.scan.timer (s.now + dt) && s.scan.job.isNone) = true := by
    rw [ht, hj]
    exact Bool.and_eq_true_iff.mpr ⟨decide_eq_true hx, rfl⟩
  change execScanStart dt s = _
  unfold execScanStart
  exact congrArg Host.Outcome.next (if_pos hd)

/-! ## The work of the switches at a completion -/

/-- `t` differs from `s` at most in the evidence, the sequencers and the insulation measurement in progress. -/
def Switches (s t : State) : Prop :=
  ∃ (e : Vector Evidence 24) (q : Vector Seq 24) (j : Option IsoJob), t = { s with evid := e, seqs := q, iso := { s.iso with job := j } }

theorem Switches.refl (s : State) : Switches s s := ⟨_, _, _, rfl⟩

theorem Switches.trans {a b c : State} (h : Switches a b) (k : Switches b c) : Switches a c := by
  obtain ⟨_, _, _, rfl⟩ := h
  obtain ⟨_, _, _, rfl⟩ := k
  exact ⟨_, _, _, rfl⟩

theorem Switches.foldl {α : Type} (f : State → α → State) (h : ∀ s a, Switches s (f s a)) (xs : List α) (s : State) :
    Switches s (xs.foldl f s) := by
  induction xs generalizing s with
  | nil => exact .refl s
  | cons x xs ih => exact (h s x).trans (ih (f s x))

theorem switches_setSeq (s : State) (i : Str) (q : Seq) : Switches s (s.setSeq i q) := ⟨_, _, _, rfl⟩

theorem switches_setEvid (s : State) (i : Str) (e : Evidence) : Switches s (s.setEvid i e) := ⟨_, _, _, rfl⟩

theorem switches_actuate (s : State) (i : Str) (q : Seq) : Switches s (s.actuate i q) := ⟨_, _, _, rfl⟩

theorem switches_evaluateAll (s : State) : Switches s (evaluateAll s) := by
  unfold evaluateAll
  exact ⟨_, _, _, rfl⟩

theorem switches_failSwitch (s : State) (i : Str) : Switches s (failSwitch s i) := by
  unfold failSwitch
  simp only
  split
  · exact (switches_actuate s _ _).trans (switches_setEvid _ _ _)
  · exact (switches_setSeq s _ _).trans (switches_setEvid _ _ _)

theorem switches_scanString (start : Nat) (s : State) (i : Str) : Switches s (scanString start s i) := by
  unfold scanString
  simp only
  split
  · split
    · exact switches_setSeq ..
    · exact (switches_setSeq s _ _).trans (switches_setEvid _ _ _)
    · exact (switches_setSeq s _ _).trans (switches_setEvid _ _ _)
    · exact (switches_setSeq s _ _).trans (switches_failSwitch _ _)
  · exact .refl s

/-! ## SCAN_COMPLETION -/

/-- Evidence and switches work on the records that a completion has written; nothing but the found mark moves beside them. -/
theorem completeScan_eq (s : State) (job : ScanJob) (samples : Vector Sample 24) (bus : Int) :
    ∃ t, Switches (writeRecords s job samples bus) t
      ∧ completeScan s job samples bus = { t with scan := { t.scan with found := true } } :=
  ⟨_, (switches_evaluateAll _).trans (Switches.foldl _ (switches_scanString job.start) allStrings _), rfl⟩

theorem exec_scanCompletion {s : State} {dt : Nat} {job : ScanJob} (h : ScanDue s dt job) (samples : Vector Sample 24) (bus : Int) :
    exec (.scanCompletion dt samples bus) s = .next (finish (s.advance dt) (completeScan (s.advance dt) job samples bus)) := by
  obtain ⟨hjob, hdue⟩ := h
  change execScanCompletion dt samples bus s = _
  unfold execScanCompletion
  simp only [advance_scan, hjob]
  exact congrArg Host.Outcome.next (if_pos hdue)

/-- R24 to R28: the records of the strings present and converted are written, and no others. -/
theorem writeRecords_meas (s : State) (job : ScanJob) (samples : Vector Sample 24) (bus : Int) (i : Str) :
    (writeRecords s job samples bus).meas[i] =
      if i.val < s.cfg.stringCount ∧ i.val < job.count then measure job (s.scan.number + 1) samples[i] else s.meas[i] := by
  have hget : (writeRecords s job samples bus).meas[i] =
      if isPresent s i && decide (i.val < job.count) then measure job (s.scan.number + 1) samples[i] else s.meas[i] :=
    mapAll_get _ s.meas i
  rw [hget]
  exact if_congr (by rw [Bool.and_eq_true, isPresent_iff, decide_eq_true_eq]) rfl rfl

/-- R28, R29: the box record of a completion, and the median of the eligible strings. -/
theorem writeRecords_scan (s : State) (job : ScanJob) (samples : Vector Sample 24) (bus : Int) :
    (writeRecords s job samples bus).scan = { s.scan with
      job := none, number := s.scan.number + 1, boxValid := true, boxScan := s.scan.number + 1, bus := voltageOf job.vFs bus
      median := medianOf (eligibleCurrents s (writeRecords s job samples bus).meas) } := rfl

/-- What stands at the end of a completion of the state `w` of which the records have been written, whatever evidence and switches do. -/
structure ScanCompleted (w u : State) : Prop where
  meas    : u.meas = w.meas
  scan    : u.scan = { w.scan with found := true }
  bus     : SameBus w u
  journal : SameJournal w u
  inputs  : u.inputs = w.inputs
  lines   : u.lines = w.lines
  value   : u.iso.value = w.iso.value
  status  : u.iso.status = w.iso.status
  fault   : u.iso.fault = w.iso.fault

theorem finish_scanCompleted (s₀ s : State) (job : ScanJob) (samples : Vector Sample 24) (bus : Int) :
    ScanCompleted (writeRecords s job samples bus) (finish s₀ (completeScan s job samples bus)) := by
  obtain ⟨t, hw, hs⟩ := completeScan_eq s job samples bus
  have hc := carries_finish s₀ (completeScan s job samples bus)
  generalize finish s₀ (completeScan s job samples bus) = u at hc ⊢
  rw [hs] at hc
  generalize writeRecords s job samples bus = w at hw ⊢
  obtain ⟨_, _, _, rfl⟩ := hw
  have hbus := Carries.sameBus hc
  have hjournal := Carries.sameJournal hc
  exact ⟨hc.meas, hc.scan, hbus, hjournal, hc.inputs, hc.lines, hc.isoValue, hc.isoStatus, hc.isoFault⟩

/-- Settles O42: a completion writes the records, and what evidence, switches and the end of the event do moves none of them. -/
theorem scansStartAndComplete : Obligations.ScansStartAndComplete := by
  refine ⟨fun dt s x ht hx hj => ?_, fun dt samples bus s job hdue => ?_⟩
  · rw [exec_scanStart ht hx hj, startScan_eq]
    rfl
  · refine ⟨_, exec_scanCompletion hdue samples bus, ?_⟩
    have hdone := finish_scanCompleted (s.advance dt) (s.advance dt) job samples bus
    generalize finish (s.advance dt) (completeScan (s.advance dt) job samples bus) = u at hdone ⊢
    obtain ⟨hmeas, hscan, hbus, hjournal, hinputs, hlines, hvalue, hstatus, hfault⟩ := hdone
    refine ⟨fun i hp hn => ?_, fun i hi => ?_, ?_, hbus, hjournal, hinputs, hlines, hvalue, hstatus, hfault⟩
    · rw [hmeas, writeRecords_meas]
      exact if_pos ⟨hp, hn⟩
    · rw [hmeas, writeRecords_meas]
      refine if_neg fun ⟨hp, hn⟩ => ?_
      rcases hi with hi | hi
      · exact absurd hp (Nat.not_lt.mpr hi)
      · exact absurd hn (Nat.not_lt.mpr hi)
    · rw [hscan, hmeas, writeRecords_scan]
      rfl

end Sys2Proof.Claims

/-! The end of an insulation measurement: its result, the next measurement, and what the search unit makes of it (O47). -/

namespace Sys2Proof.Machine

open Sys2Proof.Claims (disturbed)

/-! ## What the search unit leaves alone -/

/-- `t` has the sequencers and the insulation monitor of `s`: the search unit works through roles, latches and its own state. -/
structure Unmoved (s t : State) : Prop where
  seqs : t.seqs = s.seqs
  iso  : t.iso = s.iso

theorem Unmoved.refl (s : State) : Unmoved s s := ⟨rfl, rfl⟩

theorem Unmoved.trans {a b c : State} (h : Unmoved a b) (k : Unmoved b c) : Unmoved a c :=
  ⟨k.seqs.trans h.seqs, k.iso.trans h.iso⟩

theorem unmoved_search (s : State) (x : Search) : Unmoved s { s with search := x } := ⟨rfl, rfl⟩

theorem unmoved_table (s : State) (v : Vector Entry 24) : Unmoved s { s with table := v } := ⟨rfl, rfl⟩

theorem unmoved_latch (s : State) (i : Str) (c : Cause) : Unmoved s (s.latch i c) := ⟨rfl, rfl⟩

theorem unmoved_setRoles (s : State) (held suspect : List Str) : Unmoved s (setRoles s held suspect) := unmoved_table s _

theorem unmoved_endSearch (s : State) (r : SearchResult) (f : Option Str) : Unmoved s (endSearch s r f) :=
  ⟨endSearch_seqs s r f, (endSearch_leaves s r f).2⟩

theorem unmoved_nextTest (s : State) (xs : List Str) : Unmoved s (nextTest s xs) := ⟨nextTest_seqs s xs, (nextTest_leaves s xs).2⟩

theorem unmoved_enterSweep (s : State) : Unmoved s (enterSweep s) := by
  unfold enterSweep
  simp only
  split
  · exact unmoved_endSearch ..
  · exact (unmoved_setRoles s _ _).trans (unmoved_search _ _)

theorem unmoved_notConfirmed (s : State) : Unmoved s (notConfirmed s) := by
  unfold notConfirmed
  split
  · exact unmoved_enterSweep s
  · exact unmoved_endSearch ..

theorem unmoved_beginStep (s : State) (xs : List Str) : Unmoved s (beginStep s xs) := by
  unfold beginStep
  split
  · exact (unmoved_search s _).trans (unmoved_notConfirmed _)
  · exact (unmoved_setRoles s _ _).trans (unmoved_search _ _)
  · exact (unmoved_setRoles s _ _).trans (unmoved_search _ _)

theorem unmoved_takeOvertaken (s : State) (gone : List Str) : Unmoved s (takeOvertaken s gone) := by
  have hroles := unmoved_table s (mapAll (fun i e => if gone.contains i then { e with role := .none } else e) s.table)
  refine hroles.trans ?_
  unfold takeOvertaken
  simp only
  split
  · exact .refl _
  · split
    · exact unmoved_endSearch ..
    · exact unmoved_search ..
  · exact unmoved_beginStep ..
  · exact (unmoved_search _ _).trans (unmoved_notConfirmed _)
  · split
    · split
      · exact (unmoved_search _ _).trans (unmoved_nextTest _ _)
      · exact unmoved_search ..
    · split
      · exact (unmoved_search _ _).trans (unmoved_endSearch _ _ _)
      · exact unmoved_search ..

theorem unmoved_searchReact (s₀ s₁ : State) : Unmoved s₁ (searchReact s₀ s₁) := by
  unfold searchReact
  simp only
  repeat' split
  · exact .refl _
  · exact unmoved_endSearch ..
  · exact unmoved_endSearch ..
  · exact unmoved_endSearch ..
  · exact .refl _
  · exact unmoved_takeOvertaken ..

theorem unmoved_endFound (s : State) (i : Str) : Unmoved s (endFound s i) := (unmoved_latch s i _).trans (unmoved_endSearch _ _ _)

theorem unmoved_judgeValue (s : State) (v : Nat) : Unmoved s (judgeValue s v) := by
  unfold judgeValue
  simp only
  split
  · exact .refl s
  · split
    · exact unmoved_endSearch ..
    · exact unmoved_beginStep ..
  · repeat' split
    · exact unmoved_endFound ..
    · exact unmoved_beginStep ..
    · exact unmoved_beginStep ..
  · repeat' split
    · exact unmoved_endFound ..
    · exact unmoved_notConfirmed _
    · exact unmoved_notConfirmed _
  · split
    · exact .refl s
    · refine Unmoved.trans ?_ (unmoved_nextTest _ _)
      split
      · exact (unmoved_latch s _ _).trans (unmoved_search _ _)
      · exact .refl s

theorem unmoved_judgeCompletion (s : State) : Unmoved s (judgeCompletion s) := by
  unfold judgeCompletion
  repeat' split
  · exact unmoved_endSearch ..
  · exact .refl s
  · exact unmoved_endSearch ..
  · exact unmoved_search ..
  · exact .refl s
  · exact unmoved_judgeValue ..
  · exact .refl s

theorem unmoved_startSearch (s : State) : Unmoved s (startSearch s) := by
  have hstarted := unmoved_setRoles s [] (closedStrings s)
  unfold startSearch
  simp only
  split
  · exact hstarted.trans ((unmoved_search _ _).trans (unmoved_endSearch _ _ _))
  · exact hstarted.trans (unmoved_search _ _)

theorem unmoved_recovered (s : State) : Unmoved s (recovered s) := by
  unfold recovered
  split
  · exact unmoved_search ..
  · exact .refl s

theorem unmoved_searchOnCompletion (s : State) : Unmoved s (searchOnCompletion s) := by
  refine (unmoved_recovered s).trans ?_
  unfold searchOnCompletion
  simp only
  split
  · have htrigger : Unmoved (recovered s) (updateTrigger (recovered s)) := unmoved_search ..
    split
    · exact htrigger.trans (unmoved_startSearch _)
    · exact htrigger
  · exact unmoved_judgeCompletion _

/-! ## The measurement in progress through the end of an event -/

/-- The monitor stands at `x`, or its measurement has been disturbed since, which takes `d` or an actuation under way (R34, R76). -/
def IsoFollows (x : Iso) (d : Prop) (s : State) : Prop :=
  s.iso = x ∨ s.iso = disturbed x ∧ (d ∨ ∃ i : Str, s.seqs[i].act.isSome = true)

theorem disturbed_disturbed (x : Iso) : disturbed (disturbed x) = disturbed x := by
  unfold disturbed
  rw [Option.map_map]
  rfl

section follows
variable {x : Iso} {d : Prop} {s : State} (h : IsoFollows x d s)
include h

theorem IsoFollows.congr {t : State} (hi : t.iso = s.iso) (hq : ∀ i : Str, t.seqs[i] = s.seqs[i]) : IsoFollows x d t := by
  unfold IsoFollows
  simp only [hi, hq]
  exact h

theorem IsoFollows.disturb_iso : s.disturb.iso = disturbed x := by
  change disturbed s.iso = _
  rcases h with h | ⟨h, _⟩
  · rw [h]
  · rw [h, disturbed_disturbed]

theorem IsoFollows.giveGrant (i : Str) (c : Coil) : IsoFollows x d (giveGrant s i c) :=
  .inr ⟨h.disturb_iso, .inr ⟨i, by rw [giveGrant_seq_self]; rfl⟩⟩

theorem IsoFollows.applyPendingK : IsoFollows x d (applyPendingK s) := by
  unfold Machine.applyPendingK
  repeat' split
  all_goals exact h

theorem IsoFollows.request (i : Str) : IsoFollows x d (request s i) := by
  unfold Machine.request
  split
  · exact h
  · split
    · split
      · exact h.giveGrant ..
      · exact h
    · exact h

theorem IsoFollows.requestAll : IsoFollows x d (requestAll s) := by
  unfold Machine.requestAll
  induction allStrings generalizing s with
  | nil => exact h
  | cons i is ih => exact ih (h.request i)

theorem IsoFollows.grantHeads (n : Nat) : IsoFollows x d (grantHeads n s) := by
  induction n generalizing s with
  | zero => exact h
  | succ n ih =>
    unfold Machine.grantHeads
    split
    · exact h
    · next e rest _ =>
      split
      · have hpopped : IsoFollows x d { s with arb := { s.arb with queue := rest } } := h
        exact ih (hpopped.giveGrant ..)
      · exact h

theorem IsoFollows.arbitrate : IsoFollows x d (arbitrate s) := by
  have hw : IsoFollows x d (withdraw s) := h
  unfold Machine.arbitrate
  exact (hw.applyPendingK.requestAll).grantHeads _

end follows

/-- Targets that are taken disturb the measurement exactly where they cut a bypass short (R34, R62). -/
theorem reconcile_iso (s : State) :
    (reconcile s).iso = disturbed s.iso ∧ (∃ i : Str, bypassDropped s.seqs[i] (reconcile s).seqs[i] = true)
      ∨ (reconcile s).iso = s.iso ∧ ∀ i : Str, bypassDropped s.seqs[i] (reconcile s).seqs[i] = false := by
  unfold reconcile
  simp only
  split
  · next hd =>
    obtain ⟨i, _, hi⟩ := List.any_eq_true.mp hd
    exact .inl ⟨rfl, i, hi⟩
  · next hd =>
    refine .inr ⟨rfl, fun i => ?_⟩
    have hi := List.any_eq_false.mp (Bool.eq_false_iff.mpr hd) i (List.mem_finRange i)
    exact Bool.eq_false_iff.mpr hi

theorem bypassDropped_self (q : Seq) : bypassDropped q q = false := by
  unfold bypassDropped
  cases q.act <;> rfl

/-- A bypass that stood and has not been dropped stands. -/
theorem act_of_not_dropped {q q' : Seq} (ha : q.act.isSome = true) (hd : bypassDropped q q' = false) : q'.act.isSome = true := by
  unfold bypassDropped at hd
  rw [ha] at hd
  cases hq : q'.act with
  | none => rw [hq] at hd; cases hd
  | some a => rfl

/-- R62: a target cuts a bypass short in CLOSING alone. -/
theorem takeTarget_drops {q : Seq} {t : Target} {now : Nat} (h : bypassDropped q (q.takeTarget t now) = true) : q.state = .closing := by
  by_contra hs
  have hact : (q.takeTarget t now).act = q.act := by
    unfold Seq.takeTarget
    split
    case h_4 hclosing => exact absurd hclosing hs
    all_goals rfl
  have hself := bypassDropped_self q
  unfold bypassDropped at h hself
  rw [hact, hself] at h
  cases h

theorem IsoFollows.reconcile {x : Iso} {d : Prop} {s : State} (h : IsoFollows x d s)
    (hd : ∀ i : Str, bypassDropped s.seqs[i] (reconcile s).seqs[i] = true → d) : IsoFollows x d (reconcile s) := by
  rcases reconcile_iso s with ⟨hi, i, hdrop⟩ | ⟨hi, hkeep⟩
  · exact .inr ⟨hi.trans h.disturb_iso, .inl (hd i hdrop)⟩
  · rcases h with h | ⟨h, hdrive⟩
    · exact .inl (hi.trans h)
    · exact .inr ⟨hi.trans h, hdrive.imp_right fun ⟨i, ha⟩ => ⟨i, act_of_not_dropped ha (hkeep i)⟩⟩

theorem IsoFollows.carryOut {x : Iso} {d : Prop} {s : State} (h : IsoFollows x d s)
    (hd : ∀ i : Str, bypassDropped (recompute s).seqs[i] (Machine.reconcile (recompute s)).seqs[i] = true → d) :
    IsoFollows x d (carryOut s) := by
  have hr : IsoFollows x d (recompute s) := h.congr (by simp only [recompute]) fun i => by rw [recompute_seqs]
  unfold Machine.carryOut
  exact (hr.reconcile hd).arbitrate

/-- R88: no present switch is closing where the switch wait holds. -/
theorem not_closing_of_switchWaitHolds {s : State} (h : switchWaitHolds s = true) {i : Str} (hp : isPresent s i = true) :
    s.seqs[i].state ≠ .closing := by
  intro hc
  have hi := List.all_eq_true.mp h i (List.mem_finRange i)
  rw [hp, hc] at hi
  simp at hi

theorem judgeSwitchWait_of_not {s : State} (h : switchWaitHolds s = false) : judgeSwitchWait s = s := by
  unfold judgeSwitchWait
  rw [h]
  rfl

/-- Targets that move when the switch wait is judged cut no bypass short: where it holds no switch is closing, and where it does not hold
no target moves (R88, R97). -/
theorem judged_keeps_bypass (s : State) (i : Str) :
    bypassDropped (recompute (judgeSwitchWait (carryOut s))).seqs[i]
      (reconcile (recompute (judgeSwitchWait (carryOut s)))).seqs[i] = false := by
  have ha := carryOut_agrees s
  have ht := carryOut_targetsTaken s
  generalize carryOut s = m at ha ht ⊢
  cases hw : switchWaitHolds m with
  | false =>
    rw [judgeSwitchWait_of_not hw, reconcile_again ha ht, recompute_seqs]
    exact bypassDropped_self _
  | true =>
    have hseq : (recompute (judgeSwitchWait m)).seqs = m.seqs := by rw [recompute_seqs, judgeSwitchWait_seqs]
    have hpres : isPresent (recompute (judgeSwitchWait m)) i = isPresent m i :=
      isPresent_congr ((carries_judgeSwitchWait m).trans (carries_recompute _)).cfg i
    rw [reconcile_seq, hpres, hseq]
    split
    · next hp =>
      exact Bool.eq_false_iff.mpr fun hd => not_closing_of_switchWaitHolds hw hp (takeTarget_drops hd)
    · exact bypassDropped_self _

/-- R34: the end of an event disturbs the measurement in progress only where an actuation was under way before, or is after. -/
theorem finish_iso (s₀ s₁ : State) : IsoFollows s₁.iso (∃ i : Str, s₁.seqs[i].act.isSome = true) (finish s₀ s₁) := by
  have hreact := unmoved_searchReact s₀ s₁
  have hseqs : (recompute (searchReact s₀ s₁)).seqs = s₁.seqs := by rw [recompute_seqs, hreact.seqs]
  have h₁ : IsoFollows s₁.iso (∃ i : Str, s₁.seqs[i].act.isSome = true) (carryOut (searchReact s₀ s₁)) := by
    refine IsoFollows.carryOut (.inl hreact.iso) fun i hd => ⟨i, ?_⟩
    rw [hseqs] at hd
    exact (Bool.and_eq_true_iff.mp hd).1
  have h₂ := h₁.congr (judgeSwitchWait_leaves _).2 fun i => by rw [judgeSwitchWait_seqs]
  have h₃ := h₂.carryOut fun i hd => absurd hd (by rw [judged_keeps_bypass]; simp)
  unfold finish
  exact h₃.congr (refreshPins_iso _) fun i => by rw [refreshPins_seqs]

/-! ## A search that is over -/

/-- A phase IDLE stands through the end of an event. -/
theorem finish_idle {s₀ s₁ : State} (h : s₁.search.phase = .idle) : (finish s₀ s₁).search.phase = .idle := by
  have hreact : searchReact s₀ s₁ = s₁ := if_pos h
  have hcarried : (carryOut s₁).search.phase = .idle := by rw [carryOut_search, h]
  rw [finish_search, hreact]
  generalize carryOut s₁ = m at hcarried ⊢
  unfold judgeSwitchWait
  split
  · split
    · split
      · exact hcarried
      · exact hcarried
    · unfold nextTest
      split
      · split <;> rfl
      · exact hcarried
    all_goals exact hcarried
  · exact hcarried

theorem recovered_phase (s : State) : (recovered s).search.phase = s.search.phase := by
  unfold recovered
  split <;> rfl

theorem recovered_stage (s : State) : (recovered s).search.stage = s.search.stage := by
  unfold recovered
  split <;> rfl

/-- R84, R99: an INVALID result starts no search and ends one that is active. -/
theorem searchOnCompletion_invalid {s : State} (hs : s.iso.status = .invalid) (hf : s.iso.fault = true) :
    (searchOnCompletion s).search.phase = .idle := by
  have hiso := (unmoved_recovered s).iso
  unfold searchOnCompletion
  simp only
  split
  · next hp =>
    have hno : searchTriggered (updateTrigger (recovered s)) = false := by
      have hfault : (updateTrigger (recovered s)).iso.fault = true := by
        change (recovered s).iso.fault = true
        rw [hiso, hf]
      unfold searchTriggered
      rw [hfault]
      exact Bool.and_false _
    rw [hno]
    exact hp
  · unfold judgeCompletion
    rw [hiso, hs]
    rfl

/-- R165, R166: MONITOR_FAULT is an attention reason. -/
theorem attentionReasons_of_fault {s : State} (h : s.iso.fault = true) : attentionReasons s ≠ 0 := by
  intro hz
  have hbit := congrArg (fun w : Half => w.getLsbD 8) hz
  unfold attentionReasons at hbit
  rw [h] at hbit
  simp [reasonBit] at hbit

/-! ## The hold stage that a completion begins -/

open Sys2Proof.Claims (SweepBegins notConfirmed_hold beginStep_hold searchReact_hold endSearch_stage NoTestStarts)

/-- The stage is a hold that a sweep has just begun, with no string under test yet (R96). -/
structure SweepEntered (s : State) : Prop where
  begins   : SweepBegins s
  untested : s.search.underTest = none

theorem notConfirmed_untested (s : State) : (notConfirmed s).search.underTest = none := by
  unfold notConfirmed enterSweep
  simp only
  split
  · split <;> rfl
  · rfl

theorem notConfirmed_entered {s : State} (h : (notConfirmed s).search.stage = .hold) : SweepEntered (notConfirmed s) :=
  ⟨notConfirmed_hold h, notConfirmed_untested s⟩

theorem beginStep_entered {s : State} {suspects : List Str} (h : (beginStep s suspects).search.stage = .hold) :
    SweepEntered (beginStep s suspects) := by
  refine ⟨beginStep_hold h, ?_⟩
  unfold beginStep at h ⊢
  split at h
  · exact notConfirmed_untested _
  · cases h
  · cases h

/-- A hold stage that the judgement of a value leaves has been begun by it, out of another phase than SWEEP (R95, R96). -/
theorem judgeValue_entered {s : State} {v : Nat} (hs : s.search.stage ≠ .hold) (h : (judgeValue s v).search.stage = .hold) :
    s.search.phase ≠ .sweep ∧ SweepEntered (judgeValue s v) := by
  unfold judgeValue at h ⊢
  cases hp : s.search.phase with
  | idle => simp only [hp] at h; exact absurd h hs
  | baseline =>
    simp only [hp] at h ⊢
    refine ⟨by simp, ?_⟩
    split at h
    · cases h
    · next hv =>
      rw [if_neg hv]
      exact beginStep_entered h
  | halving =>
    simp only [hp] at h ⊢
    refine ⟨by simp, ?_⟩
    split at h
    · next hv =>
      rw [if_pos hv]
      split at h
      · cases h
      · exact beginStep_entered h
    · next hv =>
      rw [if_neg hv]
      exact beginStep_entered h
  | confirm =>
    simp only [hp] at h ⊢
    refine ⟨by simp, ?_⟩
    split at h
    · split at h
      · cases h
      · next hv =>
        rw [if_neg hv]
        exact notConfirmed_entered h
    · exact notConfirmed_entered h
  | sweep =>
    simp only [hp] at h
    split at h
    · exact absurd h hs
    · exact absurd h (nextTest_stage _ _)

theorem judgeCompletion_entered {s : State} (hs : s.search.stage ≠ .hold) (h : (judgeCompletion s).search.stage = .hold) :
    s.search.phase ≠ .sweep ∧ SweepEntered (judgeCompletion s) := by
  unfold judgeCompletion at h ⊢
  cases hi : s.iso.status with
  | invalid => simp only [hi] at h; cases h
  | none => simp only [hi] at h; exact absurd h hs
  | disturbed =>
    simp only [hi] at h
    split at h
    · split at h
      · cases h
      · exact absurd h hs
    · exact absurd h hs
  | valid =>
    simp only [hi] at h ⊢
    split at h
    · next hm =>
      rw [if_pos hm]
      exact judgeValue_entered hs h
    · exact absurd h hs

theorem startSearch_stage (s : State) : (startSearch s).search.stage ≠ .hold := by
  unfold startSearch
  simp only
  split
  · rw [endSearch_stage]
    nofun
  · nofun

/-- A hold stage after a completion has been begun by it, out of another phase than SWEEP. -/
theorem searchOnCompletion_entered {s : State} (hs : s.search.stage ≠ .hold) (h : (searchOnCompletion s).search.stage = .hold) :
    s.search.phase ≠ .sweep ∧ SweepEntered (searchOnCompletion s) := by
  have hs : (recovered s).search.stage ≠ .hold := by rwa [recovered_stage]
  rw [← recovered_phase]
  unfold searchOnCompletion at h ⊢
  simp only at h ⊢
  split at h
  · split at h
    · exact absurd h (startSearch_stage _)
    · exact absurd h hs
  · next hp =>
    rw [if_neg hp]
    exact judgeCompletion_entered hs h

theorem nextTest_sweep {s : State} (h : s.search.phase = .sweep) (xs : List Str) :
    (nextTest s xs).search.phase = .sweep ∨ (nextTest s xs).search.phase = .idle := by
  unfold nextTest
  split
  · split <;> exact .inr rfl
  · exact .inl h

/-- R97, R99: a completion leaves a sweep a sweep, or ends it. -/
theorem searchOnCompletion_sweep {s : State} (h : s.search.phase = .sweep) :
    (searchOnCompletion s).search.phase = .sweep ∨ (searchOnCompletion s).search.phase = .idle := by
  have h : (recovered s).search.phase = .sweep := by rwa [recovered_phase]
  unfold searchOnCompletion
  simp only
  rw [if_neg (by rw [h]; nofun)]
  generalize recovered s = r at h
  unfold judgeCompletion
  split
  · exact .inr rfl
  · exact .inl h
  · split
    · split
      · exact .inr rfl
      · exact .inl h
    · exact .inl h
  · split
    · unfold judgeValue
      simp only [h]
      split
      · exact .inl h
      · refine nextTest_sweep ?_ _
        split <;> exact h
    · exact .inl h

/-- The reports of the event that enters a sweep leave its hold stage with strings to test, or end the search. -/
theorem SweepEntered.searchReact {s₀ s₁ : State} (h : SweepEntered s₁) (hh : (searchReact s₀ s₁).search.stage = .hold) :
    SweepBegins (searchReact s₀ s₁) := by
  obtain ⟨⟨hphase, hsuspects⟩, htest⟩ := h
  unfold Machine.searchReact at hh ⊢
  simp only at hh ⊢
  have hp : s₁.search.phase ≠ .idle := by rw [hphase]; nofun
  rw [if_neg hp] at hh ⊢
  split at hh
  · cases hh
  · next hf =>
    rw [if_neg hf]
    split at hh
    · cases hh
    · next ha =>
      rw [if_neg ha]
      split at hh
      · cases hh
      · next hc =>
        rw [if_neg hc]
        split at hh
        · next hg =>
          rw [if_pos hg]
          exact ⟨hphase, hsuspects⟩
        · next hg =>
          rw [if_neg hg]
          unfold takeOvertaken at hh ⊢
          simp only [hphase, htest] at hh ⊢
          split at hh
          · cases hh
          · next hl =>
            rw [if_neg hl]
            exact ⟨rfl, fun he => hl (List.isEmpty_iff.mpr he)⟩

/-- Where no string test starts, an insulation completion leaves its targets standing. -/
theorem targetsStand_of_completion {s₀ m s : State} (hx : m.search = s.search)
    (h : NoTestStarts s (finish s₀ (searchOnCompletion m))) : TargetsStand s₀ (searchOnCompletion m) := by
  obtain ⟨hstage, hphase⟩ := h
  rw [← hx] at hstage hphase
  refine targetsStand_of_stage fun hh => ?_
  by_cases hs : (searchOnCompletion m).search.stage = .hold
  · obtain ⟨hp, hentered⟩ := searchOnCompletion_entered hstage hs
    exact hp (hphase ((hentered.searchReact hh).finish hh))
  · obtain ⟨hp, hbegins⟩ := searchReact_hold hs hh
    rcases searchOnCompletion_sweep (hphase (hbegins.finish hh)) with hsweep | hidle
    · exact hp hsweep
    · have hreact : searchReact s₀ (searchOnCompletion m) = searchOnCompletion m := if_pos hidle
      rw [hreact] at hh
      exact hs hh

end Sys2Proof.Machine

namespace Sys2Proof.Claims

open Sys2Proof Sys2Proof.Machine

/-! ## INSULATION_COMPLETION -/

/-- The state of which the search unit takes a completion: the result written, the next measurement started (R32 to R35). -/
def isoCompleted (s : State) (dt : Nat) (job : IsoJob) (kohm : Nat) (inBand : Bool) : State :=
  startIso (writeIso (s.advance dt) job kohm inBand)

theorem exec_insulationCompletion {s : State} {dt : Nat} {job : IsoJob} (h : IsoDue s dt job) (kohm : Nat) (inBand : Bool) :
    exec (.insulationCompletion dt kohm inBand) s
      = .next (finish (s.advance dt) (searchOnCompletion (isoCompleted s dt job kohm inBand))) := by
  obtain ⟨hjob, hdue⟩ := h
  change execInsulationCompletion dt kohm inBand s = _
  unfold execInsulationCompletion
  simp only [advance_iso, hjob]
  exact congrArg Host.Outcome.next (if_pos hdue)

theorem anyDrive_iff {s : State} : anyDrive s = true ↔ ∃ i : Str, s.seqs[i].act.isSome = true := by
  unfold anyDrive
  rw [List.any_eq_true]
  exact ⟨fun ⟨i, _, h⟩ => ⟨i, h⟩, fun ⟨i, h⟩ => ⟨i, List.mem_finRange i, h⟩⟩

/-- The measurement that starts at a completion (R32, R34). -/
def nextIso (s : State) (dt : Nat) : IsoJob := ⟨s.now + dt, s.now + dt + s.cfg.tIso * 1000, anyDrive s⟩

/-- The measurement that a completion starts stands at the end of its event, disturbed where an actuation is under way before or after. -/
theorem finish_nextIso {s u : State} {x : Iso} {dt : Nat} (hx : x.job = some (nextIso s dt))
    (h : IsoFollows x (∃ i : Str, s.seqs[i].act.isSome = true) u) :
    ∃ next, u.iso.job = some next ∧ next.start = s.now + dt ∧ next.doneAt = s.now + dt + s.cfg.tIso * 1000
      ∧ ((∃ i : Str, s.seqs[i].act.isSome = true) → next.disturbed = true)
      ∧ ((∀ i : Str, s.seqs[i].act = none) → (∀ i : Str, u.seqs[i].act = none) → next.disturbed = false) := by
  rcases h with h | ⟨h, hdrive⟩
  · refine ⟨nextIso s dt, by rw [h, hx], rfl, rfl, anyDrive_iff.mpr, fun hs _ => ?_⟩
    exact Bool.eq_false_iff.mpr fun hd => by
      obtain ⟨i, hi⟩ := anyDrive_iff.mp hd
      rw [hs i] at hi
      cases hi
  · refine ⟨{ nextIso s dt with disturbed := true }, by rw [h, disturbed, hx]; rfl, rfl, rfl, fun _ => rfl, fun hs hu => ?_⟩
    rcases hdrive with ⟨i, hi⟩ | ⟨i, hi⟩
    · rw [hs i] at hi
      cases hi
    · rw [hu i] at hi
      cases hi

/-- Settles O47: the end of the event leaves the result as the completion wrote it, and disturbs the next measurement only by a drive. -/
theorem insulationResult : Obligations.InsulationResult := by
  intro dt kohm inBand s job hdue
  have hunmoved := unmoved_searchOnCompletion (isoCompleted s dt job kohm inBand)
  have hseqs : (searchOnCompletion (isoCompleted s dt job kohm inBand)).seqs = s.seqs := hunmoved.seqs
  have hiso := hunmoved.iso
  have hfollows := finish_iso (s.advance dt) (searchOnCompletion (isoCompleted s dt job kohm inBand))
  rw [hseqs, hiso] at hfollows
  obtain ⟨_, hlatches⟩ := latches_searchOnCompletion (isoCompleted s dt job kohm inBand)
  have hcfg : (searchOnCompletion (isoCompleted s dt job kohm inBand)).cfg = s.cfg := hlatches.cfg
  have htaken := fun hn : NoTestStarts s (finish (s.advance dt) (searchOnCompletion (isoCompleted s dt job kohm inBand))) =>
    finish_targetsAreTaken hcfg hseqs (targetsStand_of_completion (s := s) rfl hn)
  have hidle : inBand = false → (finish (s.advance dt) (searchOnCompletion (isoCompleted s dt job kohm inBand))).search.phase = .idle := by
    rintro rfl
    exact finish_idle (searchOnCompletion_invalid rfl rfl)
  have hpins := finish_pins (s.advance dt) (searchOnCompletion (isoCompleted s dt job kohm inBand))
  have hc := hlatches.trans (carries_finish (s.advance dt) _)
  have hexec := exec_insulationCompletion hdue kohm inBand
  generalize finish (s.advance dt) (searchOnCompletion (isoCompleted s dt job kohm inBand)) = u at *
  obtain ⟨next, hjob, hstart, hdone, hdisturbed, hquiet⟩ := finish_nextIso (s := s) rfl hfollows
  have hvalue : u.iso.value = if inBand then min 65535 kohm else 0 := hc.isoValue
  have hstatus : u.iso.status = if inBand then (if job.disturbed then .disturbed else .valid) else .invalid := hc.isoStatus
  have hfault : u.iso.fault = !inBand := hc.isoFault
  have hbus := Carries.sameBus hc
  have hjournal := Carries.sameJournal hc
  refine ⟨u, next, hexec, hc.isoStart, hjob, hstart, hdone, hdisturbed, hquiet, ?_, ?_, htaken, hbus, hjournal,
    hc.inputs, hc.meas, hc.scan, hc.lines⟩
  · rintro rfl
    exact ⟨hfault, hvalue, hstatus⟩
  · rintro rfl
    have hattn : u.pins.attnLow = true := by
      rw [hpins]
      exact bne_iff_ne.mpr (attentionReasons_of_fault hfault)
    exact ⟨hfault, hvalue, hstatus, hattn, hidle rfl⟩

end Sys2Proof.Claims

/-! The levels of the SHDN and MAINT inputs and their debounce times (O51). -/

namespace Sys2Proof.Claims

open Sys2Proof Sys2Proof.Machine

section levels
variable (s : State) (dt : Nat) {level : Bool}

theorem exec_shdnLevelChange_same (h : s.inputs.shdnRaw = level) : exec (.shdnLevelChange dt level) s = .next (later s dt) :=
  congrArg Host.Outcome.next (if_pos h)

theorem exec_shdnLevelChange (h : s.inputs.shdnRaw ≠ level) :
    exec (.shdnLevelChange dt level) s = .next { later s dt with inputs := { s.inputs with
        shdnRaw := level
        shdnTiming := if s.inReset then none else debounce level s.inputs.shdnActive (s.now + dt) shdnTime } } :=
  congrArg Host.Outcome.next (if_neg h)

theorem exec_maintLevelChange_same (h : s.inputs.maintRaw = level) : exec (.maintLevelChange dt level) s = .next (later s dt) :=
  congrArg Host.Outcome.next (if_pos h)

theorem exec_maintLevelChange (h : s.inputs.maintRaw ≠ level) :
    exec (.maintLevelChange dt level) s = .next { later s dt with inputs := { s.inputs with
        maintRaw := level
        maintTiming := if s.inReset then none else debounce level s.inputs.maintActive (s.now + dt) maintTime } } :=
  congrArg Host.Outcome.next (if_neg h)

end levels

section timings
variable {s : State} {dt x : Nat} (ht : s.inputs.maintTiming = some x) (hx : x ≤ s.now + dt)
include ht hx

theorem maintTiming_due : due s.inputs.maintTiming (s.now + dt) = true := by
  rw [ht]
  exact decide_eq_true hx

theorem exec_maintActivation (hr : s.inputs.maintRaw = true) (ha : s.inputs.maintActive = false) :
    exec (.maintActivation dt) s
      = .next { later s dt with inputs := { s.inputs with maintActive := true, maintTiming := none } } := by
  have hc : (s.inputs.maintRaw && !s.inputs.maintActive && due s.inputs.maintTiming (s.now + dt)) = true := by
    rw [hr, ha, maintTiming_due ht hx]
    rfl
  exact congrArg Host.Outcome.next (if_pos hc)

theorem exec_maintRelease (hr : s.inputs.maintRaw = false) (ha : s.inputs.maintActive = true) :
    exec (.maintRelease dt) s
      = .next { later s dt with inputs := { s.inputs with maintActive := false, maintTiming := none } } := by
  have hc : (!s.inputs.maintRaw && s.inputs.maintActive && due s.inputs.maintTiming (s.now + dt)) = true := by
    rw [hr, ha, maintTiming_due ht hx]
    rfl
  exact congrArg Host.Outcome.next (if_pos hc)

end timings

/-- Settles O51: in reset a level is taken without a timing, and a level that has not changed leaves the timing that runs. -/
theorem inputsAreDebounced : Obligations.InputsAreDebounced := by
  intro dt level s
  refine ⟨fun hr hn => ?_, fun hr hn => ?_, fun hr => ⟨?_, ?_⟩, fun x ht hx => ⟨exec_maintActivation ht hx, exec_maintRelease ht hx⟩⟩
  · rw [exec_shdnLevelChange s dt hn, hr]
    rfl
  · rw [exec_maintLevelChange s dt hn, hr]
    rfl
  · by_cases hl : s.inputs.shdnRaw = level
    · rw [exec_shdnLevelChange_same s dt hl, if_pos hl, ← hl]
      rfl
    · rw [exec_shdnLevelChange s dt hl, if_neg hl, hr]
      rfl
  · by_cases hl : s.inputs.maintRaw = level
    · rw [exec_maintLevelChange_same s dt hl, if_pos hl, ← hl]
      rfl
    · rw [exec_maintLevelChange s dt hl, if_neg hl, hr]
      rfl

end Sys2Proof.Claims

/-! The end of an event in one string, whichever targets the search unit moves at it: the two times that targets are carried out. -/

namespace Sys2Proof.Claims

open Sys2Proof Sys2Proof.Machine

/-! ## One string, carried out once and again -/

/-- What carrying out the targets leaves of the string `i`, whose sequencer it finds at `q`. -/
structure Carried (q : Seq) (u : State) (i : Str) : Prop where
  seq      : (q.takeTarget u.table[i].target u.now).MayStart u.seqs[i] u.cfg u.now
  queue    : ∀ e ∈ u.arb.queue, e.str = i → (q.takeTarget u.table[i].target u.now).waitsFor = some e.kind
  requests : u.seqs[i].waitsFor ≠ none → u.seqs[i].grant ≠ .none ∨ ∃ e ∈ u.arb.queue, e.str = i

theorem carryOut_arbitrated (s : State) : Arbitrated (reconcile (recompute s)) (carryOut s) := by
  unfold carryOut
  exact arbitrate_arbitrated _

theorem carried_carryOut {s : State} {i : Str} (hp : isPresent s i = true) : Carried s.seqs[i] (carryOut s) i := by
  have hc := carries_carryOut s
  have hpc : isPresent (carryOut s) i = true := by rw [isPresent_congr hc.cfg, hp]
  have hseq := carryOut_seq s hp
  rw [← hc.cfg, ← hc.now] at hseq
  refine ⟨hseq, fun e he hi => ?_, (carryOut_rests s).requests i hpc⟩
  have hwaits := (carryOut_arbitrated s).queue e he
  subst hi
  rw [reconcile_seq, isPresent_recompute, if_pos hp, recompute_now, ← hc.now] at hwaits
  simp only [recompute_seqs] at hwaits
  rwa [carryOut_table]

theorem Ended.carried {q : Seq} {u : State} {i : Str} (h : Ended q u i) : Carried q u i := by
  refine ⟨h.seq, fun e he hi => ?_, h.requests⟩
  subst hi
  have hwaits := h.queue e he
  rwa [← MayStart.waitsFor h.seq hwaits]

/-- A sequencer that asks to open. -/
theorem Asks.opensNext {q : Seq} {u : State} {i : Str} (h : Asks u i q .open_) (hq : q.state = .openQueued) :
    OpensNext u.seqs[i] := by
  rcases h with ⟨h, _⟩ | h
  · exact .inl (by rw [h, hq])
  · exact .inr (by rw [h]; rfl)

section carried
variable {q q' : Seq} {u : State} {i : Str} (h : Carried q u i)
include h

theorem Carried.eq {t : Target} (ht : u.table[i].target = t) (hq : q.takeTarget t u.now = q') (hw : q'.waitsFor = none) :
    u.seqs[i] = q' := by
  subst ht hq
  exact eq_of_mayStart h.seq hw

theorem Carried.asks {t : Target} {c : Coil} (ht : u.table[i].target = t) (hq : q.takeTarget t u.now = q')
    (hw : q'.waitsFor = some c) : Asks u i q' c := by
  subst ht hq
  rcases h.seq with hs | ⟨d, hd, hs⟩
  · refine .inl ⟨hs, ?_⟩
    have hrequest := h.requests (by rw [hs, hw]; simp)
    rw [hs] at hrequest
    refine hrequest.imp_right fun ⟨e, he, hi⟩ => ?_
    have hk := h.queue e he hi
    rw [hw] at hk
    cases Option.some.inj hk
    rwa [← hi]
  · rw [hw] at hd
    cases Option.some.inj hd
    exact .inr (hs.trans (start_eq ..))

/-- An ISOLATED string that opens next goes on so, and its entries are those of an open. -/
theorem Carried.opensNext (ht : u.table[i].target = .isolated) (hq : OpensNext q) :
    OpensNext u.seqs[i] ∧ ∀ e ∈ u.arb.queue, e.str = i → e.kind = .open_ := by
  have hqueue := h.queue
  rw [ht] at hqueue
  rcases hq with hq | hq
  · have htake : q.takeTarget .isolated u.now = q := by simp only [Seq.takeTarget, hq]
    have hwaits : q.waitsFor = some .open_ := by rw [Seq.waitsFor, hq]
    rw [htake, hwaits] at hqueue
    exact ⟨(h.asks ht htake hwaits).opensNext hq, fun e he hi => (Option.some.inj (hqueue e he hi)).symm⟩
  · have htake : q.takeTarget .isolated u.now = q := by simp only [Seq.takeTarget, hq]
    have hwaits : q.waitsFor = none := by rw [Seq.waitsFor, hq]
    rw [htake, hwaits] at hqueue
    exact ⟨.inr (by rw [h.eq ht htake hwaits, hq]), fun e he hi => nomatch hqueue e he hi⟩

theorem Carried.refreshPins : Carried q (refreshPins u) i := ⟨h.seq, h.queue, h.requests⟩

end carried

section finish
variable (s₀ : State) {s₁ : State} {i : Str} (hp : isPresent s₁ i = true)
include hp

theorem isPresent_first : isPresent (carryOut (searchReact s₀ s₁)) i = true := by
  rw [isPresent_congr ((carries_searchReact s₀ s₁).trans (carries_carryOut _)).cfg, hp]

/-- The first time, before the switch wait is judged. -/
theorem carried_first : Carried s₁.seqs[i] (carryOut (searchReact s₀ s₁)) i := by
  have hreact := carries_searchReact s₀ s₁
  have h := carried_carryOut (s := searchReact s₀ s₁) (i := i) (by rw [isPresent_congr hreact.cfg, hp])
  simpa only [searchReact_seqs] using h

/-- The second time, after it. -/
theorem carried_second : Carried (carryOut (searchReact s₀ s₁)).seqs[i] (finish s₀ s₁) i := by
  have hfirst := isPresent_first s₀ hp
  unfold finish
  generalize carryOut (searchReact s₀ s₁) = m at hfirst
  have h := carried_carryOut (s := judgeSwitchWait m) (i := i) (by rw [isPresent_congr (carries_judgeSwitchWait m).cfg, hfirst])
  simp only [judgeSwitchWait_seqs] at h
  exact h.refreshPins

end finish

/-- Where the switch wait does not hold, judging it moves no target. -/
theorem targetsStand_of_waiting {s₀ s₁ : State} (h : switchWaitHolds (carryOut (searchReact s₀ s₁)) = false) :
    TargetsStand s₀ s₁ := by
  intro i hp
  rw [judgeSwitchWait_of_not h]
  exact (carryOut_agrees (searchReact s₀ s₁) i (isPresent_first s₀ hp)).1.symm

/-- R88: no present switch opens next where the switch wait holds. -/
theorem not_opensNext_of_switchWaitHolds {s : State} (h : switchWaitHolds s = true) {i : Str} (hp : isPresent s i = true) :
    ¬ OpensNext s.seqs[i] := by
  have hi := List.all_eq_true.mp h i (List.mem_finRange i)
  rintro (hs | hs)
  · rw [hp, hs] at hi
    simp at hi
  · rw [hp, hs] at hi
    simp at hi

/-- A switch found CLOSED takes the target that stands in the end, whatever the search unit does: once it opens next, the switch wait does not
hold, and no target moves (R88, R96). -/
theorem finish_carried_of_closed (s₀ : State) {s₁ : State} {i : Str} (hp : isPresent s₁ i = true) (hq : s₁.seqs[i].state = .closed) :
    Carried s₁.seqs[i] (finish s₀ s₁) i := by
  cases hw : switchWaitHolds (carryOut (searchReact s₀ s₁)) with
  | false => exact (ended_finish (targetsStand_of_waiting hw) (isPresent_iff.mp hp)).carried
  | true =>
    have hopens := not_opensNext_of_switchWaitHolds hw (isPresent_first s₀ hp)
    have hfirst := carried_first s₀ hp
    have hsecond := carried_second s₀ hp
    cases ht : (carryOut (searchReact s₀ s₁)).table[i].target with
    | connected =>
      have hstays := hfirst.eq (q' := s₁.seqs[i]) ht (by simp only [Seq.takeTarget, hq]) (by rw [Seq.waitsFor, hq])
      rwa [hstays] at hsecond
    | isolated =>
      have hasks := hfirst.asks (q' := s₁.seqs[i].enter .openQueued) ht (by simp only [Seq.takeTarget, hq]) rfl
      exact absurd (hasks.opensNext rfl) hopens

/-! ## A string with a cause latched -/

section latched
variable (s₀ : State) {s₁ : State} {i : Str} (hi : i.val < s₁.cfg.stringCount) (hl : s₁.evid[i].latched ≠ 0)
include hi hl

/-- R6, R10. -/
theorem finish_isolated : (finish s₀ s₁).table[i].target = .isolated := by
  have hc := carries_finish s₀ s₁
  have hp : isPresent (finish s₀ s₁) i = true := by rw [isPresent_congr hc.cfg, isPresent_iff.mpr hi]
  rw [(finish_agrees s₀ s₁ i hp).1]
  exact targetOf_latched (by rwa [hc.evid])

theorem first_isolated : (carryOut (searchReact s₀ s₁)).table[i].target = .isolated := by
  have hc := (carries_searchReact s₀ s₁).trans (carries_carryOut _)
  rw [(carryOut_agrees (searchReact s₀ s₁) i (isPresent_first s₀ (isPresent_iff.mpr hi))).1]
  exact targetOf_latched (by rwa [hc.evid])

/-- A latched string whose switch is OPEN stays so. -/
theorem finish_opened (hq : s₁.seqs[i].state = .opened) : (finish s₀ s₁).seqs[i] = s₁.seqs[i] := by
  have htake (now : Nat) : s₁.seqs[i].takeTarget .isolated now = s₁.seqs[i] := by simp only [Seq.takeTarget, hq]
  have hwaits : s₁.seqs[i].waitsFor = none := by rw [Seq.waitsFor, hq]
  have hp := isPresent_iff.mpr hi
  have hsecond := carried_second s₀ hp
  rw [(carried_first s₀ hp).eq (first_isolated s₀ hi hl) (htake _) hwaits] at hsecond
  exact hsecond.eq (finish_isolated s₀ hi hl) (htake _) hwaits

/-- A latched string that waits to open goes on to open. -/
theorem finish_opensNext (hq : s₁.seqs[i].state = .openQueued) :
    OpensNext (finish s₀ s₁).seqs[i] ∧ ∀ e ∈ (finish s₀ s₁).arb.queue, e.str = i → e.kind = .open_ := by
  have hp := isPresent_iff.mpr hi
  have hfirst := ((carried_first s₀ hp).opensNext (first_isolated s₀ hi hl) (.inl hq)).1
  exact (carried_second s₀ hp).opensNext (finish_isolated s₀ hi hl) hfirst

end latched

end Sys2Proof.Claims

/-! A switch that fails and a close that fails: what the events that find it leave, at a travel expiry (O57) or at a scan completion. -/

namespace Sys2Proof.Claims

open Sys2Proof Sys2Proof.Machine

/-! ## Sequencers and evidence of one string -/

theorem setEvid_self (s : State) (i : Str) (e : Evidence) : (s.setEvid i e).evid[i] = e := by
  simp [State.setEvid]

theorem setEvid_other (s : State) {i j : Str} (h : j ≠ i) (e : Evidence) : (s.setEvid i e).evid[j] = s.evid[j] := by
  have : i.val ≠ j.val := fun hv => h (Fin.ext hv.symm)
  simp [State.setEvid, Vector.getElem_set_ne _ _ this]

theorem actuate_seq_self (s : State) (i : Str) (q : Seq) : (s.actuate i q).seqs[i] = q := setSeq_self s i q

theorem recharge_eq (q : Seq) (now tRch : Nat) : q.recharge now tRch = leftGrant q.grant now q.pulseEndedAt tRch := by
  unfold Seq.recharge leftGrant
  cases q.grant <;> rfl

theorem endAct_eq {q : Seq} {a : Act} (s : State) (dt : Nat) (h : q.act = some a) : q.endAct (s.now + dt) = bypassOff s dt q a := by
  unfold Seq.endAct bypassOff
  rw [h, ← recharge_eq]

/-- The sequencer of a switch that fails (R73). -/
def failedSeq (q : Seq) (now : Nat) : Seq := { (q.endAct now).enter .failed with probation := 0, qual := 0 }

/-- The evidence of a switch that fails (R51). -/
def weldedEvid (e : Evidence) (line : Bool) : Evidence :=
  { e.latch .weld with present := CauseSet.put e.present .weld line }

section failSwitch
variable (s : State) (i : Str)

theorem failSwitch_seq : (failSwitch s i).seqs[i] = failedSeq s.seqs[i] s.now := by
  unfold failSwitch
  simp only [setEvid_seqs]
  split
  · exact actuate_seq_self ..
  · exact setSeq_self ..

theorem failSwitch_evid : (failSwitch s i).evid[i] = weldedEvid s.evid[i] s.lines[i] := by
  unfold failSwitch
  simp only [setEvid_self]
  split <;> rfl

theorem failSwitch_other {j : Str} (h : j ≠ i) : (failSwitch s i).seqs[j] = s.seqs[j] ∧ (failSwitch s i).evid[j] = s.evid[j] := by
  unfold failSwitch
  simp only [setEvid_seqs]
  rw [setEvid_other _ h]
  split <;> exact ⟨setSeq_other s h.symm _, rfl⟩

end failSwitch

theorem weldedEvid_latched (e : Evidence) (line : Bool) : CauseSet.has (weldedEvid e line).latched .weld = true := by
  simp [weldedEvid, Evidence.latch]

theorem weldedEvid_present (e : Evidence) (line : Bool) : CauseSet.has (weldedEvid e line).present .weld = line := by
  simp [weldedEvid]

/-! ## The end of an event in which switches have worked -/

theorem switches_failClose (s : State) (i : Str) : Switches s (failClose s i) :=
  (switches_actuate s i _).trans (switches_setEvid _ i _)

theorem switches_retryWait (s : State) (i : Str) (a : Act) : Switches s (retryWait s i a) := switches_setSeq s i _

/-- What stands at the end of an event in which evidence and switches alone have worked. -/
structure SwitchesEnd (s u : State) : Prop where
  bus         : SameBus s u
  journal     : SameJournal s u
  measurement : SameMeasurement s u
  inputs      : u.inputs = s.inputs
  lines       : u.lines = s.lines

theorem finish_switchesEnd (s₀ : State) {s t : State} (h : Switches s t) : SwitchesEnd s (finish s₀ t) := by
  have hc := carries_finish s₀ t
  generalize finish s₀ t = u at hc ⊢
  obtain ⟨_, _, _, rfl⟩ := h
  have hbus := Carries.sameBus hc
  have hjournal := Carries.sameJournal hc
  have hmeasurement := Carries.sameMeasurement hc
  exact ⟨hbus, hjournal, hmeasurement, hc.inputs, hc.lines⟩

/-! ## A failed switch at the end of its event -/

theorem raisesAttention_eq (r : SearchResult) : r.raisesAttention = decide (r ∉ [SearchResult.none, .cleared, .found, .swept]) := by
  cases r <;> rfl

/-- An event that ends the search that it finds leaves it ended (R86, R101). -/
theorem searchEnds_of_endSearch {s s₀ s₁ : State} {r : SearchResult} {f : Option Str} (h : searchReact s₀ s₁ = endSearch s₁ r f)
    (hsearch : s₁.search = s.search) (hcfg : s₁.cfg = s.cfg) : SearchEnds s (finish s₀ s₁) s₁.now r f := by
  obtain ⟨hended, hroles⟩ := finish_of_endSearch h
  refine ⟨?_, hroles⟩
  have hsearch' : (endSearch s₁ r f).search = endedSearch s₁ s₁.now r f r.raisesAttention := by
    simp only [endSearch, setRoles, minutes, endedSearch]
  rw [hended, hsearch', raisesAttention_eq]
  unfold endedSearch
  rw [hsearch, hcfg]

/-- R165: a present switch that is FAILED is an attention reason. -/
theorem attentionReasons_of_failed {s : State} (h : failedReason s = true) : attentionReasons s ≠ 0 := by
  intro hz
  have hbit := congrArg (fun w : Half => w.getLsbD 1) hz
  unfold attentionReasons at hbit
  rw [h] at hbit
  simp [reasonBit] at hbit

theorem anyPresent_of {s : State} {p : Str → Bool} {i : Str} (hi : i.val < s.cfg.stringCount) (h : p i = true) :
    anyPresent s p = true :=
  List.any_eq_true.mpr ⟨i, List.mem_finRange i, by rw [isPresent_iff.mpr hi, h]; rfl⟩

section failed
variable (s₀ : State) {s₁ : State} {i : Str} (hi : i.val < s₁.cfg.stringCount) (hq : s₁.seqs[i].state = .failed)
include hq

theorem finish_failed : (finish s₀ s₁).seqs[i] = s₁.seqs[i] :=
  finish_rest s₀ rfl (by rw [Seq.waitsFor, hq]) fun t _ => by cases t <;> simp only [Seq.takeTarget, hq]

include hi

/-- R166. -/
theorem finish_failed_attn : (finish s₀ s₁).pins.attnLow = true := by
  have hc := carries_finish s₀ s₁
  have hpins := finish_pins s₀ s₁
  have hfailed := finish_failed s₀ hq
  generalize finish s₀ s₁ = u at hc hpins hfailed ⊢
  have hreason : failedReason u = true := anyPresent_of (i := i) (by rwa [hc.cfg]) (by rw [hfailed, hq]; rfl)
  rw [hpins]
  exact bne_iff_ne.mpr (attentionReasons_of_failed hreason)

/-- R80. -/
theorem finish_failed_btrip (ho : s₁.cfg.optBtrip = true) (hw : CauseSet.has s₁.evid[i].present .weld = true) :
    (finish s₀ s₁).pins.btrip = true := by
  have hc := carries_finish s₀ s₁
  have hpins := finish_pins s₀ s₁
  have hfailed := finish_failed s₀ hq
  generalize finish s₀ s₁ = u at hc hpins hfailed ⊢
  rw [hpins]
  refine Bool.and_eq_true_iff.mpr ⟨by rw [hc.cfg, ho], anyPresent_of (i := i) (by rwa [hc.cfg]) ?_⟩
  rw [hfailed, hq, hc.evid, hw]
  rfl

/-- R99: a switch that has become FAILED ends the search. -/
theorem searchReact_failed (h₀ : s₀.seqs[i].state ≠ .failed) (hphase : s₁.search.phase ≠ .idle) :
    searchReact s₀ s₁ = endSearch s₁ .abortedSwitch none := by
  have hentry : failedEntry s₀ s₁ = true := by
    refine List.any_eq_true.mpr ⟨i, List.mem_finRange i, ?_⟩
    rw [isPresent_iff.mpr hi, hq, bne_iff_ne.mpr h₀]
    rfl
  unfold searchReact
  exact (if_neg hphase).trans (if_pos hentry)

end failed

theorem finish_btrip_off (s₀ : State) {s₁ : State} (ho : s₁.cfg.optBtrip = false) : (finish s₀ s₁).pins.btrip = false := by
  have hc := carries_finish s₀ s₁
  have hpins := finish_pins s₀ s₁
  generalize finish s₀ s₁ = u at hc hpins ⊢
  rw [hpins]
  exact Bool.and_eq_false_iff.mpr (.inl (by rw [hc.cfg, ho]))

end Sys2Proof.Claims

/-! The expiries of the travel windows (O57). -/

namespace Sys2Proof.Claims

open Sys2Proof Sys2Proof.Machine

theorem actIn_of_due {s : State} {dt at_ : Nat} {i : Str} {a : Act} {c : Coil} {p : ActPhase} (h : Due s dt i a c p at_) :
    actIn (s.advance dt) i p = some a := by
  obtain ⟨hreset, hact, _, hphase, _⟩ := h
  unfold actIn
  simp only [advance_inReset, advance_seqs, hreset, hact, Bool.false_eq_true, if_false, Option.filter_some, hphase, beq_self_eq_true,
    if_true]

theorem exec_closeTravelExpiry {s : State} {dt : Nat} {i : Str} {a : Act} (h : Due s dt i a .close_ .travel a.travelEnd) :
    exec (.closeTravelExpiry dt i) s = .next (finish (s.advance dt)
      (if s.seqs[i].winding then (s.advance dt).actuate i (s.seqs[i].endWind (s.now + dt)) else failClose (s.advance dt) i)) := by
  change execCloseTravelExpiry dt i s = _
  unfold execCloseTravelExpiry
  simp only [actIn_of_due h]
  obtain ⟨_, _, hcoil, _, hdue⟩ := h
  exact congrArg Host.Outcome.next (if_pos ⟨hcoil, hdue⟩)

theorem exec_openTravelExpiry {s : State} {dt : Nat} {i : Str} {a : Act} (h : Due s dt i a .open_ .travel a.travelEnd) :
    exec (.openTravelExpiry dt i) s = .next (finish (s.advance dt)
      (if s.seqs[i].winding then (s.advance dt).actuate i (s.seqs[i].endWind (s.now + dt))
      else if s.seqs[i].retry then failSwitch (s.advance dt) i else retryWait (s.advance dt) i a)) := by
  change execOpenTravelExpiry dt i s = _
  unfold execOpenTravelExpiry
  simp only [actIn_of_due h]
  obtain ⟨_, _, hcoil, _, hdue⟩ := h
  exact congrArg Host.Outcome.next (if_pos ⟨hcoil, hdue⟩)

theorem not_winding {q : Seq} (h : q.state ≠ .unfound) : ¬ q.winding = true := by
  rw [Seq.winding, beq_false_of_ne h]
  simp

theorem winding_of {q : Seq} {a : Act} (h : q.state = .unfound) (ha : q.act = some a) : q.winding = true := by
  rw [Seq.winding, h, ha]
  rfl

section close
variable (s : State) (i : Str)

theorem failClose_seq : (failClose s i).seqs[i] = (s.seqs[i].endAct s.now).enter .opened := actuate_seq_self ..

theorem failClose_evid : (failClose s i).evid[i] = s.evid[i].latchHeld .other := setEvid_self ..

theorem failClose_evid_other {j : Str} (h : j ≠ i) : (failClose s i).evid[j] = s.evid[j] := setEvid_other _ h _

end close

/-- R67: a close whose travel window closes fails. -/
theorem closeFails {dt : Nat} {s : State} {i : Str} {a : Act} (hdue : Due s dt i a .close_ .travel a.travelEnd)
    (hstate : s.seqs[i].state = .closing) (hi : i.val < s.cfg.stringCount) :
    ∃ u, exec (.closeTravelExpiry dt i) s = .next u
      ∧ u.seqs[i] = { bypassOff s dt s.seqs[i] a with state := .opened, mismatch := 0 }
      ∧ CauseSet.has u.evid[i].latched .held = true ∧ u.evid[i].heldOrigin = some .other
      ∧ u.table[i].target = .isolated
      ∧ (∀ j : Str, j ≠ i → u.evid[j] = s.evid[j])
      ∧ SameBus s u ∧ SameJournal s u ∧ SameMeasurement s u ∧ u.inputs = s.inputs ∧ u.lines = s.lines := by
  have hexec := exec_closeTravelExpiry hdue
  rw [if_neg (not_winding (by rw [hstate]; nofun))] at hexec
  obtain ⟨_, hact, _⟩ := hdue
  have hseq := failClose_seq (s.advance dt) i
  have hevid := failClose_evid (s.advance dt) i
  have hothers := fun j hj => failClose_evid_other (s.advance dt) i (j := j) hj
  have hswitches := switches_failClose (s.advance dt) i
  generalize failClose (s.advance dt) i = t at *
  have hheld : CauseSet.has t.evid[i].latched .held = true := by rw [hevid, latchHeld_held]
  have hcfg : t.cfg = s.cfg := by obtain ⟨_, _, _, rfl⟩ := hswitches; rfl
  have hit : i.val < t.cfg.stringCount := by rwa [hcfg]
  have hstays := finish_opened (s.advance dt) hit (latched_ne_zero hheld) (by rw [hseq]; rfl)
  have htarget := finish_isolated (s.advance dt) hit (latched_ne_zero hheld)
  have hframe := finish_switchesEnd (s.advance dt) hswitches
  have hc := carries_finish (s.advance dt) t
  refine ⟨_, hexec, ?_⟩
  generalize finish (s.advance dt) t = u at *
  obtain ⟨hbus, hjournal, hmeasurement, hinputs, hlines⟩ := hframe
  refine ⟨?_, by rw [hc.evid, hheld], by rw [hc.evid, hevid]; rfl, htarget, fun j hj => by rw [hc.evid, hothers j hj]; rfl,
    hbus, hjournal, hmeasurement, hinputs, hlines⟩
  have hend := endAct_eq s dt hact
  rw [hstays, hseq]
  simp only [advance_seqs, advance_now, hend]
  rfl

/-- R72: the first expiry of an open waits for the second pulse. -/
theorem openRetries {dt : Nat} {s : State} {i : Str} {a : Act} (hdue : Due s dt i a .open_ .travel a.travelEnd)
    (hstate : s.seqs[i].state = .opening) (hretry : s.seqs[i].retry = false) :
    ∃ u, exec (.openTravelExpiry dt i) s = .next u
      ∧ u.seqs[i] = { s.seqs[i] with
          retry := true
          act := some { a with phase := .retryWait, until_ := max (s.now + dt) (s.seqs[i].pulseEndedAt + a.tRch) } }
      ∧ SameBus s u ∧ SameJournal s u ∧ SameMeasurement s u ∧ SameEvidence s u ∧ u.lines = s.lines := by
  have hexec := exec_openTravelExpiry hdue
  rw [if_neg (not_winding (by rw [hstate]; nofun)), if_neg (by rw [hretry]; nofun)] at hexec
  have hseq : (retryWait (s.advance dt) i a).seqs[i] = _ := setSeq_self ..
  have hevid : (retryWait (s.advance dt) i a).evid = s.evid := rfl
  have hstays := finish_rest (s.advance dt) hseq (by simp only [Seq.waitsFor, advance_seqs, hstate])
    fun t _ => by cases t <;> simp only [Seq.takeTarget, advance_seqs, hstate]
  have hframe := finish_switchesEnd (s.advance dt) (switches_retryWait (s.advance dt) i a)
  have hc := carries_finish (s.advance dt) (retryWait (s.advance dt) i a)
  have hevid := hc.evid.trans hevid
  refine ⟨_, hexec, hstays, ?_⟩
  generalize finish (s.advance dt) (retryWait (s.advance dt) i a) = u at *
  obtain ⟨hbus, hjournal, hmeasurement, hinputs, hlines⟩ := hframe
  exact ⟨hbus, hjournal, hmeasurement, ⟨hevid, hinputs⟩, hlines⟩

/-- R73: the second expiry of an open leaves the switch FAILED. -/
theorem openFails {dt : Nat} {s : State} {i : Str} {a : Act} (hdue : Due s dt i a .open_ .travel a.travelEnd)
    (hstate : s.seqs[i].state = .opening) (hretry : s.seqs[i].retry = true) (hi : i.val < s.cfg.stringCount) :
    ∃ u, exec (.openTravelExpiry dt i) s = .next u
      ∧ u.seqs[i] = { bypassOff s dt s.seqs[i] a with state := .failed, mismatch := 0, probation := 0, qual := 0 }
      ∧ CauseSet.has u.evid[i].latched .weld = true ∧ CauseSet.has u.evid[i].present .weld = s.lines[i]
      ∧ u.table[i].target = .isolated ∧ u.pins.attnLow = true
      ∧ (s.cfg.optBtrip = true → s.lines[i] = true → u.pins.btrip = true)
      ∧ (s.cfg.optBtrip = false → u.pins.btrip = false)
      ∧ (s.search.phase ≠ .idle → SearchEnds s u (s.now + dt) .abortedSwitch none)
      ∧ (∀ j : Str, j ≠ i → u.evid[j] = s.evid[j])
      ∧ SameBus s u ∧ SameJournal s u ∧ SameMeasurement s u ∧ u.inputs = s.inputs ∧ u.lines = s.lines := by
  have hexec := exec_openTravelExpiry hdue
  rw [if_neg (not_winding (by rw [hstate]; nofun)), if_pos hretry] at hexec
  obtain ⟨_, hact, _⟩ := hdue
  have hseq : (failSwitch (s.advance dt) i).seqs[i] = failedSeq s.seqs[i] (s.now + dt) := failSwitch_seq ..
  have hevid : (failSwitch (s.advance dt) i).evid[i] = weldedEvid s.evid[i] s.lines[i] := failSwitch_evid ..
  have hothers := fun j hj => (failSwitch_other (s.advance dt) i (j := j) hj).2
  have hswitches := switches_failSwitch (s.advance dt) i
  generalize failSwitch (s.advance dt) i = t at *
  have hfailed : t.seqs[i].state = .failed := by rw [hseq]; rfl
  have hweld : CauseSet.has t.evid[i].latched .weld = true := by rw [hevid, weldedEvid_latched]
  have hpresent : CauseSet.has t.evid[i].present .weld = s.lines[i] := by rw [hevid, weldedEvid_present]
  have hcfg : t.cfg = s.cfg := by obtain ⟨_, _, _, rfl⟩ := hswitches; rfl
  have hsearch : t.search = s.search := by obtain ⟨_, _, _, rfl⟩ := hswitches; rfl
  have hnow : t.now = s.now + dt := by obtain ⟨_, _, _, rfl⟩ := hswitches; rfl
  have hit : i.val < t.cfg.stringCount := by rwa [hcfg]
  have hstays := finish_failed (s.advance dt) hfailed
  have htarget := finish_isolated (s.advance dt) hit (latched_ne_zero hweld)
  have hattn := finish_failed_attn (s.advance dt) hit hfailed
  have hbtrip := finish_failed_btrip (s.advance dt) hit hfailed
  have hoff := finish_btrip_off (s.advance dt) (s₁ := t)
  have hends := fun hp : t.search.phase ≠ .idle =>
    searchEnds_of_endSearch (searchReact_failed (s.advance dt) hit hfailed (by rw [advance_seqs, hstate]; nofun) hp) hsearch hcfg
  have hframe := finish_switchesEnd (s.advance dt) hswitches
  have hc := carries_finish (s.advance dt) t
  refine ⟨_, hexec, ?_⟩
  generalize finish (s.advance dt) t = u at *
  rw [hsearch, hnow] at hends
  rw [hcfg, hpresent] at hbtrip
  rw [hcfg] at hoff
  obtain ⟨hbus, hjournal, hmeasurement, hinputs, hlines⟩ := hframe
  refine ⟨?_, by rw [hc.evid, hweld], by rw [hc.evid, hpresent], htarget, hattn, hbtrip, hoff, hends,
    fun j hj => by rw [hc.evid, hothers j hj]; rfl, hbus, hjournal, hmeasurement, hinputs, hlines⟩
  rw [hstays, hseq, failedSeq, endAct_eq s dt hact]
  rfl

/-- R81: a drive carried to its end on a string without a switch state ends with its bypass. -/
theorem finish_endWind {s : State} {dt : Nat} {i : Str} (h : s.seqs[i].state = .unfound) :
    DriveEnds s (finish (s.advance dt) ((s.advance dt).actuate i (s.seqs[i].endWind (s.now + dt)))) dt i
      ∧ (finish (s.advance dt) ((s.advance dt).actuate i (s.seqs[i].endWind (s.now + dt)))).lines = s.lines := by
  have hseq := actuate_seq_self (s.advance dt) i (s.seqs[i].endWind (s.now + dt))
  have hevid : ((s.advance dt).actuate i (s.seqs[i].endWind (s.now + dt))).evid = s.evid := rfl
  have hstays := finish_rest (s.advance dt) hseq (by simp only [Seq.waitsFor, Seq.endWind, h])
    fun t _ => by cases t <;> simp only [Seq.takeTarget, Seq.endWind, h]
  have hframe := finish_switchesEnd (s.advance dt) (switches_actuate (s.advance dt) i (s.seqs[i].endWind (s.now + dt)))
  have hc := carries_finish (s.advance dt) ((s.advance dt).actuate i (s.seqs[i].endWind (s.now + dt)))
  obtain ⟨hbus, hjournal, hmeasurement, hinputs, hlines⟩ := hframe
  exact ⟨⟨hstays, hbus, hjournal, hmeasurement, hc.evid.trans hevid, hinputs⟩, hlines⟩

/-- Settles O57, by what each expiry finds: a close, the first or the second pulse of an open, or a drive carried to its end. -/
theorem travelExpiries : Obligations.TravelExpiries := by
  intro dt s i a
  refine ⟨closeFails, fun hdue hstate => ⟨openRetries hdue hstate, openFails hdue hstate⟩, fun c hdue hstate => ?_⟩
  have hwinding : s.seqs[i].winding = true := winding_of hstate hdue.2.1
  refine ⟨_, ?_, finish_endWind hstate⟩
  cases c with
  | close_ =>
    rw [if_pos rfl, exec_closeTravelExpiry hdue, if_pos hwinding]
  | open_ =>
    rw [if_neg (by nofun), exec_openTravelExpiry hdue, if_pos hwinding]

end Sys2Proof.Claims

/-! The verdicts of an evaluation on each cause of a string (R41 to R48). -/

namespace Sys2Proof.Machine

theorem SameCause.refl (e : Evidence) (c : Cause) : SameCause e e c := ⟨rfl, rfl, rfl⟩

theorem SameCause.trans {a b d : Evidence} {c : Cause} (h : SameCause a b c) (k : SameCause b d c) : SameCause a d c :=
  ⟨k.present.trans h.present, k.noted.trans h.noted, k.latched.trans h.latched⟩

theorem SameCounts.refl (e : Evidence) : SameCounts e e := ⟨rfl, rfl, ⟨rfl, rfl⟩, rfl⟩

theorem SameCounts.trans {a b d : Evidence} (h : SameCounts a b) (k : SameCounts b d) : SameCounts a d := by
  obtain ⟨hr, ho, ⟨hs, hv⟩, hd⟩ := h
  obtain ⟨kr, ko, ⟨ks, kv⟩, kd⟩ := k
  exact ⟨kr.trans hr, ko.trans ho, ⟨ks.trans hs, kv.trans hv⟩, kd.trans hd⟩

end Sys2Proof.Machine

namespace Sys2Proof.Claims

open Sys2Proof Sys2Proof.Machine

/-! ## One cause -/

/-- The noted flag of an evaluated cause (R40, R43). -/
theorem evaluate_noted (e : Evidence) (c : Cause) (present confirmed enable : Bool) :
    CauseSet.has (e.evaluate c present confirmed enable).noted c
      = (present && if confirmed && !CauseSet.has e.latched c then !enable else CauseSet.has e.noted c) := by
  unfold Evidence.evaluate Evidence.confirm Evidence.judge Evidence.latch
  cases h : CauseSet.has e.latched c <;> cases present <;> cases confirmed <;> cases enable <;> simp

theorem judged_evaluate (e : Evidence) (c : Cause) (present confirmed enable : Bool) :
    Judged e (e.evaluate c present confirmed enable) c present (present && confirmed) enable where
  present := evaluate_present ..
  latches hc he hl := by
    obtain ⟨rfl, rfl⟩ := Bool.and_eq_true_iff.mp hc
    rw [evaluate_latched, evaluate_noted, he, hl]
    exact ⟨rfl, rfl⟩
  notes hc he hl := by
    obtain ⟨rfl, rfl⟩ := Bool.and_eq_true_iff.mp hc
    rw [evaluate_latched, evaluate_noted, he, hl]
    exact ⟨rfl, rfl⟩
  stays h := by
    rw [evaluate_latched]
    rcases h with h | h
    · rw [h, Bool.false_and, Bool.or_false]
    · rw [h, Bool.true_or]
  keeps hn hc := by
    subst hn
    rw [Bool.true_and] at hc
    rw [evaluate_noted, hc]
    rfl
  clears hn := by
    rw [evaluate_noted, hn]
    rfl

/-- A cause that is not present is neither confirmed nor noted. -/
theorem judged_judge (e : Evidence) (c : Cause) (enable : Bool) : Judged e (e.judge c false) c false false enable :=
  judged_evaluate e c false false enable

/-- A verdict stands where nothing moves the cause before it and after it. -/
theorem Judged.between {a e e' b : Evidence} {c : Cause} {now confirmed enable : Bool} (h : Judged e e' c now confirmed enable)
    (before : SameCause a e c) (after : SameCause e' b c) : Judged a b c now confirmed enable := by
  obtain ⟨bp, bn, bl⟩ := before
  obtain ⟨ap, an, al⟩ := after
  obtain ⟨hpresent, hlatches, hnotes, hstays, hkeeps, hclears⟩ := h
  rw [bl, ← al, ← an] at hlatches hnotes
  rw [bl, ← al] at hstays
  rw [bn, ← an] at hkeeps
  exact ⟨ap.trans hpresent, hlatches, hnotes, hstays, hkeeps, fun hn => an.trans (hclears hn)⟩

/-! ## A string that is not evaluated for the causes of R42 and R44 -/

/-- The verdicts and counters of a string that does not run (R48). -/
structure Cleared (e e' : Evidence) (cfg : Config) : Prop where
  reverse     : Judged e e' .reverse false false cfg.enRev
  overcurrent : Judged e e' .overcurrent false false cfg.enOvc
  deviation   : Judged e e' .deviation false false cfg.enDev
  counts      : e'.revCount = 0 ∧ e'.ovcCount = 0 ∧ e'.winScans = 0 ∧ e'.winDeviant = 0 ∧ e'.devWindows = 0

theorem cleared_clearRunning (e : Evidence) (cfg : Config) : Cleared e e.clearRunning cfg := by
  have hcounts (x : Evidence) (c : Cause) :
      SameCause x { x with revCount := 0, ovcCount := 0, winScans := 0, winDeviant := 0, devWindows := 0 } c := ⟨rfl, rfl, rfl⟩
  have hr := judged_judge e .reverse cfg.enRev
  have ho := judged_judge (e.judge .reverse false) .overcurrent cfg.enOvc
  have hd := judged_judge ((e.judge .reverse false).judge .overcurrent false) .deviation cfg.enDev
  refine ⟨hr.between (.refl ..) ?_, ho.between (judge_other _ _ (by nofun)) ?_, hd.between ?_ (hcounts ..), rfl, rfl, rfl, rfl, rfl⟩
  · exact ((judge_other _ _ (by nofun)).trans (judge_other _ _ (by nofun))).trans (hcounts ..)
  · exact (judge_other _ _ (by nofun)).trans (hcounts ..)
  · exact (judge_other _ _ (by nofun)).trans (judge_other _ _ (by nofun))

theorem clearRunning_probation (e : Evidence) : SameCause e e.clearRunning .probation := by
  have h := ((judge_other e (c := .reverse) (d := .probation) false (by nofun)).trans
    (judge_other _ (c := .overcurrent) false (by nofun))).trans (judge_other _ (c := .deviation) false (by nofun))
  exact ⟨h.present, h.noted, h.latched⟩

/-! ## What follows an evaluation at its completion -/

/-- The causes that measurements show (R38). -/
def Measured (c : Cause) : Prop := c ≠ .held ∧ c ≠ .weld

/-- Two values of the evidence agree in all that is measured. -/
structure SameMeasured (e e' : Evidence) : Prop where
  causes : ∀ c, Measured c → SameCause e e' c
  counts : SameCounts e e'

theorem SameMeasured.trans {a b d : Evidence} (h : SameMeasured a b) (k : SameMeasured b d) : SameMeasured a d :=
  ⟨fun c hm => (h.causes c hm).trans (k.causes c hm), h.counts.trans k.counts⟩

theorem SameMeasured.cleared {a e b : Evidence} {cfg : Config} (k : SameMeasured e b) (h : Cleared a e cfg) : Cleared a b cfg := by
  obtain ⟨hr, ho, hd, hrc, hoc, hs, hv, hw⟩ := h
  obtain ⟨kc, kr, ko, ⟨ks, kv⟩, kd⟩ := k
  exact ⟨hr.between (.refl ..) (kc _ (by simp [Measured])), ho.between (.refl ..) (kc _ (by simp [Measured])),
    hd.between (.refl ..) (kc _ (by simp [Measured])), kr.trans hrc, ko.trans hoc, ks.trans hs, kv.trans hv, kd.trans hw⟩

/-- An evaluation of PROBATION stands beside what is cleared. -/
theorem Cleared.evaluate_probation {a e : Evidence} {cfg : Config} (h : Cleared a e cfg) (present confirmed enable : Bool) :
    Cleared a (e.evaluate .probation present confirmed enable) cfg := by
  have hother {c : Cause} (hc : c ≠ .probation) := evaluate_other e present confirmed enable hc
  obtain ⟨kr, ko, ⟨ks, kv⟩, kd⟩ := evaluate_counts e .probation present confirmed enable
  obtain ⟨hr, ho, hd, hrc, hoc, hs, hv, hw⟩ := h
  exact ⟨hr.between (.refl ..) (hother (by nofun)), ho.between (.refl ..) (hother (by nofun)),
    hd.between (.refl ..) (hother (by nofun)), kr.trans hrc, ko.trans hoc, ks.trans hs, kv.trans hv, kd.trans hw⟩

/-! ## A running string -/

/-- REVERSE and OVERCURRENT by their conditions at one scan (R42, R43). -/
structure CurrentJudged (e e' : Evidence) (cfg : Config) (rev ovc : Bool) : Prop where
  revCount    : e'.revCount = counted e.revCount rev
  ovcCount    : e'.ovcCount = counted e.ovcCount ovc
  reverse     : Judged e e' .reverse rev (rev && decide (cfg.cRev ≤ e'.revCount)) cfg.enRev
  overcurrent : Judged e e' .overcurrent ovc (ovc && decide (cfg.cOvc ≤ e'.ovcCount)) cfg.enOvc

/-- The deviation window by the condition `cond` at one scan (R45, R46). -/
structure WindowJudged (e e' : Evidence) (cfg : Config) (cond : Bool) : Prop where
  goesOn : e.winScans + 1 < cfg.devWindow →
    e'.winScans = e.winScans + 1 ∧ e'.winDeviant = e.winDeviant + (if cond then 1 else 0) ∧ e'.devWindows = e.devWindows
      ∧ Unjudged e e' .deviation
  closes : ∀ deviant, deviant = decide (cfg.devWindow < 2 * (e.winDeviant + if cond then 1 else 0)) → cfg.devWindow ≤ e.winScans + 1 →
    e'.winScans = 0 ∧ e'.winDeviant = 0 ∧ e'.devWindows = counted e.devWindows deviant
      ∧ Judged e e' .deviation deviant (deviant && decide (cfg.nDev ≤ e'.devWindows)) cfg.enDev

section currents
variable (e : Evidence) (rev cRev enRev ovc cOvc enOvc : Bool)

theorem currents_reverse :
    Judged e ((e.evaluate .reverse rev cRev enRev).evaluate .overcurrent ovc cOvc enOvc) .reverse rev (rev && cRev) enRev :=
  (judged_evaluate ..).between (.refl ..) (evaluate_other _ _ _ _ (by nofun))

theorem currents_overcurrent :
    Judged e ((e.evaluate .reverse rev cRev enRev).evaluate .overcurrent ovc cOvc enOvc) .overcurrent ovc (ovc && cOvc) enOvc :=
  (judged_evaluate ..).between (evaluate_other _ _ _ _ (by nofun)) (.refl ..)

theorem currents_other {c : Cause} (hr : c ≠ .reverse) (ho : c ≠ .overcurrent) :
    SameCause e ((e.evaluate .reverse rev cRev enRev).evaluate .overcurrent ovc cOvc enOvc) c :=
  (evaluate_other _ _ _ _ hr).trans (evaluate_other _ _ _ _ ho)

theorem currents_counts : SameCounts e ((e.evaluate .reverse rev cRev enRev).evaluate .overcurrent ovc cOvc enOvc) :=
  (evaluate_counts ..).trans (evaluate_counts ..)

end currents

section evalCurrent
variable (e : Evidence) (cfg : Config) (m : Meas)

theorem evalCurrent_judged : CurrentJudged e (e.evalCurrent cfg m) cfg (reverseCond cfg m) (overcurrentCond cfg m) := by
  have hcounts : SameCounts _ (e.evalCurrent cfg m) := currents_counts ..
  have hreverse : Judged _ (e.evalCurrent cfg m) .reverse _ _ _ := currents_reverse ..
  have hovercurrent : Judged _ (e.evalCurrent cfg m) .overcurrent _ _ _ := currents_overcurrent ..
  have hrev : (e.evalCurrent cfg m).revCount = countUp e.revCount (reverseCond cfg m) := hcounts.rev
  have hovc : (e.evalCurrent cfg m).ovcCount = countUp e.ovcCount (overcurrentCond cfg m) := hcounts.ovc
  refine ⟨hrev, hovc, ?_, ?_⟩
  · rw [hrev]
    exact hreverse.between ⟨rfl, rfl, rfl⟩ (.refl ..)
  · rw [hovc]
    exact hovercurrent.between ⟨rfl, rfl, rfl⟩ (.refl ..)

theorem evalCurrent_other {c : Cause} (hr : c ≠ .reverse) (ho : c ≠ .overcurrent) : SameCause e (e.evalCurrent cfg m) c := by
  have h : SameCause _ (e.evalCurrent cfg m) c := currents_other _ _ _ _ _ _ _ hr ho
  exact ⟨h.present, h.noted, h.latched⟩

theorem evalCurrent_window : (e.evalCurrent cfg m).winScans = e.winScans ∧ (e.evalCurrent cfg m).winDeviant = e.winDeviant
    ∧ (e.evalCurrent cfg m).devWindows = e.devWindows := by
  have h : SameCounts _ (e.evalCurrent cfg m) := currents_counts ..
  obtain ⟨hscans, hdeviant⟩ := h.win
  exact ⟨hscans, hdeviant, h.dev⟩

end evalCurrent

section evalWindow
variable (e : Evidence) (cfg : Config) (cond : Bool)

theorem evalWindow_judged : WindowJudged e (e.evalWindow cfg cond) cfg cond := by
  refine ⟨fun h => ?_, fun deviant hd h => ?_⟩
  · unfold Evidence.evalWindow
    simp only
    rw [if_neg (Nat.not_le.mpr h)]
    exact ⟨rfl, rfl, rfl, rfl, rfl, rfl⟩
  · unfold Evidence.evalWindow
    simp only
    rw [if_pos h, ← hd]
    generalize hx : ({ e with winScans := 0, winDeviant := 0, devWindows := _ } : Evidence) = x
    have hcounts := evaluate_counts x .deviation deviant (decide (cfg.nDev ≤ countUp e.devWindows deviant)) cfg.enDev
    have hjudged := judged_evaluate x .deviation deviant (decide (cfg.nDev ≤ countUp e.devWindows deviant)) cfg.enDev
    generalize x.evaluate .deviation _ _ _ = z at *
    subst hx
    obtain ⟨_, _, ⟨hscans, hdeviant⟩, hwindows⟩ := hcounts
    refine ⟨hscans, hdeviant, hwindows, ?_⟩
    rw [hwindows]
    exact hjudged.between ⟨rfl, rfl, rfl⟩ (.refl ..)

theorem evalWindow_other {c : Cause} (hc : c ≠ .deviation) : SameCause e (e.evalWindow cfg cond) c := by
  unfold Evidence.evalWindow
  simp only
  split
  · obtain ⟨hp, hn, hl⟩ := evaluate_other _ _ _ _ hc
    exact ⟨hp, hn, hl⟩
  · exact ⟨rfl, rfl, rfl⟩

theorem evalWindow_counts : (e.evalWindow cfg cond).revCount = e.revCount ∧ (e.evalWindow cfg cond).ovcCount = e.ovcCount := by
  unfold Evidence.evalWindow
  simp only
  split
  · exact ⟨(evaluate_counts ..).rev, (evaluate_counts ..).ovc⟩
  · exact ⟨rfl, rfl⟩

end evalWindow

/-- The verdicts on a running string (R42 to R46). -/
structure RunningJudged (e e' : Evidence) (cfg : Config) (rev ovc cond : Bool) : Prop where
  probation : Judged e e' .probation false false cfg.enPrb
  current   : CurrentJudged e e' cfg rev ovc
  window    : WindowJudged e e' cfg cond

section transfer
variable {a e e' b : Evidence} {cfg : Config} {rev ovc cond : Bool}

theorem CurrentJudged.between (h : CurrentJudged e e' cfg rev ovc)
    (before : ∀ c, c ≠ .probation → SameCause a e c) (counts : SameCounts a e)
    (after : ∀ c, c ≠ .deviation → Measured c → SameCause e' b c) (hr : b.revCount = e'.revCount) (ho : b.ovcCount = e'.ovcCount) :
    CurrentJudged a b cfg rev ovc := by
  obtain ⟨hrc, hoc, hrev, hovc⟩ := h
  rw [counts.rev, ← hr] at hrc
  rw [counts.ovc, ← ho] at hoc
  rw [← hr] at hrev
  rw [← ho] at hovc
  exact ⟨hrc, hoc, hrev.between (before _ (by nofun)) (after _ (by nofun) (by simp [Measured])),
    hovc.between (before _ (by nofun)) (after _ (by nofun) (by simp [Measured]))⟩

theorem WindowJudged.between (h : WindowJudged e e' cfg cond) (before : SameCause a e .deviation)
    (counts : e.winScans = a.winScans ∧ e.winDeviant = a.winDeviant ∧ e.devWindows = a.devWindows) (after : SameMeasured e' b) :
    WindowJudged a b cfg cond := by
  obtain ⟨hgoesOn, hcloses⟩ := h
  obtain ⟨hs, hv, hw⟩ := counts
  obtain ⟨hcauses, _, _, ⟨ks, kv⟩, kw⟩ := after
  have hdeviation := hcauses .deviation (by simp [Measured])
  rw [hs, hv, hw, ← ks, ← kv, ← kw] at hgoesOn hcloses
  refine ⟨fun hlt => ?_, fun deviant hd hle => ?_⟩
  · obtain ⟨hscans, hdeviant, hwindows, hp, hn, hl⟩ := hgoesOn hlt
    have hsame := (before.trans ⟨hp, hn, hl⟩).trans hdeviation
    exact ⟨hscans, hdeviant, hwindows, hsame.present, hsame.noted, hsame.latched⟩
  · obtain ⟨hscans, hdeviant, hwindows, hjudged⟩ := hcloses deviant hd hle
    exact ⟨hscans, hdeviant, hwindows, hjudged.between before hdeviation⟩

end transfer

/-- A running string is judged for REVERSE and OVERCURRENT, and by its window, and PROBATION is not present (R41). -/
theorem runningJudged_eval {e b : Evidence} {cfg : Config} {q : Seq} {m : Meas} {median : Option Int}
    (h : evalClass q m = .running) (hb : SameMeasured (e.eval cfg q m median) b) :
    RunningJudged e b cfg (reverseCond cfg m) (overcurrentCond cfg m) (deviationCond cfg median m) := by
  unfold Evidence.eval at hb
  rw [h] at hb
  simp only at hb
  have hx {c : Cause} (hc : c ≠ .probation) := judge_other e false hc
  have hprobation := judged_judge e .probation cfg.enPrb
  have hxcounts : SameCounts e (e.judge .probation false) := ⟨rfl, rfl, ⟨rfl, rfl⟩, rfl⟩
  generalize e.judge .probation false = x at *
  have hy {c : Cause} (hr : c ≠ .reverse) (ho : c ≠ .overcurrent) := evalCurrent_other x cfg m hr ho
  have hcurrent := evalCurrent_judged x cfg m
  obtain ⟨hscans, hdeviant, hwindows⟩ := evalCurrent_window x cfg m
  generalize x.evalCurrent cfg m = y at *
  have hz {c : Cause} (hc : c ≠ .deviation) := evalWindow_other y cfg (deviationCond cfg median m) hc
  have hwindow := evalWindow_judged y cfg (deviationCond cfg median m)
  obtain ⟨hrev, hovc⟩ := evalWindow_counts y cfg (deviationCond cfg median m)
  generalize y.evalWindow cfg (deviationCond cfg median m) = z at *
  refine ⟨hprobation.between (.refl ..) ?_, ?_, ?_⟩
  · exact ((hy (by nofun) (by nofun)).trans (hz (by nofun))).trans (hb.causes _ (by simp [Measured]))
  · exact hcurrent.between (fun c hc => hx hc) hxcounts (fun c hc hm => (hz hc).trans (hb.causes c hm)) (hb.counts.rev.trans hrev)
      (hb.counts.ovc.trans hovc)
  · exact hwindow.between ((hx (by nofun)).trans (hy (by nofun) (by nofun)))
      ⟨hscans.trans hxcounts.win.1, hdeviant.trans hxcounts.win.2, hwindows.trans hxcounts.dev⟩ hb

/-- A string on probation is judged for PROBATION alone (R41, R47). -/
theorem probationJudged_eval {e b : Evidence} {cfg : Config} {q : Seq} {m : Meas} {median : Option Int}
    (h : evalClass q m = .probation) (hb : SameMeasured (e.eval cfg q m median) b) :
    Cleared e b cfg ∧ Judged e b .probation (reverseCond cfg m || overcurrentCond cfg m)
      (reverseCond cfg m || overcurrentCond cfg m) cfg.enPrb := by
  unfold Evidence.eval at hb
  rw [h] at hb
  refine ⟨hb.cleared ((cleared_clearRunning e cfg).evaluate_probation ..), ?_⟩
  have hjudged := judged_evaluate e.clearRunning .probation (reverseCond cfg m || overcurrentCond cfg m) true cfg.enPrb
  rw [Bool.and_true] at hjudged
  exact hjudged.between (clearRunning_probation e) (hb.causes _ (by simp [Measured]))

/-- A string that is not evaluated has no cause present that measurements show (R41, R48). -/
theorem notJudged_eval {e b : Evidence} {cfg : Config} {q : Seq} {m : Meas} {median : Option Int}
    (h : evalClass q m = .notEvaluated) (hb : SameMeasured (e.eval cfg q m median) b) :
    Cleared e b cfg ∧ Judged e b .probation false false cfg.enPrb := by
  unfold Evidence.eval at hb
  rw [h] at hb
  exact ⟨hb.cleared ((cleared_clearRunning e cfg).evaluate_probation false false false),
    (judged_judge e.clearRunning .probation cfg.enPrb).between (clearRunning_probation e) (hb.causes _ (by simp [Measured]))⟩

/-- A string that is not CLOSED has nothing latched by the evaluation. -/
theorem eval_latched {e : Evidence} {cfg : Config} {q : Seq} {m : Meas} {median : Option Int} (h : q.state ≠ .closed) :
    (e.eval cfg q m median).latched = e.latched := by
  have hclass : evalClass q m = .notEvaluated := if_neg fun hc => h hc.1
  unfold Evidence.eval
  rw [hclass]
  rfl

theorem deviates_eq (cfg : Config) (median : Option Int) (m : Meas) : deviates cfg median m.current = deviationCond cfg median m := by
  unfold deviates deviationCond
  cases median with
  | none => rfl
  | some x => exact Bool.decide_and ..

end Sys2Proof.Claims

/-! What a scan completion makes of one string: its evidence, its sequencer's own work, and what that reports. -/

namespace Sys2Proof.Claims

open Sys2Proof Sys2Proof.Machine

/-! ## The work of one string -/

/-- The sequencer after its scan work `w` at instant `now`: a switch that fails drops its actuation (R73). -/
def reportedSeq (w : Seq × ScanReport) (now : Nat) : Seq :=
  match w.2 with
  | .failed => failedSeq w.1 now
  | _ => w.1

/-- The evidence `e` after what the scan work has reported, with the level of the string's line (R50, R51). -/
def reportedEvid (e : Evidence) (r : ScanReport) (line : Bool) : Evidence :=
  match r with
  | .none => e
  | .heldFoundOpen => e.latchHeld .foundOpen
  | .heldOther => e.latchHeld .other
  | .failed => weldedEvid e line

/-- What a completion gives the sequencer of the string `i` in the state `s`. -/
def viewAt (s : State) (start : Nat) (i : Str) (closed : Bool) : ScanView :=
  ⟨closed, s.meas[i].current, s.meas[i].saturated, s.meas[i].voltage, s.scan.bus, start⟩

theorem scanString_self {s : State} {i : Str} {closed : Bool} (start : Nat) (hp : isPresent s i = true)
    (hf : s.meas[i].feedback = some closed) :
    (scanString start s i).seqs[i] = reportedSeq (s.seqs[i].scanStep s.cfg (viewAt s start i closed)) s.now
      ∧ (scanString start s i).evid[i]
        = reportedEvid s.evid[i] (s.seqs[i].scanStep s.cfg (viewAt s start i closed)).2 s.lines[i] := by
  unfold scanString reportedSeq reportedEvid
  cases hr : (s.seqs[i].scanStep s.cfg (viewAt s start i closed)).2 with
  | none =>
    simp only [viewAt] at hr ⊢
    simp only [hp, hf, hr]
    exact ⟨setSeq_self .., rfl⟩
  | heldFoundOpen =>
    simp only [viewAt] at hr ⊢
    simp only [hp, hf, hr]
    exact ⟨setSeq_self .., setEvid_self ..⟩
  | heldOther =>
    simp only [viewAt] at hr ⊢
    simp only [hp, hf, hr]
    exact ⟨setSeq_self .., setEvid_self ..⟩
  | failed =>
    simp only [viewAt] at hr ⊢
    simp only [hp, hf, hr, failSwitch_seq, failSwitch_evid, setSeq_self]
    exact ⟨rfl, rfl⟩

theorem scanString_other (start : Nat) (s : State) {i j : Str} (h : j ≠ i) :
    (scanString start s j).seqs[i] = s.seqs[i] ∧ (scanString start s j).evid[i] = s.evid[i] := by
  unfold scanString
  simp only
  split
  · split
    · exact ⟨setSeq_other s h _, rfl⟩
    · exact ⟨setSeq_other s h _, setEvid_other _ h.symm _⟩
    · exact ⟨setSeq_other s h _, setEvid_other _ h.symm _⟩
    · obtain ⟨hs, he⟩ := failSwitch_other (s.setSeq j (s.seqs[j].scanStep s.cfg _).1) j h.symm
      exact ⟨hs.trans (setSeq_other s h _), he⟩
  · exact ⟨rfl, rfl⟩

theorem scanStrings_other (start : Nat) {i : Str} (l : List Str) (h : i ∉ l) (s : State) :
    (l.foldl (scanString start) s).seqs[i] = s.seqs[i] ∧ (l.foldl (scanString start) s).evid[i] = s.evid[i] := by
  induction l generalizing s with
  | nil => exact ⟨rfl, rfl⟩
  | cons j l ih =>
    rw [List.mem_cons, not_or] at h
    obtain ⟨hj, hl⟩ := h
    obtain ⟨hseq, hevid⟩ := scanString_other start s (Ne.symm hj)
    obtain ⟨hseqs, hevids⟩ := ih hl (scanString start s j)
    exact ⟨hseqs.trans hseq, hevids.trans hevid⟩

/-- Every string has its own work: that of the others before it and after it does not touch it. -/
theorem scanStrings_self (start : Nat) (s : State) (i : Str) :
    ∃ t, Switches s t ∧ t.seqs[i] = s.seqs[i] ∧ t.evid[i] = s.evid[i]
      ∧ (allStrings.foldl (scanString start) s).seqs[i] = (scanString start t i).seqs[i]
      ∧ (allStrings.foldl (scanString start) s).evid[i] = (scanString start t i).evid[i] := by
  obtain ⟨before, after, hsplit⟩ := List.append_of_mem (List.mem_finRange i)
  have hnodup := List.nodup_finRange 24
  rw [hsplit, List.nodup_middle, List.nodup_cons, List.mem_append, not_or] at hnodup
  obtain ⟨⟨hbefore, hafter⟩, _⟩ := hnodup
  have hall : allStrings = before ++ i :: after := hsplit
  obtain ⟨hseq, hevid⟩ := scanStrings_other start before hbefore s
  rw [hall, List.foldl_append, List.foldl_cons]
  obtain ⟨hseqs, hevids⟩ := scanStrings_other start after hafter (scanString start (before.foldl (scanString start) s) i)
  exact ⟨_, Switches.foldl _ (switches_scanString start) before s, hseq, hevid, hseqs, hevids⟩

/-! ## A completion, string by string -/

/-- What a completion of the scan `job` gives the sequencer of a string with the sample `x` (R24 to R27). -/
def completedView (job : ScanJob) (x : Sample) (bus : Int) : ScanView :=
  ⟨x.closed, currentOf job.iFs x.current, saturatedOf x.current, voltageOf job.vFs x.voltage, voltageOf job.vFs bus, job.start⟩

/-- The evidence of a string with the sample `x` after a completion's evaluation (R41, R51). -/
def completedEvid (s : State) (job : ScanJob) (x : Sample) (median : Option Int) (i : Str) : Evidence :=
  (if s.scan.found then s.evid[i].eval s.cfg s.seqs[i] (measure job (s.scan.number + 1) x) median else s.evid[i]).judgeWeld
    s.seqs[i] (measure job (s.scan.number + 1) x)

/-- What a completion at instant `now` has made of a string with the sample `x`, before the end of its event. -/
structure StringCompleted (s t : State) (now : Nat) (job : ScanJob) (x : Sample) (bus : Int) (i : Str) : Prop where
  seq    : t.seqs[i] = reportedSeq (s.seqs[i].scanStep s.cfg (completedView job x bus)) now
  evid   : t.evid[i] = reportedEvid (completedEvid s job x t.scan.median i)
    (s.seqs[i].scanStep s.cfg (completedView job x bus)).2 s.lines[i]
  cfg    : t.cfg = s.cfg
  search : t.search = s.search
  now    : t.now = now

theorem evaluateAll_evid {s : State} {i : Str} (hp : isPresent s i = true) :
    (evaluateAll s).evid[i]
      = (if s.scan.found then s.evid[i].eval s.cfg s.seqs[i] s.meas[i] s.scan.median else s.evid[i]).judgeWeld s.seqs[i] s.meas[i] :=
  (mapAll_get _ s.evid i).trans (if_pos hp)

/-- What the switches find of a string, once the records of a completion have been written. -/
structure Written (s w : State) (job : ScanJob) (x : Sample) (bus : Int) (i : Str) : Prop where
  meas   : w.meas[i] = measure job (s.scan.number + 1) x
  bus    : w.scan.bus = voltageOf job.vFs bus
  cfg    : w.cfg = s.cfg
  search : w.search = s.search
  lines  : w.lines = s.lines
  now    : w.now = s.now

theorem written_writeRecords {s : State} {job : ScanJob} {samples : Vector Sample 24} {i : Str} (bus : Int)
    (hi : i.val < s.cfg.stringCount) (hj : i.val < job.count) :
    Written s (writeRecords s job samples bus) job samples[i] bus i := by
  have hmeas := (writeRecords_meas s job samples bus i).trans (if_pos ⟨hi, hj⟩)
  have hscan := writeRecords_scan s job samples bus
  refine ⟨hmeas, by rw [hscan], ?_, ?_, ?_, ?_⟩
  all_goals simp only [writeRecords]

section written
variable {s w : State} {job : ScanJob} {x : Sample} {bus : Int} {i : Str} (hw : Written s w job x bus i)
include hw

theorem Written.switches {t : State} (h : Switches w t) : Written s t job x bus i := by
  obtain ⟨_, _, _, rfl⟩ := h
  exact ⟨hw.meas, hw.bus, hw.cfg, hw.search, hw.lines, hw.now⟩

variable (hi : i.val < s.cfg.stringCount)
include hi

theorem Written.present : isPresent w i = true := isPresent_iff.mpr (by rwa [hw.cfg])

theorem Written.evaluated (hfound : w.scan.found = s.scan.found) (hseqs : w.seqs = s.seqs) (hevid : w.evid = s.evid) :
    (evaluateAll w).evid[i] = completedEvid s job x w.scan.median i := by
  rw [evaluateAll_evid (hw.present hi), hw.meas, hfound, hw.cfg]
  simp only [hseqs, hevid]
  rfl

theorem Written.scanned (hseq : w.seqs[i] = s.seqs[i]) :
    (scanString job.start w i).seqs[i] = reportedSeq (s.seqs[i].scanStep s.cfg (completedView job x bus)) s.now
      ∧ (scanString job.start w i).evid[i]
        = reportedEvid w.evid[i] (s.seqs[i].scanStep s.cfg (completedView job x bus)).2 s.lines[i] := by
  have hview : viewAt w job.start i x.closed = completedView job x bus := by
    unfold viewAt completedView
    rw [hw.meas, hw.bus]
    rfl
  have h := scanString_self (closed := x.closed) job.start (hw.present hi) (by rw [hw.meas]; rfl)
  rw [hview, hseq, hw.cfg, hw.now] at h
  simpa only [hw.lines] using h

end written

theorem completeScan_fold (s : State) (job : ScanJob) (samples : Vector Sample 24) (bus : Int) (i : Str) :
    (completeScan s job samples bus).seqs[i]
        = (allStrings.foldl (scanString job.start) (evaluateAll (writeRecords s job samples bus))).seqs[i]
      ∧ (completeScan s job samples bus).evid[i]
        = (allStrings.foldl (scanString job.start) (evaluateAll (writeRecords s job samples bus))).evid[i] := by
  simp only [completeScan, and_self]

/-- R28, R41 to R51, R61 to R74: the completion of one string is its own. -/
theorem completeScan_string {s : State} {job : ScanJob} {samples : Vector Sample 24} {i : Str} (bus : Int)
    (hi : i.val < s.cfg.stringCount) (hj : i.val < job.count) :
    StringCompleted s (completeScan s job samples bus) s.now job samples[i] bus i := by
  have hw := written_writeRecords (samples := samples) bus hi hj
  have hevaluated := hw.evaluated hi rfl (by simp only [writeRecords]) (by simp only [writeRecords])
  have hswitches := switches_evaluateAll (writeRecords s job samples bus)
  have hseqs : (evaluateAll (writeRecords s job samples bus)).seqs = s.seqs := by simp only [evaluateAll, writeRecords]
  obtain ⟨t, ht, htseq, htevid, hseq, hevid⟩ := scanStrings_self job.start (evaluateAll (writeRecords s job samples bus)) i
  obtain ⟨hscanned, hreported⟩ := (hw.switches (hswitches.trans ht)).scanned hi (htseq.trans (by simp only [hseqs]))
  obtain ⟨hseqFold, hevidFold⟩ := completeScan_fold s job samples bus i
  obtain ⟨u, hu, hcomplete⟩ := completeScan_eq s job samples bus
  have hmedian : (completeScan s job samples bus).scan.median = (writeRecords s job samples bus).scan.median := by
    rw [hcomplete]
    obtain ⟨_, _, _, rfl⟩ := hu
    rfl
  obtain ⟨_, _, hcfg, hsearch, _, hnow⟩ := hw.switches hu
  refine ⟨hseqFold.trans (hseq.trans hscanned), ?_, ?_, ?_, ?_⟩
  · rw [hmedian, ← hevaluated, ← htevid]
    exact hevidFold.trans (hevid.trans hreported)
  · rw [hcomplete]
    exact hcfg
  · rw [hcomplete]
    exact hsearch
  · rw [hcomplete]
    exact hnow

end Sys2Proof.Claims

/-! The found state of a string (O44) and its causes (O45) at a scan completion. -/

namespace Sys2Proof.Claims

open Sys2Proof Sys2Proof.Machine

section completed
variable {s : State} {dt : Nat} {job : ScanJob} {samples : Vector Sample 24} {i : Str} (bus : Int)

theorem completeScan_later (hi : i.val < s.cfg.stringCount) (hj : i.val < job.count) :
    StringCompleted s (completeScan (s.advance dt) job samples bus) (s.now + dt) job samples[i] bus i := by
  obtain ⟨hseq, hevid, hcfg, hsearch, hnow⟩ := completeScan_string (s := s.advance dt) (samples := samples) bus hi hj
  exact ⟨hseq, hevid, hcfg, hsearch, hnow⟩

end completed

/-! ## The evidence beside the verdicts -/

theorem judgeWeld_latched (e : Evidence) (q : Seq) (m : Meas) : (e.judgeWeld q m).latched = e.latched := rfl

theorem sameMeasured_judgeWeld (e : Evidence) (q : Seq) (m : Meas) : SameMeasured e (e.judgeWeld q m) := by
  refine ⟨fun c ⟨_, hw⟩ => ⟨?_, rfl, rfl⟩, rfl, rfl, ⟨rfl, rfl⟩, rfl⟩
  simp [Evidence.judgeWeld, hw]

theorem sameMeasured_latchHeld (e : Evidence) (o : Origin) : SameMeasured e (e.latchHeld o) := by
  refine ⟨fun c ⟨hh, _⟩ => ?_, rfl, rfl, ⟨rfl, rfl⟩, rfl⟩
  obtain ⟨hp, hn, hl⟩ := latch_other e hh
  exact ⟨hp, hn, hl⟩

theorem sameMeasured_weldedEvid (e : Evidence) (line : Bool) : SameMeasured e (weldedEvid e line) := by
  refine ⟨fun c ⟨_, hw⟩ => ⟨?_, (latch_other e hw).noted, (latch_other e hw).latched⟩, rfl, rfl, ⟨rfl, rfl⟩, rfl⟩
  simp [weldedEvid, hw]

/-- What the switches report moves neither the causes that are measured nor their counters. -/
theorem sameMeasured_reportedEvid (e : Evidence) (r : ScanReport) (line : Bool) : SameMeasured e (reportedEvid e r line) := by
  cases r with
  | none => exact ⟨fun c _ => .refl e c, .refl e⟩
  | heldFoundOpen => exact sameMeasured_latchHeld ..
  | heldOther => exact sameMeasured_latchHeld ..
  | failed => exact sameMeasured_weldedEvid ..

theorem completedEvid_found {s : State} (job : ScanJob) (x : Sample) (median : Option Int) (i : Str) (h : s.scan.found = true) :
    SameMeasured (s.evid[i].eval s.cfg s.seqs[i] (measure job (s.scan.number + 1) x) median) (completedEvid s job x median i) := by
  unfold completedEvid
  rw [if_pos h]
  exact sameMeasured_judgeWeld ..

theorem completedEvid_first {s : State} (job : ScanJob) (x : Sample) (median : Option Int) (i : Str) (h : s.scan.found = false) :
    (completedEvid s job x median i).latched = s.evid[i].latched := by
  unfold completedEvid
  rw [if_neg (by rw [h]; nofun), judgeWeld_latched]

/-! ## The found state -/

theorem scanStep_unfound (q : Seq) (cfg : Config) (v : ScanView) (h : q.state = .unfound) :
    q.scanStep cfg v = if v.closed then ({ q with state := .closed, probation := 0, qual := 0, mismatch := 0, retry := false }, .none)
      else ({ q with state := .opened, probation := 0, qual := 0, mismatch := 0, retry := false }, .heldFoundOpen) := by
  simp only [Seq.scanStep, h]

/-- Settles O44: the found state comes first, and the end of the event takes its target. -/
theorem foundState : Obligations.FoundState := by
  intro dt samples bus s job i hdue hfound hi hj hreset
  obtain ⟨hseq, hevid, hcfg, _, _⟩ := completeScan_later (dt := dt) (samples := samples) bus hi hj
  have hexec := exec_scanCompletion hdue samples bus
  generalize completeScan (s.advance dt) job samples bus = t at *
  have hit : i.val < t.cfg.stringCount := by rwa [hcfg]
  have hc := carries_finish (s.advance dt) t
  refine ⟨_, hexec, fun hopen => ?_, fun hclosed => ?_⟩
  · rw [hreset, scanStep_unfound _ _ _ rfl, if_neg (by rw [completedView, hopen]; nofun)] at hseq hevid
    have hheld : CauseSet.has t.evid[i].latched .held = true := by rw [hevid]; exact latchHeld_held ..
    have hstate : t.seqs[i].state = .opened := by rw [hseq]; rfl
    refine ⟨?_, finish_isolated _ hit (latched_ne_zero hheld), ?_, ?_⟩
    · rw [finish_opened _ hit (latched_ne_zero hheld) hstate, hstate]
    · rw [hc.evid, hheld]
    · rw [hc.evid, hevid]
      rfl
  · rw [hreset, scanStep_unfound _ _ _ rfl, if_pos (by rw [completedView, hclosed])] at hseq hevid
    have hseq : t.seqs[i] = { Seq.reset with state := .closed } := hseq
    have hcarried := finish_carried_of_closed (s.advance dt) (isPresent_iff.mpr hit) (by rw [hseq])
    rw [hseq] at hcarried
    refine ⟨?_, fun ht => hcarried.eq ht rfl rfl, fun ht => hcarried.asks ht rfl rfl⟩
    rw [hc.evid, hevid]
    exact completedEvid_first job samples[i] _ i hfound

/-! ## The causes -/

theorem evalClass_closed {q : Seq} {m : Meas} (hq : q.state = .closed) (hm : m.valid = true) :
    evalClass q m = if q.probation = 0 then .running else .probation := if_pos ⟨hq, hm⟩

/-- Settles O45: the evaluation gives the verdicts, and what the switches report afterwards moves none of them. -/
theorem causesAreConfirmed : Obligations.CausesAreConfirmed := by
  intro dt samples bus s job i hdue hfound hi hj
  obtain ⟨_, hevid, hcfg, _, _⟩ := completeScan_later (dt := dt) (samples := samples) bus hi hj
  have hexec := exec_scanCompletion hdue samples bus
  generalize completeScan (s.advance dt) job samples bus = t at *
  have hit : i.val < t.cfg.stringCount := by rwa [hcfg]
  have htarget := fun hl => finish_isolated (s.advance dt) hit hl
  have hc := carries_finish (s.advance dt) t
  have hsame := completedEvid_found job samples[i] t.scan.median i hfound
  replace hsame := hsame.trans (hevid ▸ sameMeasured_reportedEvid ..)
  refine ⟨_, hexec, ?_⟩
  generalize finish (s.advance dt) t = u at *
  rw [← hc.scan, ← hc.evid] at hsame
  rw [← hc.evid] at htarget
  refine ⟨htarget, ?_⟩
  intro e e' current rev ovc cleared
  refine ⟨fun hs hp => ?_, fun hs hp => ?_, fun hs => ?_⟩
  · obtain ⟨hprobation, ⟨hrc, hoc, hr, ho⟩, hgoesOn, hcloses⟩ :=
      runningJudged_eval ((evalClass_closed hs rfl).trans (if_pos hp)) hsame
    rw [← deviates_eq] at hgoesOn hcloses
    exact ⟨hprobation, hrc, hoc, hr, ho, hgoesOn, hcloses _ rfl⟩
  · obtain ⟨⟨hr, ho, hd, hcounts⟩, hprobation⟩ := probationJudged_eval ((evalClass_closed hs rfl).trans (if_neg hp)) hsame
    exact ⟨⟨hr, ho, hd, hcounts⟩, hprobation⟩
  · obtain ⟨⟨hr, ho, hd, hcounts⟩, hprobation⟩ := notJudged_eval (if_neg fun h => hs h.1) hsame
    exact ⟨⟨hr, ho, hd, hcounts⟩, hprobation⟩

end Sys2Proof.Claims

/-! The work of one sequencer at a scan completion (O46): what it comes to in each switch state, and how the event ends for it. -/

namespace Sys2Proof.Claims

open Sys2Proof Sys2Proof.Machine

/-! ## The scan work by switch state -/

section scanStep
variable {q : Seq} (cfg : Config) {v : ScanView}

/-- A switch at rest whose sample is no second mismatch counts it alone (R74). -/
theorem scanStep_rest (hq : q.state ∈ [SwitchState.opened, .closeQueued, .openQueued])
    (hm : mismatches q (q.state == .openQueued) v.closed < 2) :
    q.scanStep cfg v = ({ q with mismatch := mismatches q (q.state == .openQueued) v.closed }, .none) := by
  cases q
  simp only [List.mem_cons, List.not_mem_nil, or_false] at hq
  rcases hq with hq | hq | hq
  all_goals
    subst hq
    exact if_neg (Nat.not_le.mpr hm)

/-- R68, R74: a CLOSED switch counts its probation down. -/
theorem scanStep_closed (hq : q.state = .closed) (hm : mismatches q true v.closed < 2) :
    q.scanStep cfg v = ({ q with probation := q.probation - 1, mismatch := mismatches q true v.closed }, .none) := by
  cases q
  subst hq
  exact if_neg (Nat.not_le.mpr hm)

theorem scanStep_closed_mismatched (hq : q.state = .closed) (hm : 2 ≤ mismatches q true v.closed) :
    q.scanStep cfg v = ({ q with state := .opened, probation := q.probation - 1, mismatch := 0 }, .heldOther) := by
  simp only [Seq.scanStep, hq]
  exact if_pos hm

theorem scanStep_openQueued_mismatched (hq : q.state = .openQueued) (hm : 2 ≤ mismatches q true v.closed) :
    q.scanStep cfg v = ({ q with state := .opened, mismatch := 0 }, .none) := by
  simp only [Seq.scanStep, hq]
  exact if_pos hm

/-- On the open side the second mismatch in a row goes to OPEN_QUEUED; in QUALIFY it goes before the close that the count brings (log 10). -/
theorem scanStep_openSide_mismatched (hq : q.state ∈ [SwitchState.opened, .qualify, .closeQueued])
    (hm : 2 ≤ mismatches q false v.closed) : ∃ q', q.scanStep cfg v = (q', .heldOther) ∧ q'.state = .openQueued := by
  simp only [List.mem_cons, List.not_mem_nil, or_false] at hq
  rcases hq with hq | hq | hq
  all_goals
    simp only [Seq.scanStep, hq]
    exact ⟨_, if_pos hm, rfl⟩

theorem scanStep_qualify (hq : q.state = .qualify) (hm : mismatches q false v.closed < 2) :
    q.scanStep cfg v = (({ q with mismatch := mismatches q false v.closed } : Seq).qualifyStep cfg v, .none) := by
  cases q
  subst hq
  exact if_neg (Nat.not_le.mpr hm)

theorem scanStep_closing (hq : q.state = .closing) : q.scanStep cfg v = (q, .none) := by
  simp only [Seq.scanStep, hq]

section zeroCheck
variable (hq : q.state = .opening) (ha : q.act = none) (hb : q.bypassOffAt < v.scanStart)
include hq ha hb

/-- R70: an open whose current is below I_zero has succeeded. -/
theorem scanStep_opening_succeeds (hz : v.current.natAbs < cfg.iZero) (hs : v.saturated = false) :
    q.scanStep cfg v = ({ q with state := .opened, mismatch := if v.closed then 1 else 0 }, .none) := by
  simp [Seq.scanStep, hq, ha, hb, hz, hs, Seq.enter]

theorem scanStep_opening_fails (hz : cfg.iZero ≤ v.current.natAbs ∨ v.saturated = true) : q.scanStep cfg v = (q, .failed) := by
  have hc : (decide (v.current.natAbs < cfg.iZero) && !v.saturated) = false := by
    rcases hz with hz | hz
    · rw [decide_eq_false (Nat.not_lt.mpr hz), Bool.false_and]
    · rw [hz, Bool.not_true, Bool.and_false]
  simp [Seq.scanStep, hq, ha, hb, hc]

end zeroCheck

/-- Only an OPENING switch fails at a completion. -/
theorem opening_of_scanStep_failed (h : (q.scanStep cfg v).2 = .failed) : q.state = .opening := by
  unfold Seq.scanStep at h
  simp only at h
  split at h
  case h_7 hq => exact hq
  all_goals repeat' split at h
  all_goals cases h

/-! ## Qualification -/

theorem voltageMatch_iff {vMatch a b : Nat} : voltageMatch vMatch a b = true ↔ Near vMatch a b := by
  unfold voltageMatch Near
  rw [Bool.and_eq_true, decide_eq_true_eq, decide_eq_true_eq]
  omega

theorem qualifyStep_reached (hn : Near cfg.vMatch v.voltage v.bus) (hc : cfg.qualCount ≤ min 255 (q.qual + 1)) :
    q.qualifyStep cfg v = { q with state := .closeQueued, qual := min 255 (q.qual + 1), mismatch := 0 } := by
  unfold Seq.qualifyStep
  rw [if_pos (voltageMatch_iff.mpr hn)]
  exact if_pos hc

theorem qualifyStep_counts (hn : Near cfg.vMatch v.voltage v.bus) (hc : min 255 (q.qual + 1) < cfg.qualCount) :
    q.qualifyStep cfg v = { q with qual := min 255 (q.qual + 1) } := by
  unfold Seq.qualifyStep
  rw [if_pos (voltageMatch_iff.mpr hn)]
  exact if_neg (Nat.not_le.mpr hc)

theorem qualifyStep_far (hn : ¬ Near cfg.vMatch v.voltage v.bus) : q.qualifyStep cfg v = { q with qual := 0 } := by
  unfold Seq.qualifyStep
  exact if_neg fun h => hn (voltageMatch_iff.mp h)

end scanStep

end Sys2Proof.Claims

/-! A scan completion as its event ends for one sequencer (O46). -/

namespace Sys2Proof.Claims

open Sys2Proof Sys2Proof.Machine

/-! ## The WELD present flag -/

/-- R51: the evaluation sets WELD present where a FAILED contact's sample reads closed. -/
theorem completedEvid_weld (s : State) (job : ScanJob) (x : Sample) (median : Option Int) (i : Str) :
    CauseSet.has (completedEvid s job x median i).present .weld = (decide (s.seqs[i].state = .failed) && x.closed) := by
  have hsample : ((Machine.measure job (s.scan.number + 1) x).feedback == some true) = x.closed := by
    cases hc : x.closed <;> simp [Machine.measure, hc]
  have hfailed : (s.seqs[i].state == .failed) = decide (s.seqs[i].state = .failed) := rfl
  unfold completedEvid Evidence.judgeWeld
  rw [hsample, hfailed]
  exact (CauseSet.has_put _ _ _ _).trans (if_pos rfl)

/-- Only a failure reported by the switch moves it. -/
theorem reportedEvid_weld {r : ScanReport} (h : r ≠ .failed) (e : Evidence) (line : Bool) :
    CauseSet.has (reportedEvid e r line).present .weld = CauseSet.has e.present .weld := by
  cases r with
  | failed => exact absurd rfl h
  | none => rfl
  | heldFoundOpen => rfl
  | heldOther => rfl

/-- A string that is not CLOSED has nothing latched by a completion's evaluation. -/
theorem completedEvid_latched {s : State} {job : ScanJob} {x : Sample} {median : Option Int} {i : Str}
    (h : s.seqs[i].state ≠ .closed) : (completedEvid s job x median i).latched = s.evid[i].latched := by
  unfold completedEvid
  rw [judgeWeld_latched]
  split
  · exact eval_latched h
  · rfl

/-! ## The end of the event -/

/-- A switch that is OPEN, or begins to qualify. -/
def RestsOpen (q : Seq) : Prop := q.state = .opened ∨ q.state = .qualify ∧ q.qual = 0

/-- R62: a switch that rests open takes its target each time that targets are carried out. -/
theorem Carried.restsOpen {q : Seq} {u : State} {i : Str} (h : Carried q u i) (hq : RestsOpen q) :
    (u.table[i].target = .isolated → u.seqs[i].state = .opened)
      ∧ (u.table[i].target = .connected → u.seqs[i].state = .qualify ∧ u.seqs[i].qual = 0) := by
  rcases hq with hq | ⟨hq, hqual⟩
  · refine ⟨fun ht => ?_, fun ht => ?_⟩
    · rw [h.eq (q' := q) ht (by simp only [Seq.takeTarget, hq]) (by rw [Seq.waitsFor, hq]), hq]
    · rw [h.eq (q' := { q.enter .qualify with qual := 0 }) ht (by simp only [Seq.takeTarget, hq]) rfl]
      exact ⟨rfl, rfl⟩
  · refine ⟨fun ht => ?_, fun ht => ?_⟩
    · rw [h.eq (q' := { q.enter .opened with qual := 0 }) ht (by simp only [Seq.takeTarget, hq]) rfl]
      rfl
    · rw [h.eq (q' := q) ht (by simp only [Seq.takeTarget, hq]) (by rw [Seq.waitsFor, hq])]
      exact ⟨hq, hqual⟩

section completed
variable {s t : State} {now : Nat} {job : ScanJob} {x : Sample} {bus : Int} {i : Str}
  (h : StringCompleted s t now job x bus i) (hi : i.val < s.cfg.stringCount) (s₀ : State)
include h

theorem StringCompleted.weld (hq : s.seqs[i].state ≠ .opening ∨ (finish s₀ t).seqs[i].state ≠ .failed) :
    CauseSet.has (finish s₀ t).evid[i].present .weld = (decide (s.seqs[i].state = .failed) && x.closed) := by
  have hreport : (s.seqs[i].scanStep s.cfg (completedView job x bus)).2 ≠ .failed := by
    intro hr
    have hseq := h.seq
    unfold reportedSeq at hseq
    rw [hr] at hseq
    have hfailed : t.seqs[i].state = .failed := by rw [hseq]; rfl
    rcases hq with hq | hq
    · exact hq (opening_of_scanStep_failed s.cfg hr)
    · exact hq (by rw [finish_failed s₀ hfailed, hfailed])
  rw [(carries_finish s₀ t).evid, h.evid, reportedEvid_weld hreport, completedEvid_weld]

/-- Work that reports nothing leaves its sequencer to the end of the event. -/
theorem StringCompleted.quiet {q' : Seq} (hw : s.seqs[i].scanStep s.cfg (completedView job x bus) = (q', .none)) :
    t.seqs[i] = q' ∧ t.evid[i] = completedEvid s job x t.scan.median i := by
  obtain ⟨hseq, hevid, _⟩ := h
  rw [hw] at hseq hevid
  exact ⟨hseq, hevid⟩

include hi

theorem StringCompleted.ended {q' : Seq} (hw : s.seqs[i].scanStep s.cfg (completedView job x bus) = (q', .none))
    (hn : NoTestStarts s (finish s₀ t)) : Ended q' (finish s₀ t) i := by
  have hended := ended_finish (targetsStand_of_noTest h.search hn) (i := i) (by rwa [h.cfg])
  rwa [(h.quiet hw).1] at hended

/-- R50, R74: work that latches HELD of origin OTHER isolates its string. -/
theorem StringCompleted.held {q' : Seq} (hw : s.seqs[i].scanStep s.cfg (completedView job x bus) = (q', .heldOther)) :
    t.seqs[i] = q' ∧ t.evid[i].latched ≠ 0 ∧ CauseSet.has (finish s₀ t).evid[i].latched .held = true
      ∧ (finish s₀ t).evid[i].heldOrigin = some .other ∧ (finish s₀ t).table[i].target = .isolated := by
  obtain ⟨hseq, hevid, hcfg, _, _⟩ := h
  rw [hw] at hseq hevid
  have hheld : CauseSet.has t.evid[i].latched .held = true := by rw [hevid]; exact latchHeld_held ..
  have hlatched := latched_ne_zero hheld
  have hc := carries_finish s₀ t
  refine ⟨hseq, hlatched, by rw [hc.evid, hheld], ?_, finish_isolated s₀ (by rwa [hcfg]) hlatched⟩
  rw [hc.evid, hevid]
  rfl

/-! ## By switch state -/

/-- R63: a switch in QUALIFY asks for its close when its count reaches Q. -/
theorem StringCompleted.qualifies (hq : s.seqs[i].state = .qualify) (hm : mismatches s.seqs[i] false x.closed < 2)
    (hn : NoTestStarts s (finish s₀ t)) :
    let near := Near s.cfg.vMatch (voltageOf job.vFs x.voltage) (voltageOf job.vFs bus)
    let n := min 255 (s.seqs[i].qual + 1)
    let counted := { s.seqs[i] with mismatch := mismatches s.seqs[i] false x.closed }
    (near → s.cfg.qualCount ≤ n → Ended { s.seqs[i] with state := .closeQueued, qual := n, mismatch := 0 } (finish s₀ t) i)
      ∧ (near → n < s.cfg.qualCount → Ended { counted with qual := n } (finish s₀ t) i)
      ∧ (¬ near → Ended { counted with qual := 0 } (finish s₀ t) i) := by
  have hw := scanStep_qualify s.cfg (v := completedView job x bus) hq hm
  have hended {q' : Seq} (hq' : Seq.qualifyStep _ s.cfg (completedView job x bus) = q') : Ended q' (finish s₀ t) i :=
    h.ended hi s₀ (hw.trans (congrArg (·, ScanReport.none) hq')) hn
  exact ⟨fun hnear hreached => hended (qualifyStep_reached s.cfg hnear hreached),
    fun hnear hcount => hended (qualifyStep_counts s.cfg hnear hcount), fun hfar => hended (qualifyStep_far s.cfg hfar)⟩

/-- R74: the contact of a CLOSED switch shows open for the second time. -/
theorem StringCompleted.opens (hq : s.seqs[i].state = .closed) (hm : 2 ≤ mismatches s.seqs[i] true x.closed) :
    (finish s₀ t).seqs[i] = { s.seqs[i] with state := .opened, probation := s.seqs[i].probation - 1, mismatch := 0 }
      ∧ CauseSet.has (finish s₀ t).evid[i].latched .held = true ∧ (finish s₀ t).evid[i].heldOrigin = some .other
      ∧ (finish s₀ t).table[i].target = .isolated := by
  obtain ⟨hseq, hlatched, hheld⟩ := h.held hi s₀ (scanStep_closed_mismatched s.cfg (v := completedView job x bus) hq hm)
  refine ⟨?_, hheld⟩
  rw [finish_opened s₀ (by rwa [h.cfg]) hlatched (by rw [hseq]), hseq]

/-- R74: the contact of a switch on the open side shows closed for the second time. -/
theorem StringCompleted.closes (hq : s.seqs[i].state ∈ [SwitchState.opened, .qualify, .closeQueued])
    (hm : 2 ≤ mismatches s.seqs[i] false x.closed) :
    OpensNext (finish s₀ t).seqs[i] ∧ (∀ e ∈ (finish s₀ t).arb.queue, e.str = i → e.kind = .open_)
      ∧ (finish s₀ t).table[i].target = .isolated
      ∧ CauseSet.has (finish s₀ t).evid[i].latched .held = true ∧ (finish s₀ t).evid[i].heldOrigin = some .other := by
  obtain ⟨q', hw, hq'⟩ := scanStep_openSide_mismatched s.cfg (v := completedView job x bus) hq hm
  obtain ⟨hseq, hlatched, hheld, horigin, htarget⟩ := h.held hi s₀ hw
  obtain ⟨hopens, hqueue⟩ := finish_opensNext s₀ (by rwa [h.cfg]) hlatched (by rw [hseq, hq'])
  exact ⟨hopens, hqueue, htarget, hheld, horigin⟩

/-- R70: an open that has succeeded is OPEN, or takes up its qualification at once. -/
theorem StringCompleted.zeroChecked (hq : s.seqs[i].state = .opening) (ha : s.seqs[i].act = none) (hb : s.seqs[i].bypassOffAt < job.start)
    (hz : (currentOf job.iFs x.current).natAbs < s.cfg.iZero) (hs : saturatedOf x.current = false) :
    ((finish s₀ t).table[i].target = .isolated → (finish s₀ t).seqs[i].state = .opened)
      ∧ ((finish s₀ t).table[i].target = .connected → (finish s₀ t).seqs[i].state = .qualify ∧ (finish s₀ t).seqs[i].qual = 0) := by
  obtain ⟨hseq, _⟩ := h.quiet (scanStep_opening_succeeds s.cfg (v := completedView job x bus) hq ha hb hz hs)
  have hp : isPresent t i = true := isPresent_iff.mpr (by rwa [h.cfg])
  obtain ⟨hisolated, hconnected⟩ := (carried_first s₀ hp).restsOpen (.inl (by rw [hseq]))
  refine (carried_second s₀ hp).restsOpen ?_
  cases ht : (carryOut (searchReact s₀ t)).table[i].target with
  | isolated => exact .inl (hisolated ht)
  | connected => exact .inr (hconnected ht)

/-- R73: an open with current flowing fails. -/
theorem StringCompleted.fails (hq : s.seqs[i].state = .opening) (ha : s.seqs[i].act = none) (hb : s.seqs[i].bypassOffAt < job.start)
    (hz : s.cfg.iZero ≤ (currentOf job.iFs x.current).natAbs ∨ saturatedOf x.current = true)
    (h₀ : s₀.seqs[i].state ≠ .failed) :
    (finish s₀ t).seqs[i].state = .failed ∧ CauseSet.has (finish s₀ t).evid[i].latched .weld = true
      ∧ CauseSet.has (finish s₀ t).evid[i].present .weld = s.lines[i] ∧ (finish s₀ t).pins.attnLow = true
      ∧ (s.search.phase ≠ .idle → SearchEnds s (finish s₀ t) now .abortedSwitch none) := by
  obtain ⟨hseq, hevid, hcfg, hsearch, hnow⟩ := h
  rw [scanStep_opening_fails s.cfg (v := completedView job x bus) hq ha hb hz] at hseq hevid
  have hfailed : t.seqs[i].state = .failed := by rw [hseq]; rfl
  have hit : i.val < t.cfg.stringCount := by rwa [hcfg]
  have hc := carries_finish s₀ t
  refine ⟨by rw [finish_failed s₀ hfailed, hfailed], ?_, ?_, finish_failed_attn s₀ hit hfailed, fun hp => ?_⟩
  · rw [hc.evid, hevid]
    exact weldedEvid_latched ..
  · rw [hc.evid, hevid]
    exact weldedEvid_present ..
  · rw [← hnow]
    exact searchEnds_of_endSearch (searchReact_failed s₀ hit hfailed h₀ (by rwa [hsearch])) hsearch hcfg

end completed

end Sys2Proof.Claims

/-! The sequencers at a scan completion (O46), clause by clause. -/

namespace Sys2Proof.Claims

open Sys2Proof Sys2Proof.Machine

/-- A switch that asks for its close waits for its grant, or has been given it (R63, R64). -/
theorem Ended.asksClose {q : Seq} {u : State} {i : Str} (h : Ended q u i) (hq : q.state = .closeQueued)
    (ht : u.table[i].target = .connected) :
    u.seqs[i] = q ∧ (q.grant ≠ .none ∨ ⟨i, .close_⟩ ∈ u.arb.queue)
      ∨ u.seqs[i].state = .closing ∧ u.seqs[i].grant = .held ∧ u.seqs[i].qual = q.qual := by
  refine ((h.takesTarget.closeQueued hq).2 ht).imp_right fun hs => ?_
  rw [hs]
  exact ⟨rfl, rfl, rfl⟩

/-- A switch that goes on qualifying is OPEN with its count 0 where the target is ISOLATED (R62). -/
theorem Ended.leavesQualify {q : Seq} {u : State} {i : Str} (h : Ended q u i) (hq : q.state = .qualify)
    (ht : u.table[i].target = .isolated) : u.seqs[i].state = .opened ∧ u.seqs[i].qual = 0 := by
  rw [(h.takesTarget.qualify hq).1 ht]
  exact ⟨rfl, rfl⟩

/-- Settles O46: each clause is the work of one switch state and the end of the event for what it leaves. -/
theorem switchesMoveAtScans : Obligations.SwitchesMoveAtScans := by
  intro dt samples bus s job i hdue hi hj q closed near
  have h := completeScan_later (dt := dt) (samples := samples) bus hi hj
  have hexec := exec_scanCompletion hdue samples bus
  generalize completeScan (s.advance dt) job samples bus = t at h hexec
  have hweld := h.weld (s.advance dt)
  have hended {q' : Seq} (hw : q.scanStep s.cfg (completedView job samples[i] bus) = (q', .none)) := h.ended hi (s.advance dt) hw
  have hqualify := h.qualifies hi (s.advance dt)
  have hopens := h.opens hi (s.advance dt)
  have hcloses := h.closes hi (s.advance dt)
  have hzero := h.zeroChecked hi (s.advance dt)
  have hfails := h.fails hi (s.advance dt)
  have hevid : (finish (s.advance dt) t).evid[i] = t.evid[i] := by rw [(carries_finish (s.advance dt) t).evid]
  refine ⟨_, hexec, ?_⟩
  generalize finish (s.advance dt) t = u at *
  refine ⟨hweld, fun hq hm hn => ?_, fun hq hm hn => ?_, hopens, fun hq hm => ?_, hcloses, fun hq hm hn => ?_, fun hq hn => ?_,
    fun hq ha hb => ⟨hzero hq ha hb, fun hz => hfails hq ha hb hz ?_⟩⟩
  · obtain ⟨hreached, hcounts, hfar⟩ := hqualify hq hm hn
    intro n asks
    refine ⟨fun hnear hc => ⟨fun ht => (hreached hnear hc).asksClose rfl ht, fun ht => ?_⟩, fun hnear hc => ?_, fun hnear => ?_,
      fun hno ht => ?_⟩
    · exact (((hreached hnear hc).takesTarget.closeQueued rfl).1 ht).1
    · exact ((hcounts hnear hc).takesTarget.qualify hq).2
    · exact ((hfar hnear).takesTarget.qualify hq).2
    · by_cases hnear : near
      · exact (hcounts hnear (Nat.not_le.mp fun hc => hno ⟨hnear, hc⟩)).leavesQualify hq ht
      · exact (hfar hnear).leavesQualify hq ht
  · exact (hended (scanStep_closed s.cfg hq hm) hn).takesTarget
  · have hw := scanStep_openQueued_mismatched s.cfg (v := completedView job samples[i] bus) hq hm
    refine ⟨?_, fun ht hn => ?_⟩
    · rw [hevid, (h.quiet hw).2]
      exact completedEvid_latched (by rw [hq]; nofun)
    · have hs := ((hended hw hn).takesTarget.opened rfl).2 ht
      exact ⟨hs, (hended hw hn).notQueued (by rw [hs]; rfl)⟩
  · exact (hended (scanStep_rest s.cfg hq hm) hn).takesTarget
  · exact (hended (scanStep_closing s.cfg hq) hn).takesTarget
  · rw [advance_seqs, hq]
    nofun

end Sys2Proof.Claims

/-! The actuation queue and the grants through the end of an event (O10, O11): what the blocks' own work may do to them, what the arbiter
makes of the queue, and how many grants it gives. -/

namespace Sys2Proof.Machine

/-! ## The grants of one sequencer -/

/-- R77: an actuation holds its grant until its last pulse has ended: only the travel of a close, of a second open pulse, or of a drive
carried to its end may outlast it. -/
def Seq.HoldsGrant (q : Seq) : Prop :=
  ∀ a, q.act = some a → a.phase ≠ .travel ∨ (q.state ≠ .unfound ∧ a.coil = .open_ ∧ q.retry = false) → q.grant = .held

/-- What R77 says of one sequencer outside reset: it holds its grant, and a drive carried to its end is of a string that is not present. -/
def Seq.GrantFits (q : Seq) (present : Bool) : Prop :=
  q.HoldsGrant ∧ (q.act.isSome = true → q.state = .unfound → present = false)

/-- What R77 says of every sequencer outside reset. -/
def GrantsFit (s : State) : Prop := ∀ i : Str, s.seqs[i].GrantFits (isPresent s i)

theorem grantsAgree_iff {s : State} :
    GrantsAgree s ↔ grantsInUse s ≤ s.arb.k ∧ (s.inReset = false → GrantsFit s) := by
  constructor
  · rintro ⟨hk, hheld, hwound⟩
    refine ⟨hk, fun hr i => ⟨fun a ha => hheld i a ha hr, fun ha hu => ?_⟩⟩
    exact (hwound i ha hu).resolve_left (by rw [hr]; simp)
  · rintro ⟨hk, hfit⟩
    refine ⟨hk, fun i a ha hr => (hfit hr i).1 a ha, fun i ha hu => ?_⟩
    cases hr : s.inReset with
    | true => exact .inl rfl
    | false => exact .inr ((hfit hr i).2 ha hu)

/-- Without an actuation there is nothing to hold a grant for. -/
theorem grantFits_of_none {q : Seq} (h : q.act = none) (p : Bool) : q.GrantFits p :=
  ⟨fun a ha => absurd (h.symm.trans ha) (by simp), fun ha => absurd ha (by simp [h])⟩

theorem grantFits_start (q : Seq) (c : Coil) (cfg : Config) (now : Nat) (p : Bool) : (q.start c cfg now).GrantFits p :=
  ⟨fun _ _ _ => rfl, fun _ hu => by cases c <;> cases hu⟩

/-- A sequencer that keeps its actuation, its grant and its retry mark, and has a switch state exactly where it had one. -/
structure Seq.SameDrive (q q' : Seq) : Prop where
  act   : q'.act = q.act
  grant : q'.grant = q.grant
  retry : q'.retry = q.retry
  found : q'.state = .unfound ↔ q.state = .unfound

theorem Seq.SameDrive.refl (q : Seq) : q.SameDrive q := ⟨rfl, rfl, rfl, .rfl⟩

theorem Seq.SameDrive.trans {a b c : Seq} (h : a.SameDrive b) (k : b.SameDrive c) : a.SameDrive c :=
  ⟨k.act.trans h.act, k.grant.trans h.grant, k.retry.trans h.retry, k.found.trans h.found⟩

theorem Seq.SameDrive.grantFits {q q' : Seq} (h : q.SameDrive q') {p : Bool} (hq : q.GrantFits p) : q'.GrantFits p := by
  obtain ⟨hheld, hwound⟩ := hq
  refine ⟨fun a ha hp => ?_, fun ha hu => ?_⟩
  · rw [h.act] at ha
    rw [h.retry, ne_eq q'.state, h.found] at hp
    exact h.grant.trans (hheld a ha hp)
  · rw [h.act] at ha
    exact hwound ha (h.found.mp hu)

/-! ## What an event's own work does to grants -/

/-- The work of a block at its event, as far as it concerns the grants: the arbiter stands, no grant is given, and grants that fit still
do. -/
structure Works (s t : State) : Prop where
  cfg     : t.cfg = s.cfg := by rfl
  arb     : t.arb = s.arb := by rfl
  inReset : t.inReset = s.inReset := by rfl
  adopted : t.capture.adopted = s.capture.adopted := by rfl
  txn     : s.inReset = true → s.txn = none → t.txn = none := by exact fun _ => id
  grant   : ∀ i : Str, s.seqs[i].grant = .none → t.seqs[i].grant = .none := by exact fun _ => id
  fits    : s.inReset = false → GrantsFit s → GrantsFit t := by exact fun _ => id

/-- The work of a command that ends no event: beside, every switch state and every grant stands. -/
structure Idles (s t : State) : Prop extends Works s t where
  state     : ∀ i : Str, t.seqs[i].state = s.seqs[i].state := by exact fun _ => rfl
  sameGrant : ∀ i : Str, t.seqs[i].grant = s.seqs[i].grant := by exact fun _ => rfl

theorem Works.refl (s : State) : Works s s := {}

theorem Works.trans {a b c : State} (h : Works a b) (k : Works b c) : Works a c where
  cfg := k.cfg.trans h.cfg
  arb := k.arb.trans h.arb
  inReset := k.inReset.trans h.inReset
  adopted := k.adopted.trans h.adopted
  txn hr ht := k.txn (h.inReset.trans hr) (h.txn hr ht)
  grant i hg := k.grant i (h.grant i hg)
  fits hr hf := k.fits (h.inReset.trans hr) (h.fits hr hf)

theorem Works.foldl {α : Type} (f : State → α → State) (h : ∀ s a, Works s (f s a)) (xs : List α) (s : State) :
    Works s (xs.foldl f s) := by
  induction xs generalizing s with
  | nil => exact .refl s
  | cons x xs ih => exact (h s x).trans (ih (f s x))

theorem Idles.refl (s : State) : Idles s s := {}

theorem Idles.trans {a b c : State} (h : Idles a b) (k : Idles b c) : Idles a c where
  toWorks := h.toWorks.trans k.toWorks
  state i := (k.state i).trans (h.state i)
  sameGrant i := (k.sameGrant i).trans (h.sameGrant i)

/-- A drive on every string as it was. -/
theorem grantsFit_of_sameDrive {s t : State} (hc : t.cfg = s.cfg) (h : ∀ i : Str, s.seqs[i].SameDrive t.seqs[i]) (hf : GrantsFit s) :
    GrantsFit t := by
  intro i
  rw [isPresent_congr hc]
  exact (h i).grantFits (hf i)

/-- The journal tracker's work gives no grant and moves no drive. -/
theorem Covers.works {s t : State} (h : Covers s t) (hq : ∀ i : Str, s.seqs[i].SameDrive t.seqs[i]) : Works s t where
  cfg := h.same.cfg
  arb := h.same.arb
  inReset := h.same.inReset
  adopted := h.same.adopted
  txn _ ht := h.same.txn.trans ht
  grant i hg := (hq i).grant.trans hg
  fits _ := grantsFit_of_sameDrive h.same.cfg hq

theorem Covers.idles {s t : State} (h : Covers s t) (hq : t.seqs = s.seqs) : Idles s t where
  toWorks := h.works fun i => by rw [hq]; exact .refl _
  state i := by rw [hq]
  sameGrant i := by rw [hq]

/-- One string's sequencer takes a new value. -/
theorem works_setSeq (s : State) (i : Str) (q : Seq) (hg : s.seqs[i].grant = .none → q.grant = .none)
    (hf : s.inReset = false → s.seqs[i].GrantFits (isPresent s i) → q.GrantFits (isPresent s i)) : Works s (s.setSeq i q) where
  grant j h := by
    by_cases hj : i = j
    · subst hj
      rw [setSeq_self]
      exact hg h
    · rwa [setSeq_other s hj]
  fits hr h j := by
    by_cases hj : i = j
    · subst hj
      rw [setSeq_self]
      exact hf hr (h i)
    · rw [setSeq_other s hj]
      exact h j

theorem idles_setSeq (s : State) (i : Str) (q : Seq) (hs : q.state = s.seqs[i].state) (hg : q.grant = s.seqs[i].grant)
    (hf : s.inReset = false → s.seqs[i].GrantFits (isPresent s i) → q.GrantFits (isPresent s i)) : Idles s (s.setSeq i q) where
  toWorks := works_setSeq s i q (fun h => hg.trans h) hf
  state j := by
    by_cases hj : i = j
    · subst hj
      rw [setSeq_self, hs]
    · rw [setSeq_other s hj]
  sameGrant j := by
    by_cases hj : i = j
    · subst hj
      rw [setSeq_self, hg]
    · rw [setSeq_other s hj]

/-! ## The search unit -/

/-- `t` differs from `s` at most in the strings' entries, their evidence and the search. -/
def Searches (s t : State) : Prop :=
  ∃ (tb : Vector Entry 24) (e : Vector Evidence 24) (x : Search), t = { s with table := tb, evid := e, search := x }

theorem Searches.refl (s : State) : Searches s s := ⟨_, _, _, rfl⟩

theorem Searches.trans {a b c : State} (h : Searches a b) (k : Searches b c) : Searches a c := by
  obtain ⟨_, _, _, rfl⟩ := h
  obtain ⟨_, _, _, rfl⟩ := k
  exact ⟨_, _, _, rfl⟩

theorem Searches.works {s t : State} (h : Searches s t) : Works s t := by
  obtain ⟨_, _, _, rfl⟩ := h
  exact {}

theorem searches_search (s : State) (x : Search) : Searches s { s with search := x } := ⟨_, _, _, rfl⟩

theorem searches_table (s : State) (v : Vector Entry 24) : Searches s { s with table := v } := ⟨_, _, _, rfl⟩

theorem searches_latch (s : State) (i : Str) (c : Cause) : Searches s (s.latch i c) := ⟨_, _, _, rfl⟩

theorem searches_setRoles (s : State) (held suspect : List Str) : Searches s (setRoles s held suspect) := searches_table s _

theorem searches_endSearch (s : State) (r : SearchResult) (f : Option Str) : Searches s (endSearch s r f) :=
  (searches_setRoles s [] []).trans (searches_search _ _)

theorem searches_nextTest (s : State) (xs : List Str) : Searches s (nextTest s xs) := by
  unfold nextTest
  split
  · split <;> exact searches_endSearch ..
  · exact (searches_setRoles s _ _).trans (searches_search _ _)

theorem searches_notConfirmed (s : State) : Searches s (notConfirmed s) := by
  unfold notConfirmed enterSweep
  simp only
  split
  · split
    · exact searches_endSearch ..
    · exact (searches_setRoles s _ _).trans (searches_search _ _)
  · exact searches_endSearch ..

theorem searches_beginStep (s : State) (xs : List Str) : Searches s (beginStep s xs) := by
  unfold beginStep
  split
  · exact (searches_search s _).trans (searches_notConfirmed _)
  · exact (searches_setRoles s _ _).trans (searches_search _ _)
  · exact (searches_setRoles s _ _).trans (searches_search _ _)

theorem searches_takeOvertaken (s : State) (gone : List Str) : Searches s (takeOvertaken s gone) := by
  have h : Searches s { s with
      table := mapAll (fun i e => if gone.contains i then { e with role := .none } else e) s.table } := searches_table s _
  refine h.trans ?_
  unfold takeOvertaken
  simp only
  repeat' split
  · exact .refl _
  · exact searches_endSearch ..
  · exact searches_search ..
  · exact searches_beginStep ..
  · exact (searches_search _ _).trans (searches_notConfirmed _)
  · exact (searches_search _ _).trans (searches_nextTest _ _)
  · exact searches_search ..
  · exact (searches_search _ _).trans (searches_endSearch _ _ _)
  · exact searches_search ..

theorem searches_searchReact (s₀ s₁ : State) : Searches s₁ (searchReact s₀ s₁) := by
  unfold searchReact
  simp only
  repeat' split
  · exact .refl _
  · exact searches_endSearch ..
  · exact searches_endSearch ..
  · exact searches_endSearch ..
  · exact .refl _
  · exact searches_takeOvertaken ..

theorem searches_judgeSwitchWait (s : State) : Searches s (judgeSwitchWait s) := by
  unfold judgeSwitchWait
  repeat' split
  · exact searches_search ..
  · exact searches_search ..
  · exact searches_nextTest ..
  all_goals exact .refl _

theorem searches_startSearch (s : State) : Searches s (startSearch s) := by
  have h := searches_setRoles s [] (closedStrings s)
  unfold startSearch
  simp only
  split
  · exact h.trans ((searches_search _ _).trans (searches_endSearch _ _ _))
  · exact h.trans (searches_search _ _)

theorem searches_endFound (s : State) (i : Str) : Searches s (endFound s i) :=
  (searches_latch s i .ground).trans (searches_endSearch _ _ _)

theorem searches_judgeValue (s : State) (v : Nat) : Searches s (judgeValue s v) := by
  unfold judgeValue
  simp only
  split
  · exact .refl s
  · split
    · exact searches_endSearch ..
    · exact searches_beginStep ..
  · repeat' split
    · exact searches_endFound ..
    · exact searches_beginStep ..
    · exact searches_beginStep ..
  · repeat' split
    · exact searches_endFound ..
    · exact searches_notConfirmed ..
    · exact searches_notConfirmed ..
  · split
    · exact .refl s
    · next i _ =>
      refine Searches.trans ?_ (searches_nextTest _ _)
      split
      · exact (searches_latch s i .ground).trans (searches_search _ _)
      · exact .refl s

theorem searches_judgeCompletion (s : State) : Searches s (judgeCompletion s) := by
  unfold judgeCompletion
  repeat' split
  · exact searches_endSearch ..
  · exact .refl s
  · exact searches_endSearch ..
  · exact searches_search ..
  · exact .refl s
  · exact searches_judgeValue ..
  · exact .refl s

theorem searches_searchOnCompletion (s : State) : Searches s (searchOnCompletion s) := by
  have hr : Searches s (recovered s) := by
    unfold recovered
    split
    · exact searches_search ..
    · exact .refl s
  unfold searchOnCompletion
  simp only
  split
  · split
    · exact hr.trans ((searches_search _ _).trans (searches_startSearch _))
    · exact hr.trans (searches_search _ _)
  · exact hr.trans (searches_judgeCompletion _)

/-! ## Sequencers that take their targets -/

theorem takeTarget_works (q : Seq) (t : Target) (now : Nat) :
    (q.grant = .none → (q.takeTarget t now).grant = .none) ∧ ∀ p, q.GrantFits p → (q.takeTarget t now).GrantFits p := by
  have hsame : ∀ q' : Seq, q.SameDrive q' → (q.grant = .none → q'.grant = .none) ∧ ∀ p, q.GrantFits p → q'.GrantFits p :=
    fun q' h => ⟨fun hg => h.grant.trans hg, fun _ => h.grantFits⟩
  unfold Seq.takeTarget
  split
  · next hq => exact hsame _ ⟨rfl, rfl, rfl, by rw [hq]; simp [Seq.enter]⟩
  · next hq => exact hsame _ ⟨rfl, rfl, rfl, by rw [hq]; simp [Seq.enter]⟩
  · next hq => exact hsame _ ⟨rfl, rfl, rfl, by rw [hq]; simp [Seq.enter]⟩
  · split
    · split
      · exact ⟨fun _ => rfl, fun p _ => grantFits_of_none rfl p⟩
      · exact hsame _ (.refl q)
    · exact hsame _ (.refl q)
  · next hq => exact hsame _ ⟨rfl, rfl, rfl, by rw [hq]; simp [Seq.enter]⟩
  · next hq => exact hsame _ ⟨rfl, rfl, rfl, by rw [hq]; simp [Seq.enter]⟩
  · exact hsame _ (.refl q)

theorem works_recompute (s : State) : Works s (recompute s) := (searches_table s _).works

theorem works_reconcile (s : State) : Works s (reconcile s) := by
  have hc := carries_reconcile s
  refine ⟨hc.cfg, reconcile_arb s, hc.inReset, by rw [hc.capture], fun _ ht => hc.txn.trans ht, fun i hg => ?_, fun _ hf i => ?_⟩
  · rw [reconcile_seq]
    split
    · exact (takeTarget_works _ _ _).1 hg
    · exact hg
  · rw [isPresent_congr hc.cfg, reconcile_seq]
    split
    · exact (takeTarget_works _ _ _).2 _ (hf i)
    · exact hf i

/-! ## The queue -/

/-- R78: what the queue keeps within an event: no string in it holds a grant, none has two entries, and every OPEN stands before every
CLOSE. -/
structure QueueReady (s : State) : Prop where
  free  : ∀ e ∈ s.arb.queue, s.seqs[e.str].grant = .none
  nodup : (s.arb.queue.map (·.str)).Nodup
  order : s.arb.queue.Pairwise fun a b => a.kind = .close_ → b.kind = .close_

theorem QueueAgrees.ready {s : State} (h : QueueAgrees s) : QueueReady s := by
  obtain ⟨hwaits, hnodup, horder⟩ := h
  exact ⟨fun e he => (hwaits e he).2, hnodup, horder⟩

theorem QueueReady.works {s t : State} (h : QueueReady s) (k : Works s t) : QueueReady t := by
  refine ⟨fun e he => ?_, by rw [k.arb]; exact h.nodup, by rw [k.arb]; exact h.order⟩
  rw [k.arb] at he
  exact k.grant _ (h.free e he)

theorem QueueAgrees.congr {s t : State} (h : QueueAgrees s) (hq : t.arb.queue = s.arb.queue)
    (hs : ∀ e ∈ s.arb.queue, t.seqs[e.str].waitsFor = s.seqs[e.str].waitsFor ∧ t.seqs[e.str].grant = s.seqs[e.str].grant) :
    QueueAgrees t := by
  obtain ⟨hwaits, hnodup, horder⟩ := h
  refine ⟨fun e he => ?_, by rw [hq]; exact hnodup, by rw [hq]; exact horder⟩
  rw [hq] at he
  obtain ⟨hw, hg⟩ := hs e he
  rw [hw, hg]
  exact hwaits e he

theorem QueueReady.withdraw {s : State} (h : QueueReady s) : QueueAgrees (withdraw s) := by
  have hsub : (Machine.withdraw s).arb.queue.Sublist s.arb.queue := List.filter_sublist
  refine ⟨fun e he => ?_, h.nodup.sublist (hsub.map _), h.order.sublist hsub⟩
  obtain ⟨hm, hw⟩ := List.mem_filter.mp he
  exact ⟨beq_iff_eq.mp hw, h.free e hm⟩

theorem QueueAgrees.applyPendingK {s : State} (h : QueueAgrees s) : QueueAgrees (applyPendingK s) := by
  unfold Machine.applyPendingK
  split
  · split
    · exact h.congr rfl fun _ _ => ⟨rfl, rfl⟩
    · exact h
  · exact h

theorem enqueue_order {queue : List QEntry} (h : queue.Pairwise fun a b => a.kind = .close_ → b.kind = .close_) (e : QEntry) :
    (enqueue queue e).Pairwise fun a b => a.kind = .close_ → b.kind = .close_ := by
  unfold enqueue
  split
  · next hk =>
    refine List.pairwise_append.mpr ⟨List.pairwise_append.mpr ⟨h.filter _, List.pairwise_singleton .., ?_⟩, h.filter _, ?_⟩
    · intro a ha b _ hc
      have := (List.mem_filter.mp ha).2
      rw [hc] at this
      cases this
    · intro a _ b hb _
      exact beq_iff_eq.mp (List.mem_filter.mp hb).2
  · next hk =>
    refine List.pairwise_append.mpr ⟨h, List.pairwise_singleton .., fun a _ b hb _ => ?_⟩
    rw [List.mem_singleton.mp hb, hk]

theorem enqueue_nodup {queue : List QEntry} (h : (queue.map (·.str)).Nodup) {e : QEntry} (he : ∀ x ∈ queue, x.str ≠ e.str) :
    ((enqueue queue e).map (·.str)).Nodup := by
  have hcons : ((e :: queue).map (·.str)).Nodup :=
    List.nodup_cons.mpr ⟨fun hm => by
      obtain ⟨x, hx, hs⟩ := List.mem_map.mp hm
      exact he x hx hs, h⟩
  unfold enqueue
  split
  · refine List.Nodup.sublist (l₂ := ((queue.filter fun x => x.kind == .open_) ++ [e]
      ++ queue.filter fun x => !(x.kind == .open_)).map (·.str)) (List.Sublist.map _ ?_) ?_
    · refine List.Sublist.append_left ?_ _
      have hclose : (queue.filter fun x => x.kind == .close_) = queue.filter fun x => !(x.kind == .open_) :=
        List.filter_congr fun x _ => by cases x.kind <;> rfl
      rw [hclose]
    · refine (List.Perm.nodup_iff (List.Perm.map _ ?_)).mpr hcons
      rw [List.append_assoc]
      exact List.perm_middle.trans ((List.filter_append_perm _ queue).cons e)
  · exact (List.Perm.nodup_iff ((List.perm_append_singleton e queue).map _)).mpr hcons

theorem QueueAgrees.request {s : State} (h : QueueAgrees s) (i : Str) : QueueAgrees (request s i) := by
  unfold Machine.request
  split
  · exact h
  · next c hc =>
    split
    · next hn =>
      simp only [Bool.and_eq_true, beq_iff_eq, Bool.not_eq_true', List.any_eq_false] at hn
      obtain ⟨⟨_, hg⟩, hnot⟩ := hn
      split
      · next he =>
        have hempty : s.arb.queue = [] := by simpa using (Bool.and_eq_true_iff.mp he).2
        refine h.congr rfl fun e he => ?_
        rw [hempty] at he
        cases he
      · obtain ⟨hwaits, hnodup, horder⟩ := h
        refine ⟨fun e he => ?_, enqueue_nodup hnodup hnot, enqueue_order horder _⟩
        rcases mem_enqueue he with rfl | he
        · exact ⟨hc, hg⟩
        · exact hwaits e he
    · exact h

theorem QueueAgrees.requestAll {s : State} (h : QueueAgrees s) : QueueAgrees (requestAll s) := by
  unfold Machine.requestAll
  induction allStrings generalizing s with
  | nil => exact h
  | cons i is ih => exact ih (h.request i)

theorem QueueAgrees.grantHeads (n : Nat) {s : State} (h : QueueAgrees s) : QueueAgrees (grantHeads n s) := by
  induction n generalizing s with
  | zero => exact h
  | succ n ih =>
    unfold Machine.grantHeads
    split
    · exact h
    · next e rest hq =>
      split
      · refine ih ?_
        obtain ⟨hwaits, hnodup, horder⟩ := h
        rw [hq] at hwaits hnodup horder
        obtain ⟨hfresh, hnodup⟩ := List.nodup_cons.mp hnodup
        refine ⟨fun x hx => ?_, hnodup, (List.pairwise_cons.mp horder).2⟩
        have hne : e.str ≠ x.str := fun he => hfresh (List.mem_map.mpr ⟨x, hx, he.symm⟩)
        rw [giveGrant_seq_other _ hne]
        exact hwaits x (List.mem_cons_of_mem _ hx)
      · exact h

/-- R78: the arbiter leaves the queue in order. -/
theorem QueueReady.arbitrate {s : State} (h : QueueReady s) : QueueAgrees (arbitrate s) := by
  unfold Machine.arbitrate
  exact h.withdraw.applyPendingK.requestAll.grantHeads _

theorem QueueReady.carryOut {s : State} (h : QueueReady s) : QueueAgrees (carryOut s) := by
  unfold Machine.carryOut
  exact ((h.works (works_recompute s)).works (works_reconcile _)).arbitrate

theorem queueAgrees_refreshPins {s : State} (h : QueueAgrees s) : QueueAgrees (refreshPins s) := h

/-- R78 at the end of every event. -/
theorem QueueReady.finish {s₁ : State} (s₀ : State) (h : QueueReady s₁) : QueueAgrees (finish s₀ s₁) := by
  have hreact := h.works (searches_searchReact s₀ s₁).works
  unfold Machine.finish
  have hsecond := (hreact.carryOut.ready.works (searches_judgeSwitchWait _).works).carryOut
  exact queueAgrees_refreshPins hsecond

/-! ## The number of grants -/

theorem grantsInUse_le {s t : State} (h : ∀ i : Str, s.seqs[i].grant = .none → t.seqs[i].grant = .none) :
    grantsInUse t ≤ grantsInUse s := by
  unfold grantsInUse
  refine (List.monotone_filter_right allStrings fun i hi => ?_).length_le
  rw [bne_iff_ne] at hi ⊢
  exact fun hn => hi (h i hn)

/-- One grant given is one grant more at most. -/
theorem grantsInUse_giveGrant (s : State) (i : Str) (c : Coil) : grantsInUse (giveGrant s i c) ≤ grantsInUse s + 1 := by
  unfold grantsInUse
  have hsub : (allStrings.filter fun j => (giveGrant s i c).seqs[j].grant != .none).Subperm
      (i :: allStrings.filter fun j => s.seqs[j].grant != .none) := by
    refine ((List.nodup_finRange 24).filter _).subperm fun j hj => ?_
    by_cases hij : i = j
    · subst hij
      exact List.mem_cons_self
    · rw [List.mem_filter, giveGrant_seq_other s hij] at hj
      exact List.mem_cons_of_mem _ (List.mem_filter.mpr hj)
  simpa using hsub.length_le

theorem grantsInUse_giveGrant_le {s : State} (h : slotFree s = true) (i : Str) (c : Coil) :
    grantsInUse (giveGrant s i c) ≤ s.arb.k := by
  have hless : grantsInUse s < s.arb.k := of_decide_eq_true (Bool.and_eq_true_iff.mp h).1
  exact (grantsInUse_giveGrant s i c).trans hless

/-- R77 within an event: the grants in use stay within K, and each grant fits its drive. -/
structure GrantsReady (s : State) : Prop where
  within : grantsInUse s ≤ s.arb.k
  fits   : s.inReset = false → GrantsFit s

theorem GrantsAgree.ready {s : State} (h : GrantsAgree s) : GrantsReady s := by
  obtain ⟨hk, hf⟩ := grantsAgree_iff.mp h
  exact ⟨hk, hf⟩

theorem GrantsReady.agree {s : State} (h : GrantsReady s) : GrantsAgree s := grantsAgree_iff.mpr ⟨h.within, h.fits⟩

theorem GrantsReady.works {s t : State} (h : GrantsReady s) (k : Works s t) : GrantsReady t := by
  refine ⟨?_, fun hr => ?_⟩
  · rw [k.arb]
    exact (grantsInUse_le k.grant).trans h.within
  · rw [k.inReset] at hr
    exact k.fits hr (h.fits hr)

theorem GrantsReady.giveGrant {s : State} (h : GrantsReady s) (hslot : slotFree s = true) (i : Str) (c : Coil) :
    GrantsReady (giveGrant s i c) := by
  refine ⟨grantsInUse_giveGrant_le hslot i c, fun hr j => ?_⟩
  by_cases hj : i = j
  · subst hj
    rw [giveGrant_seq_self]
    exact grantFits_start ..
  · rw [giveGrant_seq_other s hj]
    exact h.fits hr j

theorem GrantsReady.applyPendingK {s : State} (h : GrantsReady s) : GrantsReady (applyPendingK s) := by
  unfold Machine.applyPendingK
  split
  · split
    · next hk => exact ⟨hk, h.fits⟩
    · exact h
  · exact h

theorem GrantsReady.request {s : State} (h : GrantsReady s) (i : Str) : GrantsReady (request s i) := by
  unfold Machine.request
  split
  · exact h
  · split
    · split
      · next hs => exact h.giveGrant (Bool.and_eq_true_iff.mp hs).1 i _
      · exact ⟨h.within, h.fits⟩
    · exact h

theorem GrantsReady.requestAll {s : State} (h : GrantsReady s) : GrantsReady (requestAll s) := by
  unfold Machine.requestAll
  induction allStrings generalizing s with
  | nil => exact h
  | cons i is ih => exact ih (h.request i)

theorem GrantsReady.grantHeads (n : Nat) {s : State} (h : GrantsReady s) : GrantsReady (grantHeads n s) := by
  induction n generalizing s with
  | zero => exact h
  | succ n ih =>
    unfold Machine.grantHeads
    split
    · exact h
    · next e rest _ =>
      split
      · next hs =>
        have hrest : GrantsReady { s with arb := { s.arb with queue := rest } } := ⟨h.within, h.fits⟩
        exact ih (hrest.giveGrant hs e.str e.kind)
      · exact h

theorem GrantsReady.arbitrate {s : State} (h : GrantsReady s) : GrantsReady (arbitrate s) := by
  have hw : GrantsReady (withdraw s) := ⟨h.within, h.fits⟩
  unfold Machine.arbitrate
  exact hw.applyPendingK.requestAll.grantHeads _

theorem GrantsReady.carryOut {s : State} (h : GrantsReady s) : GrantsReady (carryOut s) := by
  unfold Machine.carryOut
  exact ((h.works (works_recompute s)).works (works_reconcile _)).arbitrate

theorem grantsReady_refreshPins {s : State} (h : GrantsReady s) : GrantsReady (refreshPins s) := ⟨h.within, h.fits⟩

/-- R77 at the end of every event. -/
theorem GrantsReady.finish {s₁ : State} (s₀ : State) (h : GrantsReady s₁) : GrantsReady (finish s₀ s₁) := by
  have hreact := h.works (searches_searchReact s₀ s₁).works
  unfold Machine.finish
  have hsecond := (hreact.carryOut.works (searches_judgeSwitchWait _).works).carryOut
  exact grantsReady_refreshPins hsecond

end Sys2Proof.Machine

/-! The work of every command, as far as it concerns the grants and the queue: what an event does before its end, and what a command that
ends no event leaves. -/

namespace Sys2Proof.Machine

/-! ## The journal tracker -/

/-- Every string's drive is as it was. -/
def Drives (s t : State) : Prop := ∀ i : Str, s.seqs[i].SameDrive t.seqs[i]

theorem Drives.refl (s : State) : Drives s s := fun _ => .refl _

theorem Drives.trans {a b c : State} (h : Drives a b) (k : Drives b c) : Drives a c := fun i => (h i).trans (k i)

theorem drives_of_seqs {s t : State} (h : t.seqs = s.seqs) : Drives s t := fun i => by rw [h]; exact .refl _

theorem seqs_foldl {α : Type} (f : State → α → State) (h : ∀ s a, (f s a).seqs = s.seqs) (xs : List α) (s : State) :
    (xs.foldl f s).seqs = s.seqs := by
  induction xs generalizing s with
  | nil => rfl
  | cons x xs ih => exact (ih (f s x)).trans (h s x)

theorem openHead_seqs (s : State) : s.openHead.seqs = s.seqs := by
  unfold State.openHead
  simp only
  split <;> rfl

theorem sectorErased_seqs (s : State) (j : Nat) : (sectorErased s j).seqs = s.seqs := openHead_seqs _

theorem attemptAdoption_seqs (s : State) : (attemptAdoption s).seqs = s.seqs := by
  unfold attemptAdoption
  simp only
  split
  · split <;> rfl
  · rfl

theorem failErase_seqs (s : State) (r : CommitResult) : (failErase s r).seqs = s.seqs := by
  cases h : s.journal.erase with
  | none =>
    unfold failErase
    rw [h]
  | some c => rw [failErase_eq s c r h]

theorem confirmErase_seqs (s : State) : (confirmErase s).seqs = s.seqs := by
  unfold confirmErase
  simp only
  split
  · rfl
  · split
    · rfl
    · split
      · exact attemptAdoption_seqs _
      · split
        · exact (attemptAdoption_seqs _).trans (sectorErased_seqs _ _)
        · exact sectorErased_seqs _ _

theorem resolveErase_seqs (s : State) (err : Bool) : (resolveErase s err).seqs = s.seqs := by
  unfold resolveErase
  split
  · exact failErase_seqs ..
  · exact confirmErase_seqs s

theorem pauseErase_seqs (s : State) : (pauseErase s).seqs = s.seqs := by
  unfold pauseErase
  repeat' split
  all_goals rfl

theorem resumeErase_seqs (s : State) : (resumeErase s).seqs = s.seqs := by
  unfold resumeErase
  repeat' split
  all_goals rfl

/-- R75: a released WELD gives a FAILED switch a position, and moves no drive. -/
theorem sameDrive_unwelded (s : State) (i : Str) (q : Seq) : q.SameDrive (unwelded s i q) := by
  unfold unwelded
  split
  · next hq =>
    split
    · exact ⟨rfl, rfl, rfl, by rw [hq]; simp [Seq.enter]⟩
    · exact ⟨rfl, rfl, rfl, by rw [hq]; simp [Seq.enter]⟩
  · exact .refl q

theorem drives_applyRecords (s : State) (rs : List (Nat × Record)) : Drives s (applyRecords s rs) := by
  intro i
  rw [applyRecords_seq]
  split
  · exact sameDrive_unwelded ..
  · exact .refl _

theorem drives_resolveProgram (s : State) (err : Bool) : Drives s (resolveProgram s err) := by
  cases h : s.journal.prog with
  | none =>
    unfold resolveProgram
    rw [h]
    exact .refl s
  | some c =>
    cases err with
    | true => rw [resolveProgram_failed h]; exact .refl s
    | false => rw [Claims.resolveProgram_confirmed h]; exact drives_applyRecords s.dropProg _

theorem expireProgram_seqs (s : State) : (expireProgram s).seqs = s.seqs := by
  cases h : s.journal.prog with
  | none =>
    unfold expireProgram
    rw [h]
  | some c => rw [expireProgram_eq h]

theorem drives_endBoth {s : State} {f : State → State} (h : Drives s (f s)) (r : CommitResult) : Drives s (endBoth s f r) :=
  h.trans (drives_of_seqs (failErase_seqs (f s) r))

theorem drives_moveMirror (s : State) (busy susp err : Bool) : Drives s (moveMirror s busy susp err) := by
  unfold moveMirror
  split
  · exact .refl s
  · exact .refl s
  · split
    · exact .refl s
    · exact drives_resolveProgram s err
  · repeat' split
    · exact .refl s
    · exact drives_of_seqs (pauseErase_seqs s)
    · exact drives_of_seqs (resolveErase_seqs s err)
  · repeat' split
    · exact drives_of_seqs (resumeErase_seqs s)
    · exact .refl s
    · exact drives_of_seqs (failErase_seqs s _)
  · repeat' split
    · exact .refl s
    · exact drives_resolveProgram s err
    · exact drives_endBoth (f := fun s => resolveProgram s err) (drives_resolveProgram s err) _

theorem works_observe (s : State) (cfg : Config) (b : Byte) : Works s (observe s cfg b) :=
   by
  have h := drives_moveMirror (s.setWel (if b.getLsbD cfg.welBit then .set else .clear)) (b.getLsbD cfg.busyBit)
    (b.getLsbD cfg.suspBit) (b.getLsbD cfg.errBit)
  exact (covers_observe s cfg b).works h

theorem works_programTimeout (s : State) : Works s (programTimeout s) := by
  refine (tracks_programTimeout s).covers.works ?_
  unfold programTimeout
  split
  · exact drives_endBoth (drives_of_seqs (expireProgram_seqs s)) _
  · exact drives_of_seqs (expireProgram_seqs s)

theorem acceptAppend_seqs (s : State) (image : List (Option Byte)) : (acceptAppend s image).seqs = s.seqs := openHead_seqs _

/-! ## Reads -/

theorem coverRead_seqs (s : State) (r : ReadStream) : (coverRead s r).seqs = s.seqs := by
  refine (attemptAdoption_seqs _).trans (seqs_foldl _ (fun s p => ?_) _ s)
  unfold coverPage
  split <;> rfl

theorem freeSlots_seqs (s : State) (d : Doubt) (n : Nat) : (freeSlots s d n).seqs = s.seqs := by
  unfold freeSlots
  simp only
  repeat' split
  all_goals rfl

theorem drives_resolveDoubt (s : State) (d : Doubt) (seen : List Summary) : Drives s (resolveDoubt s d seen) := by
  unfold resolveDoubt
  simp only
  exact (drives_of_seqs (freeSlots_seqs (s.setSlots _ _) d _)).trans (drives_applyRecords _ _)

theorem drives_compareRead (s : State) (r : ReadStream) : Drives s (compareRead s r) := by
  have hmarks := fun xs s => seqs_foldl markDamage (fun _ _ => rfl) xs s
  have herased := fun xs s => seqs_foldl sectorErased sectorErased_seqs xs s
  unfold compareRead
  simp only
  generalize Option.bind _ _ = doubt
  cases doubt with
  | none =>
    simp only
    split
    · exact .refl s
    · exact drives_of_seqs ((herased _ _).trans (hmarks _ _))
  | some shown =>
    simp only
    split
    · exact .refl s
    · exact (drives_of_seqs ((herased _ _).trans (hmarks _ _))).trans (drives_resolveDoubt _ _ _)

theorem works_journalRead (s : State) (t : Txn) : Works s (journalRead s t) := by
  refine (covers_journalRead s t).works ?_
  unfold journalRead
  repeat' split
  · exact Drives.refl s
  · exact drives_of_seqs (coverRead_seqs ..)
  · exact drives_of_seqs (coverRead_seqs ..)
  · exact drives_compareRead _ _
  · exact drives_compareRead _ _

theorem works_capture (s : State) (c : Capture) (h : c.adopted = s.capture.adopted) : Works s { s with capture := c } :=
  { adopted := h }

theorem works_captureSegment (r : ReadStream) (s : State) (j : Fin 8) : Works s (captureSegment r s j) := by
  obtain ⟨c, hc, ha⟩ := captureSegment_adopted r s j
  rw [hc]
  exact works_capture s c ha

/-- What a read's release comes to: work that adopts no configuration, or such work and a first or a later adoption (R173, R174). -/
theorem readEffects_cases (s : State) (t : Txn) : ∃ x, Works s x ∧
    (readEffects s t = x ∨ (x.capture.adopted = true ∧ ∃ c, readEffects s t = laterAdoption x c)
      ∨ x.capture.adopted = false ∧ ∃ c, readEffects s t = firstAdoption x c) := by
  have hread := (works_journalRead s t).trans
    (Works.foldl (captureSegment t.readStream) (works_captureSegment _) (List.finRange 8) _)
  unfold readEffects configRead judgeBlock
  simp only
  generalize (List.finRange 8).foldl (captureSegment t.readStream) (journalRead s t) = y at hread
  have hclear : Works s (clearSegments y) := hread.trans (works_capture y _ rfl)
  split
  · split
    · refine ⟨clearSegments y, hclear, ?_⟩
      split
      · next ha => exact .inr (.inl ⟨ha, _, rfl⟩)
      · next ha => exact .inr (.inr ⟨eq_false_of_ne_true ha, _, rfl⟩)
    · exact ⟨_, hclear.trans (works_capture _ { (clearSegments y).capture with state := .bad } rfl), .inl rfl⟩
  · exact ⟨y, hread, .inl rfl⟩

/-! ## Switches -/

theorem recharge_none {q : Seq} (h : q.grant = .none) (now tRch : Nat) : q.recharge now tRch = .none := by
  rw [Seq.recharge, h]

theorem endAct_act (q : Seq) (now : Nat) : (q.endAct now).act = none := by
  unfold Seq.endAct
  split
  · assumption
  · rfl

theorem endAct_grant {q : Seq} (h : q.grant = .none) (now : Nat) : (q.endAct now).grant = .none := by
  unfold Seq.endAct
  split
  · exact h
  · exact recharge_none h ..

/-- A sequencer whose bypass goes off and that takes no grant. -/
theorem works_setSeq_off (s : State) (i : Str) (q : Seq) (ha : q.act = none) (hg : s.seqs[i].grant = .none → q.grant = .none) :
    Works s (s.setSeq i q) := works_setSeq s i q hg fun _ _ => grantFits_of_none ha _

theorem idles_disturb (s : State) : Idles s s.disturb := {}

theorem works_disturb (s : State) : Works s s.disturb := (idles_disturb s).toWorks

theorem works_setEvid (s : State) (i : Str) (e : Evidence) : Works s (s.setEvid i e) := {}

theorem travelled_off (q : Seq) (c : Coil) (cfg : Config) (now : Nat) :
    (q.travelled c cfg now).act = none ∧ (q.grant = .none → (q.travelled c cfg now).grant = .none) := by
  unfold Seq.travelled Seq.finishTravel
  split
  · exact ⟨rfl, id⟩
  · split
    · exact ⟨endAct_act q now, fun h => endAct_grant h now⟩
    · exact ⟨endAct_act q now, fun h => endAct_grant h now⟩

theorem works_failSwitch (s : State) (i : Str) : Works s (failSwitch s i) := by
  have h := works_setSeq_off s i { (s.seqs[i].endAct s.now).enter .failed with probation := 0, qual := 0 }
    (endAct_act _ _) fun h => endAct_grant h _
  unfold failSwitch
  simp only
  split
  · exact (h.trans (works_disturb _)).trans (works_setEvid _ _ _)
  · exact h.trans (works_setEvid _ _ _)

theorem works_failClose (s : State) (i : Str) : Works s (failClose s i) :=
  have h := works_setSeq_off s i ((s.seqs[i].endAct s.now).enter .opened) (endAct_act _ _) fun h => endAct_grant h _
  (h.trans (works_disturb _)).trans (works_setEvid _ _ _)

theorem works_endWind (s : State) (i : Str) : Works s (s.actuate i (s.seqs[i].endWind s.now)) :=
  (works_setSeq_off s i (s.seqs[i].endWind s.now) rfl fun h => h).trans (works_disturb _)

theorem actIn_eq_some {s : State} {i : Str} {p : ActPhase} {a : Act} (h : actIn s i p = some a) :
    s.inReset = false ∧ s.seqs[i].act = some a ∧ a.phase = p := by
  unfold actIn at h
  split at h
  · cases h
  · next hr =>
    obtain ⟨ha, hp⟩ := Option.filter_eq_some_iff.mp h
    exact ⟨eq_false_of_ne_true hr, ha, beq_iff_eq.mp hp⟩

/-- A sequencer as its pulse ends: the last pulse of a sequence leaves the grant to its recharge (R77). -/
def Seq.pulseEnded (q : Seq) (a : Act) (now : Nat) : Seq :=
  if Seq.lastPulse { q with pulseEndedAt := now } a then
    { q with pulseEndedAt := now, grant := Seq.recharge { q with pulseEndedAt := now } now a.tRch }
  else { q with pulseEndedAt := now }

theorem endPulse_eq (s : State) (i : Str) (a : Act) :
    endPulse s i a = s.actuate i
      (if a.seen then (s.seqs[i].pulseEnded a s.now).travelled a.coil s.cfg s.now
      else { s.seqs[i].pulseEnded a s.now with act := some { a with phase := .travel } }) := by
  unfold endPulse
  split <;> rfl

theorem pulseEnded_grant {q : Seq} (h : q.grant = .none) (a : Act) (now : Nat) : (q.pulseEnded a now).grant = .none := by
  unfold Seq.pulseEnded
  split
  · exact recharge_none (q := { q with pulseEndedAt := now }) h ..
  · exact h

theorem pulseEnded_leaves (q : Seq) (a : Act) (now : Nat) :
    (q.pulseEnded a now).state = q.state ∧ (q.pulseEnded a now).retry = q.retry := by
  unfold Seq.pulseEnded
  split <;> exact ⟨rfl, rfl⟩

/-- R72, log 9: the first pulse of an open is not known to be its last. -/
theorem pulseEnded_first {q : Seq} {a : Act} (hfound : q.state ≠ .unfound) (hcoil : a.coil = .open_) (hfirst : q.retry = false)
    (now : Nat) : (q.pulseEnded a now).grant = q.grant := by
  unfold Seq.pulseEnded
  rw [if_neg]
  rw [Seq.lastPulse, Seq.winding, hcoil, hfirst, beq_false_of_ne hfound]
  simp

/-- R77: the first pulse of an open keeps its grant through its travel; after any other the grant may go. -/
theorem works_endPulse {s : State} {i : Str} {a : Act} (ha : s.seqs[i].act = some a) (hp : a.phase = .pulse) :
    Works s (endPulse s i a) := by
  rw [endPulse_eq]
  refine Works.trans (works_setSeq s i _ ?_ ?_) (works_disturb _)
  · intro hg
    split
    · exact (travelled_off ..).2 (pulseEnded_grant hg ..)
    · exact pulseEnded_grant hg ..
  · rintro - ⟨hheld, hwound⟩
    obtain ⟨hstate, hretry⟩ := pulseEnded_leaves s.seqs[i] a s.now
    split
    · exact grantFits_of_none (travelled_off ..).1 _
    · refine ⟨fun b hb hopen => ?_, fun _ hu => hwound (by rw [ha]; rfl) (hstate.symm.trans hu)⟩
      obtain rfl := Option.some.inj hb
      obtain ⟨hfound, hcoil, hfirst⟩ := hopen.resolve_left (fun h => h rfl)
      have hgrant := pulseEnded_first (a := a) (fun h => hfound (hstate.trans h)) hcoil (hretry.symm.trans hfirst) s.now
      exact hgrant.trans (hheld a ha (.inl (by rw [hp]; nofun)))

theorem works_feedbackSeen {s : State} {i : Str} {a : Act} (ha : s.seqs[i].act = some a) : Works s (feedbackSeen s i a) := by
  unfold feedbackSeen
  simp only
  split
  · obtain ⟨hoff, hgone⟩ := travelled_off s.seqs[i] a.coil s.cfg s.now
    exact (works_setSeq_off s i _ hoff hgone).trans (works_disturb _)
  · split
    · refine works_setSeq s i _ id fun _ ⟨hheld, hwound⟩ => ⟨fun b hb => ?_, fun _ => hwound (by rw [ha]; rfl)⟩
      obtain rfl := Option.some.inj hb
      exact hheld a ha
    · exact .refl s

/-- R83: in reset a feedback change is only remembered. -/
theorem idles_feedbackSeen {s : State} {i : Str} {a : Act} (hr : s.inReset = true) : Idles s (feedbackSeen s i a) := by
  unfold feedbackSeen
  simp only
  rw [if_neg (by rw [hr]; simp)]
  split
  · exact idles_setSeq s i _ rfl rfl fun h => absurd (hr.symm.trans h) (by simp)
  · exact .refl s

/-- R72: the wait before the second pulse keeps the grant that the first travel held. -/
theorem works_retryWait {s : State} {i : Str} {a : Act} (ha : s.seqs[i].act = some a) (hc : a.coil = .open_)
    (hw : s.seqs[i].winding = false) (hretry : s.seqs[i].retry = false) : Works s (retryWait s i a) := by
  have hfound : s.seqs[i].state ≠ .unfound := fun hu => by
    rw [Claims.winding_of hu ha] at hw
    cases hw
  refine works_setSeq s i _ id fun _ ⟨hheld, hwound⟩ => ⟨fun _ _ _ => ?_, fun _ => hwound (by rw [ha]; rfl)⟩
  exact hheld a ha (.inr ⟨hfound, hc, hretry⟩)

/-- A pulse starts with the grant of its sequence. -/
theorem idles_pulse {s : State} {i : Str} {a : Act} (ha : s.seqs[i].act = some a) (hp : a.phase ≠ .travel) : Idles s (pulse s i a) := by
  have h := idles_setSeq s i { s.seqs[i] with act := some (a.startPulse s.lines[i] s.now) } rfl rfl fun _ ⟨hheld, hwound⟩ =>
    ⟨fun _ _ _ => hheld a ha (.inl hp), fun _ => hwound (by rw [ha]; rfl)⟩
  exact h.trans (idles_disturb _)

/-- A grant that recharges is of no drive that must hold it. -/
theorem works_returnGrant {s : State} {i : Str} {x : Nat} (h : s.seqs[i].grant = .recharging x) :
    Works s (s.setSeq i { s.seqs[i] with grant := .none }) := by
  refine works_setSeq s i _ (fun _ => rfl) fun _ ⟨hheld, hwound⟩ => ⟨fun a ha hp => ?_, hwound⟩
  have := h.symm.trans (hheld a ha hp)
  cases this

/-! ## The scan work -/

theorem sameDrive_qualifyStep {q : Seq} (hq : q.state ≠ .unfound) (cfg : Config) (v : ScanView) : q.SameDrive (q.qualifyStep cfg v) := by
  unfold Seq.qualifyStep
  simp only
  repeat' split
  · exact ⟨rfl, rfl, rfl, by simp [Seq.enter, hq]⟩
  · exact ⟨rfl, rfl, rfl, .rfl⟩
  · exact ⟨rfl, rfl, rfl, .rfl⟩

/-- Scan work on a switch that has a state moves no drive. -/
theorem sameDrive_scanStep {q : Seq} (hq : q.state ≠ .unfound) (cfg : Config) (v : ScanView) : q.SameDrive (q.scanStep cfg v).1 := by
  have hcount (b : Bool) : q.SameDrive (q.countMismatch b v) := ⟨rfl, rfl, rfl, .rfl⟩
  have hmoved (x : SwitchState) (m p : Nat) (hx : x ≠ .unfound) : q.SameDrive { q with state := x, mismatch := m, probation := p } :=
    ⟨rfl, rfl, rfl, by simp [hx, hq]⟩
  have hquals := (hcount false).trans (sameDrive_qualifyStep (q := q.countMismatch false v) hq cfg v)
  unfold Seq.scanStep
  simp only
  split
  · next hu => exact absurd hu hq
  · split
    · exact hmoved _ _ _ nofun
    · exact hcount _
  · split
    · exact hquals.trans ⟨rfl, rfl, rfl, by simp [Seq.enter, hquals.found, hq]⟩
    · exact hquals
  · split
    · exact hmoved _ _ _ nofun
    · exact hcount _
  · split
    · exact hmoved _ _ _ nofun
    · exact ⟨rfl, rfl, rfl, .rfl⟩
  · split
    · exact hmoved _ _ _ nofun
    · exact hcount _
  · split
    · split
      · exact hmoved _ _ _ nofun
      · exact .refl q
    · exact .refl q
  · exact .refl q
  · exact .refl q

theorem scanStep_grant (q : Seq) (cfg : Config) (v : ScanView) : (q.scanStep cfg v).1.grant = q.grant := by
  by_cases hq : q.state = .unfound
  · rw [Claims.scanStep_unfound q cfg v hq]
    split <;> rfl
  · exact (sameDrive_scanStep hq cfg v).grant

theorem scanStep_fits {q : Seq} (h : q.GrantFits true) (cfg : Config) (v : ScanView) : (q.scanStep cfg v).1.GrantFits true := by
  by_cases hq : q.state = .unfound
  · have hnone : q.act = none := by
      by_contra hn
      exact absurd (h.2 (Option.isSome_iff_ne_none.mpr hn) hq) (by simp)
    refine grantFits_of_none ?_ true
    rw [Claims.scanStep_unfound q cfg v hq]
    split <;> exact hnone
  · exact (sameDrive_scanStep hq cfg v).grantFits h

theorem works_scanString (start : Nat) (s : State) (i : Str) : Works s (scanString start s i) := by
  unfold scanString
  simp only
  split
  · next hp _ =>
    have hset (cfg : Config) (v : ScanView) : Works s (s.setSeq i (s.seqs[i].scanStep cfg v).1) :=
      works_setSeq s i _ (fun h => (scanStep_grant ..).trans h) fun _ h => by
        rw [hp] at h ⊢
        exact scanStep_fits h cfg v
    split
    · exact hset _ _
    · exact (hset _ _).trans (works_setEvid _ _ _)
    · exact (hset _ _).trans (works_setEvid _ _ _)
    · exact (hset _ _).trans (works_failSwitch _ _)
  · exact .refl s

theorem works_evaluateAll (s : State) : Works s (evaluateAll s) := by
  obtain ⟨_, hq⟩ : ∃ e, evaluateAll s = { s with evid := e } := ⟨_, rfl⟩
  rw [hq]
  exact {}

theorem works_writeRecords (s : State) (job : ScanJob) (xs : Vector Sample 24) (bus : Int) : Works s (writeRecords s job xs bus) := by
  obtain ⟨_, _, hq⟩ : ∃ m x, writeRecords s job xs bus = { s with meas := m, scan := x } := ⟨_, _, rfl⟩
  rw [hq]
  exact {}

theorem works_completeScan (s : State) (job : ScanJob) (xs : Vector Sample 24) (bus : Int) : Works s (completeScan s job xs bus) := by
  have hfold := Works.foldl (scanString job.start) (works_scanString job.start) allStrings (evaluateAll (writeRecords s job xs bus))
  have h := ((works_writeRecords s job xs bus).trans (works_evaluateAll _)).trans hfold
  unfold completeScan
  simp only
  generalize allStrings.foldl (scanString job.start) (evaluateAll (writeRecords s job xs bus)) = t at h
  exact h.trans {}

end Sys2Proof.Machine

/-! Invariants of the grants and of the queue (O10, O11): what holds after every event, if it holds within one, holds after every step. -/

namespace Sys2Proof.Machine

/-- `I` holds after every command and `J` within an event: an event's work keeps `J`, and its end brings `I`. -/
structure EventInvariant (I J : State → Prop) : Prop where
  ready   : ∀ {s}, I s → J s
  works   : ∀ {s t}, J s → Works s t → J t
  idles   : ∀ {s t}, I s → Idles s t → I t
  ends    : ∀ {s₀ s₁}, J s₁ → I (finish s₀ s₁)
  reads   : ∀ {s t}, (∃ x, s.txn = some x) → I s → ∀ r b e, J (readEffects (s.release r b e) t)
  powerOn : ∀ s cut, I (dropState s cut)
  reset   : ∀ (s : State) cut, I { dropState s cut with seqs := mapAll (fun _ q => q.resetInput) s.seqs }
  starts  : ∀ {s}, I s → s.inReset = true → anyDrive s = false → ∀ sel1 sel0, I (releaseReset s sel1 sel0)

/-! ## The rows of the bus -/

/-- A new record is made only out of reset. -/
theorem idles_exchange {s : State} {t : Txn} (ht : s.txn = some t) (x : Txn) (y : Xfer) (b : Byte) : Idles s ((s.setTxn x).exchange y b) :=
  { txn := fun _ hn => absurd (hn.symm.trans ht) (by simp) }

theorem idles_release (s : State) (r : Release) (b : Byte) (e : MemEnd) : Idles s (s.release r b e) := { txn := fun _ _ => rfl }

theorem idles_mirror (s : State) (m : Mirror) : Idles s { s with mirror := m } := {}

theorem idles_window (s : State) (w : Vector Latch 25) : Idles s { s with window := w } := {}

theorem idles_unforwarded (s : State) (xs : List Xfer) (rel : Option Release) : Idles s (unforwarded s xs rel) := by
  unfold unforwarded
  simp only
  split
  · exact {}
  · exact {}

theorem idles_latchNext (s : State) (t : Txn) : Idles s (latchNext s t) := by
  obtain ⟨w, hw, _⟩ := latchNext_spec s t
  rw [hw]
  exact idles_window s w

theorem idles_passRead {s : State} {t : Txn} (ht : s.txn = some t) (x : Txn) (y : Xfer) (b : Byte) : Idles s (passRead s x y b) :=
  (idles_exchange ht x y b).trans (idles_latchNext _ _)

theorem idles_passByte (s : State) (x : Xfer) : Idles s (passByte s x) := by
  unfold passByte
  split
  · exact .refl s
  · next ht => exact idles_exchange ht ..

theorem idles_readByte (s : State) (x : Xfer) : Idles s (readByte s x) := by
  unfold readByte dataByte
  split
  · exact .refl s
  · next ht =>
    repeat' split
    · exact idles_exchange ht ..
    · exact idles_passRead ht ..
    · exact idles_exchange ht ..
    all_goals exact idles_passRead ht ..

theorem idles_programByte (s : State) (x : Xfer) : Idles s (programByte s x) := by
  unfold programByte
  split
  · exact .refl s
  · next ht => exact idles_exchange ht ..

theorem idles_eraseByte (s : State) (x : Xfer) : Idles s (eraseByte s x) := by
  unfold eraseByte
  split
  · exact .refl s
  · next ht => exact idles_exchange ht ..

theorem idles_wrenMirror (s : State) : Idles s (wrenMirror s) := by
  unfold wrenMirror
  split
  · exact idles_mirror s _
  · exact idles_mirror s _
  · exact idles_mirror s _
  all_goals exact .refl s

theorem idles_resumeMirror (s : State) : Idles s (resumeMirror s) := by
  unfold resumeMirror
  split
  · exact ((tracks_resumeErase s).covers.idles (resumeErase_seqs s)).trans (idles_mirror _ _)
  all_goals exact .refl s

theorem idles_endPlain {effect : State → State} (h : ∀ s, Idles s (effect s)) (s : State) (t : Txn) (r : Release) :
    Idles s (endPlain effect s t r) := by
  unfold endPlain
  split
  · exact (idles_release s ..).trans (h _)
  · exact (idles_release s ..).trans (idles_mirror _ _)

theorem idles_noteRefusal (s : State) (code : RefusalCode) (str : Option Str) : Idles s (noteRefusal s code str) := by
  unfold noteRefusal
  split
  · exact {}
  · exact .refl s

theorem idles_refuse (s : State) (t : Txn) (c : CmdClass) (r : Release) (code : RefusalCode) (str : Option Str) :
    Idles s (refuse s t c r code str) := by
  unfold refuse
  exact ((idles_release s ..).trans (idles_mirror _ _)).trans (idles_noteRefusal _ _ _)

theorem idles_commitProgram (s : State) (t : Txn) : Idles s (commitProgram s t) := by
  unfold commitProgram
  split
  · exact (tracks_acceptAppend s t.image).covers.idles (acceptAppend_seqs s t.image)
  · simp only
    split
    · exact {}
    · exact {}

theorem idles_commitErase (s : State) (t : Txn) (c : CmdClass) : Idles s (commitErase s t c) := by
  unfold commitErase acceptJournalErase
  simp only
  repeat' split
  all_goals exact {}

theorem idles_forwardWrite (s : State) (t : Txn) (c : CmdClass) (r : Release) : Idles s (forwardWrite s t c r) := by
  have h : Idles s (releasedMirror (s.release r r.x.miso .asSent) (isProtected s t c) c) :=
    (idles_release s r r.x.miso .asSent).trans {}
  unfold forwardWrite
  simp only
  repeat' split
  · exact h.trans (idles_commitProgram _ _)
  · exact h.trans (idles_commitErase _ _ _)
  · exact h

theorem idles_endWrite (s : State) (t : Txn) (c : CmdClass) (r : Release) : Idles s (endWrite c s t r) := by
  unfold endWrite
  repeat' split
  · exact idles_refuse ..
  · exact idles_forwardWrite ..
  · exact (idles_release s ..).trans (idles_mirror _ _)

theorem idles_endBlock (s : State) (t : Txn) (r : Release) : Idles s (endBlock s t r) := by
  unfold endBlock
  split
  · exact idles_release ..
  · exact idles_refuse ..

/-! ## Every command -/

section commands
variable {I J : State → Prop} (inv : EventInvariant I J)
include inv

theorem EventInvariant.event {s s₀ s₁ : State} (h : I s) (hw : Works s s₁) : I (finish s₀ s₁) := inv.ends (inv.works (inv.ready h) hw)

theorem EventInvariant.statusByte {s : State} (h : I s) (x : Xfer) : I (statusByte s x) := by
  unfold Machine.statusByte
  split
  · exact h
  · next t ht =>
    have hkeeps := (keeps_observe s t.cfg x.miso).trans (keeps_finish s _)
    exact inv.idles (inv.event h (works_observe s t.cfg x.miso)) (idles_exchange (hkeeps.txn.trans ht) ..)

theorem EventInvariant.endProgram {s : State} (h : I s) (t : Txn) (r : Release) : I (endProgram s t r) := by
  unfold Machine.endProgram
  split
  · exact inv.event h (idles_forwardWrite ..).toWorks
  · exact inv.idles h (idles_endWrite ..)

theorem EventInvariant.row {mine : Option CmdClass → Bool} {byte : State → Xfer → State} {finally_ : State → Txn → Release → State}
    (bytes : ∀ s x, I s → I (byte s x)) (ends : ∀ s t r, s.txn = some t → I s → I (finally_ s t r)) {s : State} (h : I s) (dt : Nat)
    (xs : List Xfer) (rel : Option Release) : I (busCommand (s.advance dt) mine xs rel byte finally_) :=
  busCommand_inv (fun s xs rel _ h => inv.idles h (idles_unforwarded s xs rel)) bytes ends xs rel (inv.idles h {})

/-- A row of a read (R110). -/
theorem EventInvariant.readRow {mine : Option CmdClass → Bool} {s : State} (h : I s) (dt : Nat) (xs : List Xfer) (rel : Option Release) :
    I (busCommand (s.advance dt) mine xs rel readByte endRead) :=
  inv.row (fun s x h => inv.idles h (idles_readByte s x)) (fun _ _ _ ht h => inv.ends (inv.reads ⟨_, ht⟩ h ..)) h dt xs rel

/-- A row whose bytes and release end no event. -/
theorem EventInvariant.idleRow {mine : Option CmdClass → Bool} {byte : State → Xfer → State} {finally_ : State → Txn → Release → State}
    (bytes : ∀ s x, Idles s (byte s x)) (ends : ∀ s t r, Idles s (finally_ s t r)) {s : State} (h : I s) (dt : Nat)
    (xs : List Xfer) (rel : Option Release) : I (busCommand (s.advance dt) mine xs rel byte finally_) :=
  inv.row (fun s x h => inv.idles h (bytes s x)) (fun s t r _ h => inv.idles h (ends s t r)) h dt xs rel

/-- A command that ends an event where its condition holds, and else only lets its time pass. -/
theorem EventInvariant.due {s s₀ s₁ : State} (h : I s) (p : Prop) [Decidable p] (hw : p → Works s s₁) :
    I (if p then finish s₀ s₁ else s) := by
  split
  · next hp => exact inv.event h (hw hp)
  · exact h

/-- A command that ends no event. -/
theorem EventInvariant.idle {s t : State} (h : I s) (p : Prop) [Decidable p] (hi : p → Idles s t) : I (if p then t else s) := by
  split
  · next hp => exact inv.idles h (hi hp)
  · exact h

/-- The state that a command answers, if it answers one, meets `I`. -/
def Answer (I : State → Prop) (o : Host.Outcome State Fault Refusal) : Prop := ∀ u, o = .next u → I u

omit inv in
theorem answer_next {v : State} (h : I v) : Answer I (.next v) := by
  rintro _ ⟨⟩
  exact h

theorem EventInvariant.later {s : State} (h : I s) (dt : Nat) : I (s.advance dt) := inv.idles h {}

/-- A pulse that starts at the end of a settle or of a retry wait. -/
theorem EventInvariant.pulse {s : State} (h : I s) {i : Str} {p : ActPhase} {a : Act} (hact : actIn s i p = some a) (hp : p ≠ .travel)
    (c : Prop) [Decidable c] : I (if c then pulse s i a else s) := by
  obtain ⟨_, hact, hphase⟩ := actIn_eq_some hact
  exact inv.idle h c fun _ => idles_pulse hact (by rw [hphase]; exact hp)

section timed
variable {s : State} (h : I s) (dt : Nat)
include h

theorem EventInvariant.chipSelectAssert (code : Option Xfer) : Answer I (execChipSelectAssert dt code s) := by
  refine answer_next ?_
  have hm : I (clearMarks (s.advance dt)) := inv.idles (inv.later h dt) (idles_window _ _)
  split
  · exact inv.idles hm {}
  · next hr => exact inv.idles hm { txn := fun hr' => absurd hr' hr }

theorem EventInvariant.resetDriveEnd (i : Str) : Answer I (execResetDriveEnd dt i s) := by
  unfold execResetDriveEnd
  simp only
  have hset (hr : (s.advance dt).inReset = true) (x : Option Act) :
      Idles (s.advance dt) ((s.advance dt).setSeq i { (s.advance dt).seqs[i] with act := x }) :=
    idles_setSeq _ i _ rfl rfl fun hn => absurd (hr.symm.trans hn) (by simp)
  split
  · exact answer_next (inv.later h dt)
  · refine answer_next ?_
    split
    · next hp => exact inv.idles (inv.later h dt) (hset (by simp_all) _)
    · exact inv.idle (inv.later h dt) _ fun hp => hset (by simp_all) _

theorem EventInvariant.resetRelease (sel1 sel0 : Bool) : Answer I (execResetRelease dt sel1 sel0 s) := by
  refine answer_next ?_
  split
  · next hr =>
    obtain ⟨hr, hd⟩ := Bool.and_eq_true_iff.mp hr
    exact inv.starts (inv.later h dt) hr (by simpa using hd) ..
  · exact inv.later h dt

theorem EventInvariant.scanCompletion (xs : Vector Sample 24) (bus : Int) : Answer I (execScanCompletion dt xs bus s) := by
  unfold execScanCompletion
  simp only
  split
  · exact answer_next (inv.later h dt)
  · exact answer_next (inv.due (inv.later h dt) _ fun _ => works_completeScan ..)

theorem EventInvariant.insulationCompletion (kohm : Nat) (inBand : Bool) : Answer I (execInsulationCompletion dt kohm inBand s) := by
  unfold execInsulationCompletion
  simp only
  split
  · exact answer_next (inv.later h dt)
  · next job _ =>
    have hiso : Works (s.advance dt) (startIso (writeIso (s.advance dt) job kohm inBand)) := {}
    exact answer_next (inv.due (inv.later h dt) _ fun _ => hiso.trans (searches_searchOnCompletion _).works)

theorem EventInvariant.shutdownRelease : Answer I (execShutdownRelease dt s) := by
  obtain ⟨evid, hl⟩ := Claims.latchSnapshot_eq (s.advance dt)
  have hw : Works (s.advance dt) (latchSnapshot (s.advance dt)) := by
    rw [hl]
    exact {}
  exact answer_next (inv.due (inv.later h dt) _ fun _ => hw.trans {})

theorem EventInvariant.closeSettleEnd (i : Str) : Answer I (execCloseSettleEnd dt i s) := by
  unfold execCloseSettleEnd
  simp only
  split
  · exact answer_next (inv.later h dt)
  · next hact => exact answer_next (inv.pulse (inv.later h dt) hact nofun _)

theorem EventInvariant.openSettleEnd (i : Str) : Answer I (execOpenSettleEnd dt i s) := by
  unfold execOpenSettleEnd
  simp only
  split
  · exact answer_next (inv.later h dt)
  · next hact => exact answer_next (inv.pulse (inv.later h dt) hact nofun _)

theorem EventInvariant.retryWaitEnd (i : Str) : Answer I (execRetryWaitEnd dt i s) := by
  unfold execRetryWaitEnd
  simp only
  split
  · exact answer_next (inv.later h dt)
  · next hact => exact answer_next (inv.pulse (inv.later h dt) hact nofun _)

theorem EventInvariant.coilPulseEnd (i : Str) : Answer I (execCoilPulseEnd dt i s) := by
  unfold execCoilPulseEnd
  simp only
  split
  · exact answer_next (inv.later h dt)
  · next hact =>
    obtain ⟨_, hact, hphase⟩ := actIn_eq_some hact
    exact answer_next (inv.due (inv.later h dt) _ fun _ => works_endPulse hact hphase)

theorem EventInvariant.feedbackLineChange (i : Str) (closed : Bool) : Answer I (execFeedbackLineChange dt i closed s) := by
  unfold execFeedbackLineChange
  simp only
  split
  · exact answer_next (inv.later h dt)
  · have hl : I { s.advance dt with lines := s.lines.set i closed } := inv.idles (inv.later h dt) {}
    split
    · exact answer_next hl
    · next hact =>
      refine answer_next ?_
      split
      · split
        · next hr => exact inv.idles hl (idles_feedbackSeen hr)
        · exact inv.event hl (works_feedbackSeen hact)
      · exact hl

theorem EventInvariant.closeTravelExpiry (i : Str) : Answer I (execCloseTravelExpiry dt i s) := by
  unfold execCloseTravelExpiry
  simp only
  split
  · exact answer_next (inv.later h dt)
  · refine answer_next (inv.due (inv.later h dt) _ fun _ => ?_)
    split
    · exact works_endWind ..
    · exact works_failClose ..

theorem EventInvariant.openTravelExpiry (i : Str) : Answer I (execOpenTravelExpiry dt i s) := by
  unfold execOpenTravelExpiry
  simp only
  split
  · exact answer_next (inv.later h dt)
  · next hact =>
    obtain ⟨_, hact, _⟩ := actIn_eq_some hact
    refine answer_next (inv.due (inv.later h dt) _ fun ⟨hc, _⟩ => ?_)
    split
    · exact works_endWind ..
    · next hw =>
      split
      · exact works_failSwitch ..
      · next hretry => exact works_retryWait hact hc (eq_false_of_ne_true hw) (eq_false_of_ne_true hretry)

theorem EventInvariant.grantReturn (i : Str) : Answer I (execGrantReturn dt i s) := by
  unfold execGrantReturn
  simp only
  split
  · next hg => exact answer_next (inv.due (inv.later h dt) _ fun _ => works_returnGrant hg)
  · exact answer_next (inv.later h dt)
  · exact answer_next (inv.later h dt)

theorem EventInvariant.programCommitTimeout : Answer I (execProgramCommitTimeout dt s) := by
  unfold execProgramCommitTimeout
  simp only
  split
  · exact answer_next (inv.later h dt)
  · exact answer_next (inv.due (inv.later h dt) _ fun _ => works_programTimeout _)

theorem EventInvariant.eraseCommitTimeout : Answer I (execEraseCommitTimeout dt s) := by
  unfold execEraseCommitTimeout
  simp only
  split
  · exact answer_next (inv.later h dt)
  · refine answer_next (inv.idle (inv.later h dt) _ fun _ => ?_)
    exact ((tracks_failErase (s.advance dt) .commitTimeout).covers.idles (failErase_seqs ..)).trans (idles_mirror _ _)

end timed

/-- What a command answers keeps the invariant. -/
theorem EventInvariant.exec {s : State} (h : I s) (c : Instr) : Answer I (exec c s) := by
  cases c with
  | chipSelectAssert dt code => exact inv.chipSelectAssert h dt code
  | read dt xs rel => exact answer_next (inv.readRow h dt xs rel)
  | readFast dt xs rel => exact answer_next (inv.readRow h dt xs rel)
  | status dt xs rel =>
    exact answer_next (inv.row (fun _ x h => inv.statusByte h x) (fun s _ _ _ h => inv.idles h (idles_release s ..)) h dt xs rel)
  | wren dt xs rel => exact answer_next (inv.idleRow idles_passByte (idles_endPlain idles_wrenMirror) h dt xs rel)
  | wrdi dt xs rel => exact answer_next (inv.idleRow idles_passByte (idles_endPlain fun s => idles_mirror s _) h dt xs rel)
  | suspend dt xs rel => exact answer_next (inv.idleRow idles_passByte (idles_endPlain Idles.refl) h dt xs rel)
  | resume dt xs rel => exact answer_next (inv.idleRow idles_passByte (idles_endPlain idles_resumeMirror) h dt xs rel)
  | program dt xs rel =>
    exact answer_next (inv.row (fun s x h => inv.idles h (idles_programByte s x)) (fun _ t r _ h => inv.endProgram h t r) h dt xs rel)
  | erase4k dt xs rel => exact answer_next (inv.idleRow idles_eraseByte (fun s t r => idles_endWrite s t _ r) h dt xs rel)
  | erase64k dt xs rel => exact answer_next (inv.idleRow idles_eraseByte (fun s t r => idles_endWrite s t _ r) h dt xs rel)
  | eraseAll dt xs rel => exact answer_next (inv.idleRow idles_passByte (fun s t r => idles_endWrite s t _ r) h dt xs rel)
  | pass dt xs rel => exact answer_next (inv.idleRow idles_passByte (fun s _ _ => idles_release s ..) h dt xs rel)
  | block dt xs rel => exact answer_next (inv.idleRow idles_passByte idles_endBlock h dt xs rel)
  | powerOn edge => exact answer_next (inv.powerOn ..)
  | resetInput edge => exact answer_next (inv.reset (s.advance edge.dt) edge.cut)
  | resetDriveEnd dt i => exact inv.resetDriveEnd h dt i
  | resetRelease dt sel1 sel0 => exact inv.resetRelease h dt sel1 sel0
  | scanStart dt => exact answer_next (inv.idle (inv.later h dt) _ fun _ => {})
  | scanCompletion dt xs bus => exact inv.scanCompletion h dt xs bus
  | insulationCompletion dt kohm inBand => exact inv.insulationCompletion h dt kohm inBand
  | searchSettleExpiry dt => exact answer_next (inv.idle (inv.later h dt) _ fun _ => {})
  | searchTimeout dt => exact answer_next (inv.due (inv.later h dt) _ fun _ => (searches_endSearch ..).works)
  | rearmTimerExpiry dt => exact answer_next (inv.idle (inv.later h dt) _ fun _ => {})
  | shdnLevelChange dt level =>
    refine answer_next ?_
    split
    · exact inv.later h dt
    · exact inv.idles (inv.later h dt) {}
  | shutdownActivation dt => exact answer_next (inv.due (inv.later h dt) _ fun _ => {})
  | shutdownRelease dt => exact inv.shutdownRelease h dt
  | maintLevelChange dt level =>
    refine answer_next ?_
    split
    · exact inv.later h dt
    · exact inv.idles (inv.later h dt) {}
  | maintActivation dt => exact answer_next (inv.idle (inv.later h dt) _ fun _ => {})
  | maintRelease dt => exact answer_next (inv.idle (inv.later h dt) _ fun _ => {})
  | closeSettleEnd dt i => exact inv.closeSettleEnd h dt i
  | openSettleEnd dt i => exact inv.openSettleEnd h dt i
  | retryWaitEnd dt i => exact inv.retryWaitEnd h dt i
  | coilPulseEnd dt i => exact inv.coilPulseEnd h dt i
  | feedbackLineChange dt i closed => exact inv.feedbackLineChange h dt i closed
  | closeTravelExpiry dt i => exact inv.closeTravelExpiry h dt i
  | openTravelExpiry dt i => exact inv.openTravelExpiry h dt i
  | grantReturn dt i => exact inv.grantReturn h dt i
  | programCommitTimeout dt => exact inv.programCommitTimeout h dt
  | eraseCommitTimeout dt => exact inv.eraseCommitTimeout h dt

/-- The invariant holds after every step: a step runs the command at the front on the rest of the queue. -/
theorem EventInvariant.step {s u : State} (h : I s) (e : step s = .next u) : I u := by
  unfold Machine.step at e
  split at e
  · cases e
    exact h
  · next c rest _ => exact inv.exec (s := { s with pending := rest }) (inv.idles h {}) c u e

end commands

end Sys2Proof.Machine

/-! The grants and the queue after every step (O10, O11). -/

namespace Sys2Proof.Machine

/-! ## Adoptions -/

theorem adoptK_seqs (s : State) (k : Nat) : (adoptK s k).seqs = s.seqs := by
  unfold adoptK
  split <;> rfl

theorem adoptK_queue (s : State) (k : Nat) : (adoptK s k).arb.queue = s.arb.queue := by
  unfold adoptK
  split <;> rfl

/-- R79: K never falls below the grants in use. -/
theorem adoptK_within {s : State} (h : grantsInUse s ≤ s.arb.k) (k : Nat) : grantsInUse s ≤ (adoptK s k).arb.k := by
  unfold adoptK
  split
  · next hk => exact hk
  · exact h

theorem leavePresence_seq (s : State) (n : Nat) (i : Str) :
    (leavePresence s n).seqs[i] = if leaves s n i then s.seqs[i].leave s.now else s.seqs[i] := by
  have h : (dropLeaving s n).seqs[i] = if leaves s n i then s.seqs[i].leave s.now else s.seqs[i] := mapAll_get _ s.seqs i
  unfold leavePresence
  split
  · exact h
  · exact h

theorem leavePresence_arb (s : State) (n : Nat) : (leavePresence s n).arb = s.arb := by
  unfold leavePresence
  split
  · simp only [disturb_arb, dropLeaving]
  · simp only [dropLeaving]

theorem leave_grant {q : Seq} (h : q.grant = .none) (now : Nat) : (q.leave now).grant = .none := by
  unfold Seq.leave
  split
  · exact h
  · split
    · rfl
    · exact endAct_grant h now
    · exact h
    · exact recharge_none h ..

/-- R81: of a string that leaves presence a pulse is carried on with its grant, and a travel without. -/
theorem leave_fits {q : Seq} {p : Bool} (h : q.GrantFits p) (now : Nat) : (q.leave now).GrantFits false := by
  refine ⟨fun a ha hp => ?_, fun _ _ => rfl⟩
  unfold Seq.leave at ha hp ⊢
  cases hq : q.act with
  | none =>
    simp only [hq] at ha
    exact absurd (hq.symm.trans ha) (by simp)
  | some b =>
    simp only [hq] at ha hp ⊢
    cases hphase : b.phase with
    | settle =>
      simp only [hphase] at ha
      cases ha
    | retryWait =>
      simp only [hphase] at ha
      exact absurd ((endAct_act q now).symm.trans ha) (by simp)
    | pulse => exact h.1 b hq (.inl (by rw [hphase]; nofun))
    | travel =>
      simp only [hphase] at ha hp
      obtain rfl := Option.some.inj (hq.symm.trans ha)
      rw [hphase] at hp
      exact absurd rfl (hp.resolve_left (fun h => h rfl)).1

theorem firstAdoption_seqs (s : State) (c : Config) : (firstAdoption s c).seqs = (leavePresence s c.stringCount).seqs :=
  adoptK_seqs ..

theorem firstAdoption_grant (s : State) (c : Config) (i : Str) (h : s.seqs[i].grant = .none) :
    (firstAdoption s c).seqs[i].grant = .none := by
  rw [firstAdoption_seqs, leavePresence_seq]
  split
  · exact leave_grant h _
  · exact h

/-- R2, R81, R169: every string was present before the first adoption, and one that leaves presence carries no grant that it must hold. -/
theorem firstAdoption_fits {s : State} (hf : GrantsFit s) (hc : s.cfg = Config.builtin) (c : Config) : GrantsFit (firstAdoption s c) := by
  intro i
  have hpresent : isPresent s i = true := by
    rw [Claims.isPresent_iff, hc]
    exact i.isLt
  have hleaves : leaves s c.stringCount i = decide (c.stringCount ≤ i.val) := by rw [leaves, hpresent, Bool.true_and]
  have hnew : isPresent (firstAdoption s c) i = decide (i.val < c.stringCount) := rfl
  rw [hnew, firstAdoption_seqs, leavePresence_seq, hleaves]
  by_cases hi : c.stringCount ≤ i.val
  · rw [decide_eq_true hi, decide_eq_false (Nat.not_lt.mpr hi)]
    exact leave_fits (hf i) _
  · rw [decide_eq_false hi, decide_eq_true (Nat.lt_of_not_le hi), if_neg Bool.false_ne_true]
    exact hpresent ▸ hf i

/-! ## Resets -/

theorem resetInput_seqs (v : Vector Seq 24) (i : Str) : (mapAll (fun _ q => q.resetInput) v)[i] = v[i].resetInput := mapAll_get ..

theorem grantsInUse_of_none {s : State} (h : ∀ i : Str, s.seqs[i].grant = .none) : grantsInUse s = 0 := by
  unfold grantsInUse
  rw [List.filter_eq_nil_iff.mpr fun i _ => by rw [h i]; simp]
  rfl

theorem act_of_not_anyDrive {s : State} (h : anyDrive s = false) (i : Str) : s.seqs[i].act = none := by
  by_contra hn
  have := List.any_eq_false.mp h i (List.mem_finRange i)
  exact this (Option.isSome_iff_ne_none.mpr hn)

/-! ## Works and the other invariants -/

theorem Works.quiet {s t : State} (k : Works s t) (h : ResetQuiet s) : ResetQuiet t := by
  obtain ⟨hbuiltin, hreset⟩ := h
  refine ⟨fun ha => ?_, fun hr => ?_⟩
  · rw [k.adopted] at ha
    exact k.cfg.trans (hbuiltin ha)
  · rw [k.inReset] at hr
    obtain ⟨ha, ht⟩ := hreset hr
    exact ⟨k.adopted.trans ha, k.txn hr ht⟩

theorem Idles.waitsFor {s t : State} (k : Idles s t) (i : Str) : t.seqs[i].waitsFor = s.seqs[i].waitsFor := by
  unfold Seq.waitsFor
  rw [k.state i]

theorem Idles.rests {s t : State} (k : Idles s t) (h : ArbiterRests s) : ArbiterRests t := by
  have hg : grantsInUse t = grantsInUse s := grantsInUse_congr k.sameGrant
  refine ⟨?_, ?_, fun i hp hw => ?_⟩
  · rw [k.arb, hg]
    exact h.heads
  · rw [k.arb, hg]
    exact h.pending
  · rw [k.arb, k.sameGrant i]
    rw [isPresent_congr k.cfg] at hp
    rw [k.waitsFor i] at hw
    exact h.requests i hp hw

theorem carries_quiet {s t : State} (k : Carries s t) (h : ResetQuiet s) : ResetQuiet t := by
  unfold ResetQuiet
  rw [k.capture, k.cfg, k.inReset, k.txn]
  exact h

/-! ## The queue -/

theorem QueueReady.congr {s t : State} (h : QueueReady s) (hq : t.arb.queue = s.arb.queue)
    (hg : ∀ i : Str, s.seqs[i].grant = .none → t.seqs[i].grant = .none) : QueueReady t :=
  ⟨fun e he => hg _ (h.free e (hq ▸ he)), by rw [hq]; exact h.nodup, by rw [hq]; exact h.order⟩

theorem queueAgrees_of_nil {s : State} (h : s.arb.queue = []) : QueueAgrees s := by
  unfold QueueAgrees
  rw [h]
  exact ⟨nofun, List.nodup_nil, List.Pairwise.nil⟩

theorem QueueReady.readEffects {s : State} (h : QueueReady s) (t : Txn) : QueueReady (readEffects s t) := by
  obtain ⟨x, hw, he⟩ := readEffects_cases s t
  have hx := h.works hw
  rcases he with he | ⟨_, c, he⟩ | ⟨_, c, he⟩
  · rw [he]
    exact hx
  · rw [he]
    have hq : (laterAdoption x c).arb.queue = x.arb.queue := adoptK_queue x c.grants
    have hs : (laterAdoption x c).seqs = x.seqs := adoptK_seqs x c.grants
    exact hx.congr hq fun i hg => by rw [hs]; exact hg
  · rw [he]
    have hq : (firstAdoption x c).arb.queue = (leavePresence x c.stringCount).arb.queue := adoptK_queue ..
    rw [leavePresence_arb] at hq
    exact hx.congr hq (firstAdoption_grant x c)

theorem queueInvariant : EventInvariant QueueAgrees QueueReady where
  ready h := h.ready
  works h k := h.works k
  idles h k := h.congr (by rw [k.arb]) fun e _ => ⟨k.waitsFor e.str, k.sameGrant e.str⟩
  ends h := h.finish _
  reads _ h r b e := (h.ready.works (idles_release _ r b e).toWorks).readEffects _
  powerOn _ _ := queueAgrees_of_nil rfl
  reset _ _ := queueAgrees_of_nil rfl
  starts h _ _ _ _ := h.congr rfl fun _ _ => ⟨rfl, rfl⟩

/-! ## The grants -/

/-- The invariant of O10. -/
def GrantsKept (s : State) : Prop := GrantsAgree s ∧ ArbiterRests s ∧ ResetQuiet s

/-- What it keeps within an event. -/
def GrantsWork (s : State) : Prop := GrantsReady s ∧ ResetQuiet s

theorem grantsWork_readEffects {s : State} (h : GrantsWork s) (hr : s.inReset = false) (t : Txn) :
    GrantsWork (readEffects s t) := by
  obtain ⟨hready, hquiet⟩ := h
  have hk := keeps_readEffects s t
  have hrest : (readEffects s t).inReset = true → (readEffects s t).capture.adopted = false ∧ (readEffects s t).txn = none :=
    fun h => absurd ((hk.inReset.trans hr).symm.trans h) (by simp)
  obtain ⟨x, hw, he⟩ := readEffects_cases s t
  have hx := hready.works hw
  rcases he with he | ⟨ha, c, he⟩ | ⟨ha, c, he⟩
  · rw [he]
    exact ⟨hx, hw.quiet hquiet⟩
  · rw [he] at hrest ⊢
    have hs : (laterAdoption x c).seqs = x.seqs := adoptK_seqs x c.grants
    have hpresent (i : Str) : isPresent (laterAdoption x c) i = isPresent x i := by
      change decide (i.val < (adoptK x c.grants).cfg.stringCount) = _
      rw [adoptK_cfg]
      rfl
    have hadopted : (laterAdoption x c).capture.adopted = true := (congrArg Capture.adopted (adoptK_capture x c.grants)).trans ha
    refine ⟨⟨?_, fun _ i => ?_⟩, fun hn => absurd (hadopted.symm.trans hn) (by simp), hrest⟩
    · rw [grantsInUse_congr (s := x) fun i => by rw [hs]]
      exact adoptK_within hx.within c.grants
    · rw [hs, hpresent]
      exact hx.fits (hw.inReset.trans hr) i
  · rw [he] at hrest ⊢
    have hgrants := grantsInUse_le (s := x) (t := leavePresence x c.stringCount) fun i hg =>
      (congrArg (fun v : Vector Seq 24 => v[i].grant) (firstAdoption_seqs x c)).symm.trans (firstAdoption_grant x c i hg)
    refine ⟨⟨?_, fun _ => firstAdoption_fits (hx.fits (hw.inReset.trans hr)) ((hw.quiet hquiet).1 ha) c⟩, nofun, hrest⟩
    rw [grantsInUse_congr (s := leavePresence x c.stringCount) fun i => by rw [firstAdoption_seqs]]
    refine adoptK_within (s := leavePresence x c.stringCount) ?_ c.grants
    rw [leavePresence_arb]
    exact hgrants.trans hx.within

/-- A part in reset with no grant, no entry and no switch state. -/
theorem grantsKept_reset {s : State} (hr : s.inReset = true) (ha : s.arb = Arb.reset) (hc : s.cfg = Config.builtin)
    (hn : s.capture.adopted = false) (ht : s.txn = none)
    (hs : ∀ i : Str, s.seqs[i].state = .unfound ∧ s.seqs[i].grant = .none) : GrantsKept s := by
  have hzero : grantsInUse s = 0 := grantsInUse_of_none fun i => (hs i).2
  refine ⟨grantsAgree_iff.mpr ⟨by rw [hzero]; exact Nat.zero_le _, fun h => absurd (hr.symm.trans h) (by simp)⟩, ⟨?_, ?_, ?_⟩,
    fun _ => hc, fun _ => ⟨hn, ht⟩⟩
  · rw [ha]
    exact fun _ => .inl rfl
  · rw [ha]
    nofun
  · intro i _ hw
    rw [Seq.waitsFor, (hs i).1] at hw
    exact absurd rfl hw

theorem grantsInvariant : EventInvariant GrantsKept GrantsWork where
  ready := fun ⟨hgrants, _, hquiet⟩ => ⟨hgrants.ready, hquiet⟩
  works := fun ⟨hready, hquiet⟩ k => ⟨hready.works k, k.quiet hquiet⟩
  idles := fun ⟨hgrants, hrests, hquiet⟩ k => ⟨(hgrants.ready.works k.toWorks).agree, k.rests hrests, k.toWorks.quiet hquiet⟩
  ends := fun ⟨hready, hquiet⟩ => ⟨(hready.finish _).agree, finish_rests .., carries_quiet (carries_finish _ _) hquiet⟩
  reads := by
    intro s _ ⟨x, htxn⟩ ⟨hgrants, _, hquiet⟩ r b e
    have hr : s.inReset = false := inReset_of_txn hquiet htxn
    have hrelease := idles_release s r b e
    exact grantsWork_readEffects ⟨hgrants.ready.works hrelease.toWorks, hrelease.toWorks.quiet hquiet⟩ hr _
  powerOn _ _ := grantsKept_reset rfl rfl rfl rfl rfl fun i => by
    change State.reset.seqs[i].state = _ ∧ State.reset.seqs[i].grant = _
    rw [reset_seqs]
    exact ⟨rfl, rfl⟩
  reset s cut := grantsKept_reset rfl rfl rfl rfl rfl fun i => by
    simp only [resetInput_seqs]
    exact ⟨rfl, rfl⟩
  starts := by
    intro s ⟨hgrants, hrests, hquiet⟩ hr hd sel1 sel0
    have hnone := act_of_not_anyDrive hd
    obtain ⟨hadopted, htxn⟩ := hquiet.2 hr
    have hcfg : (releaseReset s sel1 sel0).cfg = s.cfg := (hquiet.1 hadopted).symm
    refine ⟨grantsAgree_iff.mpr ⟨hgrants.ready.within, fun _ i => grantFits_of_none (hnone i) _⟩,
      hrests.congr hcfg rfl fun _ => rfl, fun _ => rfl, nofun⟩

end Sys2Proof.Machine

namespace Sys2Proof.Claims

open Sys2Proof Sys2Proof.Machine

/-- Settles O10: the grants stay within K and fit their drives within every event, and the arbiter leaves no work at its end. -/
theorem grantsNeverExceedK : Obligations.GrantsNeverExceedK := fun _ _ h e => grantsInvariant.step h e

/-- Settles O11: an event gives no grant to a string in the queue before its end, and there the arbiter keeps the queue in order. -/
theorem queueKeepsItsOrder : Obligations.QueueKeepsItsOrder := fun _ _ h e => queueInvariant.step h e

end Sys2Proof.Claims

/-! The timers of the disconnect switches and their feedback lines (O6, O54, O55, O56). -/

namespace Sys2Proof.Claims

open Sys2Proof Sys2Proof.Machine

/-! ## The starts of the pulses -/

theorem exec_closeSettleEnd {s : State} {dt : Nat} {i : Str} {a : Act} (h : Due s dt i a .close_ .settle a.until_) :
    exec (.closeSettleEnd dt i) s = .next (if mayClose (s.advance dt) i = true then pulse (s.advance dt) i a else s.advance dt) := by
  change execCloseSettleEnd dt i s = _
  unfold execCloseSettleEnd
  simp only [actIn_of_due h]
  obtain ⟨_, _, hcoil, _, hdue⟩ := h
  exact congrArg Host.Outcome.next (if_congr ⟨fun h => h.2.2, fun h => ⟨hcoil, hdue, h⟩⟩ rfl rfl)

theorem exec_openSettleEnd {s : State} {dt : Nat} {i : Str} {a : Act} (h : Due s dt i a .open_ .settle a.until_) :
    exec (.openSettleEnd dt i) s = .next (pulse (s.advance dt) i a) := by
  change execOpenSettleEnd dt i s = _
  unfold execOpenSettleEnd
  simp only [actIn_of_due h]
  obtain ⟨_, _, hcoil, _, hdue⟩ := h
  exact congrArg Host.Outcome.next (if_pos ⟨hcoil, hdue⟩)

theorem exec_retryWaitEnd {s : State} {dt : Nat} {i : Str} {a : Act} {c : Coil} (h : Due s dt i a c .retryWait a.until_) :
    exec (.retryWaitEnd dt i) s = .next (pulse (s.advance dt) i a) := by
  change execRetryWaitEnd dt i s = _
  unfold execRetryWaitEnd
  simp only [actIn_of_due h]
  obtain ⟨_, _, _, _, hdue⟩ := h
  exact congrArg Host.Outcome.next (if_pos hdue)

theorem mayClose_iff {s : State} {i : Str} :
    mayClose s i = true ↔ s.evid[i].latched = 0 ∧ s.inputs.shdnActive = false ∧ s.table[i].target = .connected := by
  simp only [mayClose, Bool.and_eq_true, beq_iff_eq, Bool.not_eq_true', and_assoc]

/-- Settles O54: each timer starts its pulse, a close only where the conditions of R64 hold. -/
theorem pulsesStart : Obligations.PulsesStart := by
  intro dt s i a c
  refine ⟨fun h hlatched hshdn htarget => ?_, fun h hstops => ?_, exec_openSettleEnd, exec_retryWaitEnd⟩
  · have hmay : mayClose (s.advance dt) i = true := mayClose_iff.mpr ⟨hlatched, hshdn, htarget⟩
    exact (exec_closeSettleEnd h).trans (congrArg Host.Outcome.next (if_pos hmay))
  · have hmay : ¬ mayClose (s.advance dt) i = true := fun hm => by
      obtain ⟨hlatched, hshdn, htarget⟩ := mayClose_iff.mp hm
      rcases hstops with h | h | h
      · exact h hlatched
      · exact Bool.false_ne_true (hshdn.symm.trans h)
      · exact absurd (htarget.symm.trans h) (by simp)
    exact (exec_closeSettleEnd h).trans (congrArg Host.Outcome.next (if_neg hmay))

/-! ## The drives in reset -/

theorem exec_resetDriveEnd_pulse {s : State} {dt : Nat} {i : Str} {a : Act} (hr : s.inReset = true) (ha : s.seqs[i].act = some a)
    (hp : a.phase = .pulse) (hdue : a.until_ ≤ s.now + dt) :
    exec (.resetDriveEnd dt i) s = .next ((s.advance dt).setSeq i { s.seqs[i] with
      act := if a.seen || decide (a.travelEnd ≤ s.now + dt) then none else some { a with phase := .travel } }) := by
  change execResetDriveEnd dt i s = _
  simp only [execResetDriveEnd, advance_seqs, advance_inReset, ha, hr, hp, beq_self_eq_true, Bool.true_and]
  exact congrArg Host.Outcome.next (if_pos (decide_eq_true hdue))

theorem exec_resetDriveEnd_travel {s : State} {dt : Nat} {i : Str} {a : Act} (hr : s.inReset = true) (ha : s.seqs[i].act = some a)
    (hp : a.phase = .travel) (hends : (a.seen || decide (a.travelEnd ≤ s.now + dt)) = true) :
    exec (.resetDriveEnd dt i) s = .next ((s.advance dt).setSeq i { s.seqs[i] with act := none }) := by
  have hphase : (ActPhase.travel == ActPhase.pulse) = false := rfl
  change execResetDriveEnd dt i s = _
  simp only [execResetDriveEnd, advance_seqs, advance_inReset, ha, hr, hp, hphase, beq_self_eq_true, Bool.and_false,
    Bool.false_and, Bool.true_and, Bool.false_eq_true, if_false]
  exact congrArg Host.Outcome.next (if_pos hends)

/-- Settles O6, by the sub-phase of the drive and whether its position or the end of its window has come. -/
theorem resetDriveEnds : Obligations.ResetDriveEnds := by
  intro dt s i a hr ha
  refine ⟨fun hp hdue hends => ?_, fun hp hdue hseen hopen => ?_, fun hp hends => ?_⟩
  · rw [exec_resetDriveEnd_pulse hr ha hp hdue, if_pos (by simpa using hends)]
    rfl
  · rw [exec_resetDriveEnd_pulse hr ha hp hdue, if_neg (by simpa [hseen] using hopen)]
    rfl
  · rw [exec_resetDriveEnd_travel hr ha hp (by simpa using hends)]
    rfl

/-! ## The end of an event in which one switch has worked -/

/-- A sequencer whose drive is past its settle, or a drive carried to its end: it asks for no grant and no target moves it (R62). -/
structure UnderWay (q : Seq) : Prop where
  state  : q.state = .closing ∨ q.state = .opening ∨ q.state = .unfound
  passed : q.state = .closing → ∀ a, q.act = some a → a.phase ≠ .settle

theorem UnderWay.waitsFor {q : Seq} (h : UnderWay q) : q.waitsFor = none := by
  rcases h.state with hs | hs | hs <;> rw [Seq.waitsFor, hs]

theorem UnderWay.takeTarget {q : Seq} (h : UnderWay q) (t : Target) (now : Nat) : q.takeTarget t now = q := by
  rcases h.state with hs | hs | hs
  · cases t with
    | connected => simp only [Seq.takeTarget, hs]
    | isolated =>
      cases ha : q.act with
      | none => simp only [Seq.takeTarget, hs, ha]
      | some a => simp only [Seq.takeTarget, hs, ha, if_neg (h.passed hs a ha)]
  · cases t <;> simp only [Seq.takeTarget, hs]
  · cases t <;> simp only [Seq.takeTarget, hs]

theorem UnderWay.finish {s₁ : State} {i : Str} {q : Seq} (h : UnderWay q) (s₀ : State) (hq : s₁.seqs[i] = q) :
    (finish s₀ s₁).seqs[i] = q := finish_rest s₀ hq h.waitsFor h.takeTarget

theorem underWay_opening {q : Seq} (h : q.state = .opening) : UnderWay q :=
  ⟨.inr (.inl h), fun hc => absurd (h.symm.trans hc) (by simp)⟩

theorem underWay_unfound {q : Seq} (h : q.state = .unfound) : UnderWay q :=
  ⟨.inr (.inr h), fun hc => absurd (h.symm.trans hc) (by simp)⟩

theorem underWay_of {q q' : Seq} {a : Act} (hstate : q.state = (if a.coil = .close_ then .closing else .opening) ∨ q.state = .unfound)
    (hs : q'.state = q.state) (ha : q'.act = some a) (hp : a.phase ≠ .settle) : UnderWay q' := by
  refine ⟨?_, fun _ b hb => by obtain rfl := Option.some.inj (ha.symm.trans hb); exact hp⟩
  rw [hs]
  rcases hstate with h | h
  · split at h
    · exact .inl h
    · exact .inr (.inl h)
  · exact .inr (.inr h)

/-- A close that has succeeded, in any string: it stays CLOSED with the target CONNECTED and opens next with the target ISOLATED. -/
theorem finish_closed (s₀ : State) {s₁ : State} {i : Str} {q : Seq} (hq : s₁.seqs[i] = q) (hstate : q.state = .closed) :
    AtTarget (finish s₀ s₁) i .connected q
      ∧ (i.val < s₁.cfg.stringCount → (finish s₀ s₁).table[i].target = .isolated →
          OpensNext (finish s₀ s₁).seqs[i] ∧ (finish s₀ s₁).seqs[i].probation = q.probation) := by
  have hwaits : q.waitsFor = none := by rw [Seq.waitsFor, hstate]
  subst hq
  by_cases hp : isPresent s₁ i = true
  · have h := finish_carried_of_closed s₀ hp hstate
    refine ⟨fun ht => h.eq ht (by simp only [Seq.takeTarget, hstate]) hwaits, fun _ ht => ?_⟩
    exact opensNext_of_asks (h.asks (q' := s₁.seqs[i].enter .openQueued) ht (by simp only [Seq.takeTarget, hstate]) rfl)
  · have hfirst : (carryOut (searchReact s₀ s₁)).seqs[i] = s₁.seqs[i] := by
      refine carryOut_rest (by rw [searchReact_seqs]) hwaits fun h => ?_
      exact absurd ((isPresent_congr (carries_searchReact s₀ s₁).cfg i).symm.trans h) hp
    have hcfg : (judgeSwitchWait (carryOut (searchReact s₀ s₁))).cfg = s₁.cfg :=
      (((carries_searchReact s₀ s₁).trans (carries_carryOut _)).trans (carries_judgeSwitchWait _)).cfg
    have hlast : (finish s₀ s₁).seqs[i] = s₁.seqs[i] := by
      unfold Machine.finish
      rw [refreshPins_seqs]
      exact carryOut_rest ((congrArg (fun v : Vector Seq 24 => v[i]) (judgeSwitchWait_seqs _)).trans hfirst) hwaits
        fun h => absurd ((isPresent_congr hcfg i).symm.trans h) hp
    exact ⟨fun _ => hlast, fun hi => absurd (isPresent_iff.mpr hi) hp⟩

/-- What stands at the end of an event in which switches alone have worked, from a state `s` whose lines have become `lines`. -/
structure DrivesEnd (s u : State) (lines : Vector Bool 24) : Prop where
  bus         : SameBus s u
  journal     : SameJournal s u
  measurement : SameMeasurement s u
  evidence    : SameEvidence s u
  lines       : u.lines = lines

/-- The state in which a feedback line has taken its level. -/
def lineMoved (s : State) (i : Str) (closed : Bool) : State := { s with lines := s.lines.set i closed }

/-- The time and the lines are not among what stands. -/
theorem SwitchesEnd.drivesEnd {s u : State} {dt : Nat} {v : Vector Bool 24} (h : SwitchesEnd { s.advance dt with lines := v } u)
    (he : u.evid = s.evid) : DrivesEnd s u v := by
  obtain ⟨hbus, hjournal, hmeasurement, hinputs, hlines⟩ := h
  exact ⟨hbus, hjournal, hmeasurement, ⟨he, hinputs⟩, hlines⟩

theorem drivesEnd_actuate (s₀ s : State) (dt : Nat) (i : Str) (q : Seq) :
    DrivesEnd s (finish s₀ ((s.advance dt).actuate i q)) s.lines :=
  (finish_switchesEnd s₀ (switches_actuate (s.advance dt) i q)).drivesEnd (carries_finish s₀ _).evid

theorem drivesEnd_line (s₀ s : State) (dt : Nat) (i : Str) (closed : Bool) :
    DrivesEnd s (finish s₀ (lineMoved (s.advance dt) i closed)) (s.lines.set i closed) :=
  (finish_switchesEnd s₀ (.refl (lineMoved (s.advance dt) i closed))).drivesEnd (carries_finish s₀ _).evid

theorem drivesEnd_line_actuate (s₀ s : State) (dt : Nat) (i : Str) (closed : Bool) (q : Seq) :
    DrivesEnd s (finish s₀ ((lineMoved (s.advance dt) i closed).actuate i q)) (s.lines.set i closed) :=
  (finish_switchesEnd s₀ (switches_actuate (lineMoved (s.advance dt) i closed) i q)).drivesEnd (carries_finish s₀ _).evid

/-! ## The ends of the pulses -/

theorem leftGrant_again (g : Grant) (now at_ tRch : Nat) : leftGrant (leftGrant g now at_ tRch) now at_ tRch = leftGrant g now at_ tRch := by
  have h : leftGrant g now at_ tRch ≠ .held := by
    unfold leftGrant
    split
    · split <;> nofun
    · assumption
  exact if_neg h

theorem pulseEnded_last {q : Seq} {a : Act} (h : q.winding = true ∨ a.coil = .close_ ∨ q.retry = true) (now : Nat) :
    q.pulseEnded a now = { q with pulseEndedAt := now, grant := leftGrant q.grant now now a.tRch } := by
  unfold Seq.pulseEnded
  rw [recharge_eq, if_pos]
  rcases h with h | h | h
  · have h : Seq.winding { q with pulseEndedAt := now } = true := h
    rw [Seq.lastPulse, h]
    simp
  · simp [Seq.lastPulse, h]
  · simp [Seq.lastPulse, h]

theorem pulseEnded_notLast {q : Seq} {a : Act} (h : ¬ (q.winding = true ∨ a.coil = .close_ ∨ q.retry = true)) (now : Nat) :
    q.pulseEnded a now = { q with pulseEndedAt := now } := by
  rw [not_or, not_or] at h
  obtain ⟨hw, hc, hr⟩ := h
  have hw : ¬ Seq.winding { q with pulseEndedAt := now } = true := hw
  unfold Seq.pulseEnded
  refine if_neg ?_
  rw [Seq.lastPulse, Bool.eq_false_iff.mpr hw]
  simp [hc, hr]

/-- Whether or not it was known to be the last, a pulse whose travel has succeeded leaves the grant to its recharge (R77). -/
theorem endAct_pulseEnded {q : Seq} {a : Act} (s : State) (dt : Nat) (ha : q.act = some a) :
    (q.pulseEnded a (s.now + dt)).endAct (s.now + dt) = bypassOff s dt { q with pulseEndedAt := s.now + dt } a := by
  by_cases h : q.winding = true ∨ a.coil = .close_ ∨ q.retry = true
  · rw [pulseEnded_last h, endAct_eq s dt (by exact ha)]
    simp only [bypassOff, leftGrant_again]
  · rw [pulseEnded_notLast h, endAct_eq s dt (by exact ha)]

theorem travelled_of_winding {q : Seq} (h : q.winding = true) (c : Coil) (cfg : Config) (now : Nat) :
    q.travelled c cfg now = q.endWind now := if_pos h

theorem travelled_open {q : Seq} (h : ¬ q.winding = true) (cfg : Config) (now : Nat) : q.travelled .open_ cfg now = q.endAct now :=
  if_neg h

theorem travelled_close {q : Seq} (h : ¬ q.winding = true) (cfg : Config) (now : Nat) :
    q.travelled .close_ cfg now = { q.endAct now with state := .closed, mismatch := 0, probation := cfg.probation } := if_neg h

theorem pulseEnded_winding (q : Seq) (a : Act) (now : Nat) : (q.pulseEnded a now).winding = q.winding := by
  unfold Seq.pulseEnded
  split <;> rfl

theorem exec_coilPulseEnd {s : State} {dt : Nat} {i : Str} {a : Act} {c : Coil} (h : Due s dt i a c .pulse a.until_) :
    exec (.coilPulseEnd dt i) s = .next (finish (s.advance dt) (endPulse (s.advance dt) i a)) := by
  change execCoilPulseEnd dt i s = _
  unfold execCoilPulseEnd
  simp only [actIn_of_due h]
  obtain ⟨_, _, _, _, hdue⟩ := h
  exact congrArg Host.Outcome.next (if_pos hdue)

section pulse
variable {dt : Nat} {s : State} {i : Str} {a : Act} (hact : s.seqs[i].act = some a)
include hact

/-- R81: the pulse of a drive carried to its end. -/
theorem pulse_ends_unfound (hstate : s.seqs[i].state = .unfound) :
    (finish (s.advance dt) (endPulse (s.advance dt) i a)).seqs[i] = { s.seqs[i] with
      pulseEndedAt := s.now + dt
      bypassOffAt := if a.seen then s.now + dt else s.seqs[i].bypassOffAt
      act := if a.seen then none else some { a with phase := .travel }
      grant := leftGrant s.seqs[i].grant (s.now + dt) (s.now + dt) a.tRch } := by
  have hwinding : s.seqs[i].winding = true := winding_of hstate hact
  rw [endPulse_eq]
  cases hseen : a.seen with
  | true =>
    refine UnderWay.finish (underWay_unfound (by exact hstate)) _ ((actuate_seq_self ..).trans ?_)
    rw [if_pos rfl, advance_seqs, advance_now, travelled_of_winding ((pulseEnded_winding ..).trans hwinding),
      pulseEnded_last (.inl hwinding)]
    rfl
  | false =>
    refine UnderWay.finish (underWay_unfound (by exact hstate)) _ ((actuate_seq_self ..).trans ?_)
    rw [if_neg Bool.false_ne_true, advance_seqs, advance_now, pulseEnded_last (.inl hwinding)]
    rfl

variable (hfound : s.seqs[i].state ≠ .unfound)
include hfound

/-- A close is CLOSED on probation (R65), and opens next where its target has become ISOLATED (R66). -/
theorem pulse_ends_close (hseen : a.seen = true) (hcoil : a.coil = .close_) :
    AtTarget (finish (s.advance dt) (endPulse (s.advance dt) i a)) i .connected
      { bypassOff s dt { s.seqs[i] with pulseEndedAt := s.now + dt } a with
        state := .closed, mismatch := 0, probation := s.cfg.probation }
      ∧ OpenedAfterClose s (finish (s.advance dt) (endPulse (s.advance dt) i a)) i := by
  have hwinding := not_winding hfound
  rw [endPulse_eq, hseen, if_pos rfl, hcoil]
  refine finish_closed _ ((actuate_seq_self ..).trans ?_) rfl
  rw [advance_seqs, advance_now, travelled_close (by rwa [pulseEnded_winding]), endAct_pulseEnded s dt hact]
  rfl

variable (hstate : s.seqs[i].state = (if a.coil = .close_ then .closing else .opening) ∨ s.seqs[i].state = .unfound)
include hstate

omit hact in
/-- The travel goes on with the bypass on (R65, R69). -/
theorem pulse_ends_unseen (hseen : a.seen = false) :
    (finish (s.advance dt) (endPulse (s.advance dt) i a)).seqs[i] = { s.seqs[i] with
      pulseEndedAt := s.now + dt
      act := some { a with phase := .travel }
      grant :=
        if a.coil = .close_ ∨ s.seqs[i].retry = true then leftGrant s.seqs[i].grant (s.now + dt) (s.now + dt) a.tRch
        else s.seqs[i].grant } := by
  have hwinding := not_winding hfound
  rw [endPulse_eq, hseen, if_neg Bool.false_ne_true]
  refine UnderWay.finish (underWay_of (a := { a with phase := .travel }) hstate (by rfl) (by rw [← hseen]) (by nofun)) _
    ((actuate_seq_self ..).trans ?_)
  rw [advance_seqs, advance_now]
  by_cases h : a.coil = .close_ ∨ s.seqs[i].retry = true
  · rw [pulseEnded_last (.inr h), if_pos h]
  · rw [pulseEnded_notLast (not_or.mpr ⟨hwinding, h⟩), if_neg h]

/-- An open goes to its zero check (R69). -/
theorem pulse_ends_open (hseen : a.seen = true) (hcoil : a.coil = .open_) :
    (finish (s.advance dt) (endPulse (s.advance dt) i a)).seqs[i]
      = bypassOff s dt { s.seqs[i] with pulseEndedAt := s.now + dt } a := by
  have hwinding := not_winding hfound
  have hopening : s.seqs[i].state = .opening := by rw [hstate.resolve_right hfound, hcoil, if_neg (by nofun)]
  rw [endPulse_eq, hseen, if_pos rfl, hcoil]
  refine UnderWay.finish (underWay_opening (by exact hopening)) _ ((actuate_seq_self ..).trans ?_)
  rw [advance_seqs, advance_now, travelled_open (by rwa [pulseEnded_winding]), endAct_pulseEnded s dt hact]

end pulse

/-- Settles O55, by whether the position has been shown and which coil drives. -/
theorem pulseEnds : Obligations.PulseEnds := by
  intro dt s i a c hdue hstate
  have hexec := exec_coilPulseEnd hdue
  obtain ⟨_, hact, rfl, _, _⟩ := hdue
  have hframe : DrivesEnd s (finish (s.advance dt) (endPulse (s.advance dt) i a)) s.lines := by
    rw [endPulse_eq]
    exact drivesEnd_actuate ..
  have hunfound := pulse_ends_unfound (dt := dt) hact
  have hunseen := fun hf => pulse_ends_unseen (dt := dt) hf hstate
  have hopen := fun hf => pulse_ends_open (dt := dt) hact hf hstate
  have hclose := fun hf => pulse_ends_close (dt := dt) hact hf
  refine ⟨_, hexec, ?_⟩
  generalize finish (s.advance dt) (endPulse (s.advance dt) i a) = u at *
  obtain ⟨hbus, hjournal, hmeasurement, hevidence, hlines⟩ := hframe
  exact ⟨hunfound, hunseen, hopen, hclose, hbus, hjournal, hmeasurement, hevidence, hlines⟩

/-! ## The feedback lines -/

section line
variable {dt : Nat} {s : State} {i : Str} {closed : Bool} (hline : s.lines[i] ≠ closed)
include hline

theorem exec_feedbackLineChange_shown {a : Act} (ha : s.seqs[i].act = some a) (hgoal : closed = a.coil.goal) :
    exec (.feedbackLineChange dt i closed) s = .next
      (if s.inReset then feedbackSeen (lineMoved (s.advance dt) i closed) i a
      else finish (s.advance dt) (feedbackSeen (lineMoved (s.advance dt) i closed) i a)) := by
  change execFeedbackLineChange dt i closed s = _
  unfold execFeedbackLineChange
  refine (if_neg hline).trans ?_
  simp only [advance_seqs, ha, if_pos hgoal]
  rfl

theorem exec_feedbackLineChange_other (h : ∀ a, s.seqs[i].act = some a → closed ≠ a.coil.goal) :
    exec (.feedbackLineChange dt i closed) s = .next (lineMoved (s.advance dt) i closed) := by
  change execFeedbackLineChange dt i closed s = _
  unfold execFeedbackLineChange
  refine (if_neg hline).trans ?_
  cases ha : s.seqs[i].act with
  | none =>
    simp only [advance_seqs, ha]
    rfl
  | some a =>
    simp only [advance_seqs, ha, if_neg (h a ha)]
    rfl

end line

theorem feedbackSeen_travel {s : State} {i : Str} {a : Act} (hp : a.phase = .travel) (hr : s.inReset = false) :
    feedbackSeen s i a = s.actuate i (s.seqs[i].travelled a.coil s.cfg s.now) := if_pos ⟨hp, hr⟩

theorem feedbackSeen_remembers {s : State} {i : Str} {a : Act} (h : a.phase = .pulse ∨ a.phase = .travel ∧ s.inReset = true) :
    feedbackSeen s i a = s.setSeq i { s.seqs[i] with act := some { a with seen := true } } := by
  unfold feedbackSeen
  rcases h with h | ⟨h, hr⟩
  · exact (if_neg (by rw [h]; nofun)).trans (if_pos (.inr h))
  · exact (if_neg (by rw [hr]; nofun)).trans (if_pos (.inl h))

theorem feedbackSeen_stands {s : State} {i : Str} {a : Act} (h : a.phase = .settle ∨ a.phase = .retryWait) : feedbackSeen s i a = s := by
  unfold feedbackSeen
  rcases h with h | h
  · exact (if_neg (by rw [h]; nofun)).trans (if_neg (by rw [h]; nofun))
  · exact (if_neg (by rw [h]; nofun)).trans (if_neg (by rw [h]; nofun))

section travelled
variable {dt : Nat} {s : State} {i : Str} {a : Act} (s₀ t : State) (hact : s.seqs[i].act = some a)
include hact

/-- An open whose travel has succeeded goes to its zero check (R69). -/
theorem travelled_ends_open (hcoil : a.coil = .open_) (hstate : s.seqs[i].state = .opening) :
    (finish s₀ (t.actuate i (s.seqs[i].travelled a.coil s.cfg (s.now + dt)))).seqs[i] = bypassOff s dt s.seqs[i] a := by
  refine UnderWay.finish (underWay_opening (by exact hstate)) _ ((actuate_seq_self ..).trans ?_)
  rw [hcoil, travelled_open (not_winding (by rw [hstate]; nofun)), endAct_eq s dt hact]

/-- A close whose travel has succeeded is CLOSED on probation (R65), and opens next where its target has become ISOLATED (R66). -/
theorem travelled_ends_close (hcfg : t.cfg = s.cfg) (hcoil : a.coil = .close_) (hstate : s.seqs[i].state = .closing) :
    AtTarget (finish s₀ (t.actuate i (s.seqs[i].travelled a.coil s.cfg (s.now + dt)))) i .connected
        { bypassOff s dt s.seqs[i] a with state := .closed, mismatch := 0, probation := s.cfg.probation }
      ∧ OpenedAfterClose s (finish s₀ (t.actuate i (s.seqs[i].travelled a.coil s.cfg (s.now + dt)))) i := by
  rw [hcoil, travelled_close (not_winding (by rw [hstate]; nofun)), endAct_eq s dt hact]
  obtain ⟨hat, hopens⟩ := finish_closed s₀ (actuate_seq_self t i
    { bypassOff s dt s.seqs[i] a with state := .closed, mismatch := 0, probation := s.cfg.probation }) rfl
  exact ⟨hat, fun hi => hopens ((congrArg Config.stringCount hcfg).symm ▸ hi)⟩

/-- R81: a drive carried to its end ends and nothing follows. -/
theorem travelled_ends_unfound (hstate : s.seqs[i].state = .unfound) :
    (finish s₀ (t.actuate i (s.seqs[i].travelled a.coil s.cfg (s.now + dt)))).seqs[i]
      = { s.seqs[i] with act := none, bypassOffAt := s.now + dt } := by
  refine UnderWay.finish (underWay_unfound (by exact hstate)) _ ((actuate_seq_self ..).trans ?_)
  rw [travelled_of_winding (winding_of hstate hact)]
  rfl

end travelled

section seen
variable {dt : Nat} {s : State} {i : Str} {closed : Bool} {a : Act} (hline : s.lines[i] ≠ closed) (hreset : s.inReset = false)
  (hact : s.seqs[i].act = some a) (hgoal : closed = a.coil.goal)
include hline hreset hact hgoal

theorem exec_feedbackLineChange_ends {t : State} (ht : feedbackSeen (lineMoved (s.advance dt) i closed) i a = t) :
    exec (.feedbackLineChange dt i closed) s = .next (finish (s.advance dt) t) := by
  rw [exec_feedbackLineChange_shown hline hact hgoal, if_neg (by rw [hreset]; nofun), ht]

theorem exec_feedbackLineChange_travel (hp : a.phase = .travel) :
    exec (.feedbackLineChange dt i closed) s = .next (finish (s.advance dt)
      ((lineMoved (s.advance dt) i closed).actuate i (s.seqs[i].travelled a.coil s.cfg (s.now + dt)))) :=
  exec_feedbackLineChange_ends hline hreset hact hgoal (feedbackSeen_travel hp hreset)

/-- R65, R69: in a travel the first showing of the position ends it. -/
theorem feedback_ends_travel (hp : a.phase = .travel) (hstate : s.seqs[i].state = (if a.coil = .close_ then .closing else .opening)) :
    ∃ u, exec (.feedbackLineChange dt i closed) s = .next u
      ∧ u.lines = s.lines.set i closed
      ∧ (a.coil = .open_ → u.seqs[i] = bypassOff s dt s.seqs[i] a)
      ∧ (a.coil = .close_ →
          AtTarget u i .connected { bypassOff s dt s.seqs[i] a with state := .closed, mismatch := 0, probation := s.cfg.probation }
          ∧ OpenedAfterClose s u i)
      ∧ SameBus s u ∧ SameJournal s u ∧ SameMeasurement s u ∧ SameEvidence s u := by
  have hexec := exec_feedbackLineChange_travel (dt := dt) hline hreset hact hgoal hp
  have hframe := drivesEnd_line_actuate (s.advance dt) s dt i closed (s.seqs[i].travelled a.coil s.cfg (s.now + dt))
  have hopen := travelled_ends_open (dt := dt) (s.advance dt) (lineMoved (s.advance dt) i closed) hact
  have hclose := travelled_ends_close (dt := dt) (s.advance dt) (lineMoved (s.advance dt) i closed) hact rfl
  refine ⟨_, hexec, ?_⟩
  generalize finish (s.advance dt) _ = u at *
  obtain ⟨hbus, hjournal, hmeasurement, hevidence, hlines⟩ := hframe
  exact ⟨hlines, fun hcoil => hopen hcoil (hstate.trans (if_neg (by rw [hcoil]; nofun))),
    fun hcoil => hclose hcoil (hstate.trans (if_pos hcoil)), hbus, hjournal, hmeasurement, hevidence⟩

/-- R81: the travel of a drive carried to its end. -/
theorem feedback_ends_drive (hp : a.phase = .travel) (hstate : s.seqs[i].state = .unfound) :
    ∃ u, exec (.feedbackLineChange dt i closed) s = .next u ∧ DriveEnds s u dt i ∧ u.lines = s.lines.set i closed := by
  have hexec := exec_feedbackLineChange_travel (dt := dt) hline hreset hact hgoal hp
  have hframe := drivesEnd_line_actuate (s.advance dt) s dt i closed (s.seqs[i].travelled a.coil s.cfg (s.now + dt))
  have hends := travelled_ends_unfound (dt := dt) (s.advance dt) (lineMoved (s.advance dt) i closed) hact hstate
  refine ⟨_, hexec, ?_⟩
  generalize finish (s.advance dt) _ = u at *
  obtain ⟨hbus, hjournal, hmeasurement, hevidence, hlines⟩ := hframe
  exact ⟨⟨hends, hbus, hjournal, hmeasurement, hevidence⟩, hlines⟩

/-- R65, R69: during the pulse the position is only seen. -/
theorem feedback_seen_in_pulse (hp : a.phase = .pulse)
    (hstate : s.seqs[i].state = (if a.coil = .close_ then .closing else .opening) ∨ s.seqs[i].state = .unfound) :
    ∃ u, exec (.feedbackLineChange dt i closed) s = .next u
      ∧ u.lines = s.lines.set i closed ∧ u.seqs[i] = { s.seqs[i] with act := some { a with seen := true } } := by
  have hexec := exec_feedbackLineChange_ends (dt := dt) hline hreset hact hgoal (feedbackSeen_remembers (.inl hp))
  refine ⟨_, hexec, (finish_switchesEnd _ (switches_setSeq ..)).lines, ?_⟩
  exact UnderWay.finish (underWay_of (a := { a with seen := true }) hstate (by rfl) (by rfl) (by rw [hp]; nofun)) _ (setSeq_self ..)

/-- Before a pulse the line alone moves. -/
theorem feedback_before_pulse (hp : a.phase = .settle ∨ a.phase = .retryWait)
    (hstate : s.seqs[i].state = (if a.coil = .close_ then .closing else .opening)) :
    ∃ u, exec (.feedbackLineChange dt i closed) s = .next u ∧ u.lines = s.lines.set i closed
      ∧ (a.coil = .open_ → u.seqs[i] = s.seqs[i])
      ∧ (a.coil = .close_ → i.val < s.cfg.stringCount → NoTestStarts s u → TakesTarget s.seqs[i] u i)
      ∧ SameBus s u ∧ SameJournal s u ∧ SameMeasurement s u ∧ SameEvidence s u := by
  have hexec := exec_feedbackLineChange_ends (dt := dt) hline hreset hact hgoal (feedbackSeen_stands hp)
  have hframe := drivesEnd_line (s.advance dt) s dt i closed
  have hstays := fun hs : s.seqs[i].state = .opening =>
    (underWay_opening (q := s.seqs[i]) hs).finish (s.advance dt) (s₁ := lineMoved (s.advance dt) i closed) rfl
  have htakes := fun hn hi => finish_takesTarget (s₀ := s.advance dt) (s₁ := lineMoved (s.advance dt) i closed) (i := i)
    (targetsStand_of_noTest (s := s) rfl hn) hi
  refine ⟨_, hexec, ?_⟩
  generalize finish (s.advance dt) _ = u at *
  obtain ⟨hbus, hjournal, hmeasurement, hevidence, hlines⟩ := hframe
  exact ⟨hlines, fun hcoil => hstays (hstate.trans (if_neg (by rw [hcoil]; nofun))), fun _ hi hn => htakes hn hi,
    hbus, hjournal, hmeasurement, hevidence⟩

end seen

/-- Settles O56, by the sub-phase that the line finds. -/
theorem feedbackEndsTravel : Obligations.FeedbackEndsTravel := by
  intro dt s i closed hline
  refine ⟨fun a hr ha hp hgoal hs => feedback_ends_travel hline hr ha hgoal hp hs,
    fun a hr ha hp hgoal hs => feedback_ends_drive hline hr ha hgoal hp hs,
    fun a hr ha hp hgoal hs => feedback_seen_in_pulse hline hr ha hgoal hp hs, fun a hr ha hgoal => ?_,
    fun a hr ha hgoal hp hs => feedback_before_pulse hline hr ha hgoal hp hs, exec_feedbackLineChange_other hline⟩
  have hexec := exec_feedbackLineChange_shown (dt := dt) hline ha hgoal
  rw [if_pos hr] at hexec
  refine ⟨fun hp => ?_, fun hp => ?_⟩
  · exact hexec.trans (congrArg Host.Outcome.next (feedbackSeen_remembers (hp.imp_right fun h => ⟨h, hr⟩)))
  · exact hexec.trans (congrArg Host.Outcome.next (feedbackSeen_stands hp))

end Sys2Proof.Claims

/-! The resets (O5). -/

namespace Sys2Proof.Claims

open Sys2Proof Sys2Proof.Machine

/-! ## The ports at a reset -/

theorem cutPorts_idle {s : State} (h : s.txn = none) (cut : Release) :
    cutPorts s cut = { s.ports with memSelected := false, returnedTail := cutUnforwarded s cut } := by
  unfold cutPorts
  rw [h]

theorem cutPorts_busy {s : State} {t : Txn} (h : s.txn = some t) (cut : Release) :
    cutPorts s cut = { s.ports with
      memSelected := false
      returnedTail := tailOf cut (tailByte s t cut)
      memEnd := .partialByte (cutLevel s cut) } := by
  unfold cutPorts
  rw [h]

theorem cutUnforwarded_stands {s : State} {cut : Release} (h : s.ports.ctlSelected = false ∨ cut.bits = 0) :
    cutUnforwarded s cut = s.ports.returnedTail :=
  if_neg fun ⟨hselected, hbits⟩ => h.elim (fun h => Bool.false_ne_true (h.symm.trans hselected)) hbits

theorem cutUnforwarded_cut {s : State} {cut : Release} (hselected : s.ports.ctlSelected = true) (hbits : cut.bits ≠ 0) :
    cutUnforwarded s cut = some ⟨cut.bits, ⟨cut.x.mosi, unforwardedByte s 0⟩⟩ :=
  (if_pos ⟨hselected, hbits⟩).trans (if_neg hbits)

theorem cutLevel_eq {s : State} {cut : Release} (h : cut.bits ≠ 0 ∨ s.ports.memReceived ≠ []) : cutLevel s cut = lastBit s cut :=
  if_neg fun ⟨hbits, hnone⟩ => h.elim (fun h => h hbits) (fun h => h hnone)

/-- Only a read and a refusal shown in the status change what the memory returns (R105, R126). -/
theorem tailByte_eq {s : State} {t : Txn} {cut : Release} (hread : t.cls ≠ some .read) (hfast : t.cls ≠ some .readFast)
    (hstatus : s.mirror.refusalFlag = false ∨ t.cls ≠ some .status) : tailByte s t cut = cut.x.miso := by
  unfold tailByte
  split
  · contradiction
  · contradiction
  · rw [hstatus.resolve_right (fun h => h ‹_›)]
    rfl
  · rfl

/-! ## The drives at a reset input -/

theorem resetInput_leaves (q : Seq) : q.resetInput = { Seq.reset with act := q.resetInput.act } := rfl

theorem resetInput_carried {q : Seq} {a : Act} (ha : q.act = some a) (hp : a.phase = .pulse ∨ a.phase = .travel) :
    q.resetInput.act = some a := by
  rw [Seq.resetInput, ha]
  rcases hp with hp | hp <;> simp [hp]

theorem resetInput_dropped {q : Seq} {a : Act} (ha : q.act = some a) (hp : a.phase = .settle ∨ a.phase = .retryWait) :
    q.resetInput.act = none := by
  rw [Seq.resetInput, ha]
  rcases hp with hp | hp <;> simp [hp]

theorem resetInput_none {q : Seq} (ha : q.act = none) : q.resetInput.act = none := by
  rw [Seq.resetInput, ha]
  rfl

/-- Settles O5: the ports by whether a transaction is in progress, and the drives by their sub-phases. -/
theorem resetsDropEverything : Obligations.ResetsDropEverything := by
  intro dt cut s
  refine ⟨cutPorts (s.advance dt) cut, mapAll (fun _ q => q.resetInput) s.seqs, s.free + 1, rfl, rfl, fun ht => ?_, fun t ht => ?_,
    fun i => ?_⟩
  · refine ⟨_, cutPorts_idle (s := s.advance dt) ht cut, cutUnforwarded_stands, fun hselected hbits => ?_⟩
    exact ⟨_, cutUnforwarded_cut (s := s.advance dt) hselected hbits, fun hr hnone => unforwardedByte_reset (by exact hr) (by exact hnone) 0,
      fun r hr htail k hk => unforwardedByte_cut (by exact hr) (by exact htail) hk⟩
  · exact ⟨_, _, cutPorts_busy (s := s.advance dt) ht cut, cutLevel_eq, tailByte_eq⟩
  · rw [resetInput_seqs]
    exact ⟨resetInput_leaves _, fun _ => resetInput_carried, fun _ => resetInput_dropped, resetInput_none⟩

end Sys2Proof.Claims

/-! The return of a grant (O58). -/

namespace Sys2Proof.Machine

/-! ## The number of grants, exactly -/

/-- A string that alone holds a grant in `t` and none in `s` makes the difference of one. -/
theorem grantsInUse_succ {s t : State} {i : Str} (hs : s.seqs[i].grant = .none) (ht : t.seqs[i].grant ≠ .none)
    (hothers : ∀ j : Str, j ≠ i → t.seqs[j].grant = s.seqs[j].grant) : grantsInUse t = grantsInUse s + 1 := by
  unfold grantsInUse
  have hperm : (allStrings.filter fun j => t.seqs[j].grant != .none).Perm
      (i :: allStrings.filter fun j => s.seqs[j].grant != .none) := by
    refine (List.perm_ext_iff_of_nodup ((List.nodup_finRange 24).filter _) (List.nodup_cons.mpr ⟨?_, (List.nodup_finRange 24).filter _⟩)).mpr
      fun j => ?_
    · rw [List.mem_filter, hs]
      exact fun h => absurd h.2 (by simp)
    · rw [List.mem_cons, List.mem_filter, List.mem_filter, bne_iff_ne, bne_iff_ne]
      by_cases hj : j = i
      · subst hj
        exact ⟨fun _ => .inl rfl, fun _ => ⟨List.mem_finRange j, ht⟩⟩
      · rw [hothers j hj]
        exact ⟨.inr, fun h => h.resolve_left hj⟩
  simpa using hperm.length_eq

theorem grantsInUse_giveGrant_eq {s : State} {i : Str} (h : s.seqs[i].grant = .none) (c : Coil) :
    grantsInUse (giveGrant s i c) = grantsInUse s + 1 := by
  refine grantsInUse_succ h ?_ fun j hj => by rw [giveGrant_seq_other s hj.symm]
  rw [giveGrant_seq_self]
  nofun

theorem slotFree_iff {s : State} : slotFree s = true ↔ grantsInUse s < s.arb.k ∧ s.arb.kPending = none := by
  rw [slotFree, Bool.and_eq_true, decide_eq_true_iff, Option.isNone_iff_eq_none]

theorem applyPendingK_of_pending {s : State} {k : Nat} (h : s.arb.kPending = some k) :
    applyPendingK s = if grantsInUse s ≤ k then { s with arb := { s.arb with k := k, kPending := none } } else s := by
  unfold applyPendingK
  rw [h]

/-! ## Requests that are not made -/

theorem request_of_not_waits {s : State} {i : Str} (h : ¬ (isPresent s i = true ∧ s.seqs[i].waitsFor ≠ none)) : request s i = s := by
  unfold request
  split
  · rfl
  · next hw =>
    have hp : isPresent s i = false := by
      rw [← Bool.not_eq_true]
      exact fun hp => h ⟨hp, by rw [hw]; nofun⟩
    rw [hp]
    rfl

/-- A string that has no request to make, or has made it. -/
theorem request_of_requested {s : State} {i : Str} (h : isPresent s i = true → Requested i s) : request s i = s := by
  unfold request
  split
  · rfl
  · next hw =>
    refine if_neg fun hn => ?_
    simp only [Bool.and_eq_true, beq_iff_eq, Bool.not_eq_true', List.any_eq_false] at hn
    obtain ⟨⟨hp, hg⟩, hq⟩ := hn
    obtain ⟨e, hm, he⟩ := (h hp (by rw [hw]; nofun)).resolve_left fun hx => hx hg
    exact hq e hm he

theorem requests_of_requested {s : State} {is : List Str} (h : ∀ i ∈ is, isPresent s i = true → Requested i s) :
    is.foldl request s = s := by
  induction is with
  | nil => rfl
  | cons i is ih =>
    rw [List.foldl_cons, request_of_requested (h i List.mem_cons_self)]
    exact ih fun j hj => h j (List.mem_cons_of_mem i hj)

/-- Where one string alone has a request to make, it is the one that is handled. -/
theorem requests_of_one {s : State} {i : Str} {is : List Str} (hi : i ∈ is) (h : ∀ j : Str, j ≠ i → isPresent s j = true → Requested j s) :
    is.foldl request s = request s i := by
  induction is with
  | nil => exact absurd hi List.not_mem_nil
  | cons j is ih =>
    rw [List.foldl_cons]
    by_cases hj : j = i
    · subst hj
      refine requests_of_requested fun k _ hk => ?_
      rw [request_isPresent] at hk
      by_cases hkj : k = j
      · subst hkj
        exact request_self s k hk
      · exact (h k hkj hk).request j
    · rw [request_of_requested (h j hj)]
      exact ih ((List.mem_cons.mp hi).resolve_left (Ne.symm hj))

/-! ## The grants of the queue's head -/

theorem setQueue_self {s : State} {queue : List QEntry} (h : s.arb.queue = queue) : { s with arb := { s.arb with queue := queue } } = s := by
  subst h
  rfl

theorem enqueue_nil (e : QEntry) : enqueue [] e = [e] := by
  unfold enqueue
  cases e.kind <;> rfl

/-- A request that finds the queue empty and a slot free is granted as the head of the queue would be (R78). -/
theorem request_grantHeads {s : State} {i : Str} {c : Coil} (hp : isPresent s i = true) (hw : s.seqs[i].waitsFor = some c)
    (hg : s.seqs[i].grant = .none) (hq : ∀ e ∈ s.arb.queue, e.str ≠ i) :
    grantHeads (request s i).arb.queue.length (request s i)
      = grantHeads (enqueue s.arb.queue ⟨i, c⟩).length { s with arb := { s.arb with queue := enqueue s.arb.queue ⟨i, c⟩ } } := by
  have hasks : (isPresent s i && s.seqs[i].grant == .none && !(s.arb.queue.any fun e => e.str == i)) = true := by
    rw [hp, hg]
    simpa using hq
  unfold request
  simp only [hw, hasks, if_true]
  split
  · next hfree =>
    obtain ⟨hslot, hempty⟩ := Bool.and_eq_true_iff.mp hfree
    have hnil : s.arb.queue = [] := List.isEmpty_iff.mp hempty
    have hqueue : (giveGrant s i c).arb.queue = [] := hnil
    have hslot' : slotFree { s with arb := { s.arb with queue := [⟨i, c⟩] } } = true := hslot
    rw [hqueue, hnil, enqueue_nil]
    change giveGrant s i c = if slotFree { s with arb := { s.arb with queue := [⟨i, c⟩] } } then
      giveGrant { s with arb := { s.arb with queue := [] } } i c else _
    rw [if_pos hslot', setQueue_self hnil]
  · rfl

/-- The head of the queue is granted where a slot is free, and the next one waits where the queue or the slots end there. -/
theorem grantHeads_one {s : State} {e : QEntry} {rest : List QEntry} {n : Nat} (hq : s.arb.queue = e :: rest) (hslot : slotFree s = true)
    (hg : s.seqs[e.str].grant = .none) (hends : rest = [] ∨ s.arb.k ≤ grantsInUse s + 1) :
    grantHeads (n + 1) s = giveGrant { s with arb := { s.arb with queue := rest } } e.str e.kind := by
  have hone : grantHeads (n + 1) s = grantHeads n (giveGrant { s with arb := { s.arb with queue := rest } } e.str e.kind) := by
    rw [grantHeads, hq]
    exact if_pos hslot
  rw [hone]
  refine grantHeads_rests n (hends.imp_right fun hk => ?_)
  rw [← Bool.not_eq_true, slotFree_iff, grantsInUse_giveGrant_eq (s := { s with arb := { s.arb with queue := rest } }) hg]
  exact fun h => Nat.not_lt.mpr hk h.1

end Sys2Proof.Machine

namespace Sys2Proof.Claims

open Sys2Proof Sys2Proof.Machine

/-! ## The queue with a deferred request -/

theorem joined_of_waits {s : State} {i : Str} {c : Coil} (hi : i.val < s.cfg.stringCount) (hw : s.seqs[i].waitsFor = some c) :
    joined s i = enqueue s.arb.queue ⟨i, c⟩ := by
  unfold joined
  rw [if_neg (Nat.not_le.mpr hi)]
  unfold Seq.waitsFor at hw
  split at hw
  · next hs =>
    obtain rfl := Option.some.inj hw
    exact if_pos hs
  · next hs =>
    obtain rfl := Option.some.inj hw
    exact (if_neg (by rw [hs]; nofun)).trans (if_pos hs)
  · contradiction

theorem joined_of_not_waits {s : State} {i : Str} (h : ¬ (isPresent s i = true ∧ s.seqs[i].waitsFor ≠ none)) :
    joined s i = s.arb.queue := by
  unfold joined
  split
  · rfl
  · next hi =>
    have hp : isPresent s i = true := isPresent_iff.mpr (Nat.not_le.mp hi)
    rw [if_neg fun hs => h ⟨hp, by rw [Seq.waitsFor, hs]; nofun⟩, if_neg fun hs => h ⟨hp, by rw [Seq.waitsFor, hs]; nofun⟩]

/-! ## The arbiter at the return of a grant -/

/-- The sequencer of the string `j` once the grant of `i` is returned. -/
def returnedSeq (s : State) (i j : Str) : Seq := if j = i then { s.seqs[i] with grant := .none } else s.seqs[j]

theorem returnedSeq_waitsFor (s : State) (i j : Str) : (returnedSeq s i j).waitsFor = s.seqs[j].waitsFor := by
  unfold returnedSeq
  split
  · next h =>
    subst h
    rfl
  · rfl

theorem returnedSeq_start (s : State) (i j : Str) (c : Coil) (cfg : Config) (now : Nat) :
    (returnedSeq s i j).start c cfg now = startedAt s.seqs[j] c cfg now := by
  rw [start_eq]
  unfold returnedSeq
  split
  · next h =>
    subst h
    rfl
  · rfl

theorem returnedSeq_free {s : State} (h : QueueAgrees s) (i : Str) {e : QEntry} (he : e ∈ s.arb.queue) :
    (returnedSeq s i e.str).grant = .none := by
  unfold returnedSeq
  split
  · rfl
  · exact (h.1 e he).2

/-- A state whose arbiter finds that of `s` with the grant of `i` returned. -/
structure Returned (s w : State) (i : Str) : Prop where
  seq   : ∀ j : Str, w.seqs[j] = returnedSeq s i j
  cfg   : w.cfg = s.cfg
  queue : w.arb.queue = s.arb.queue

section returned
variable {s w : State} {i : Str} (h : Returned s w i) (hgrant : s.seqs[i].grant ≠ .none) (hqueue : QueueAgrees s)
  (hrests : ArbiterRests s)
include h

theorem Returned.waitsFor (j : Str) : w.seqs[j].waitsFor = s.seqs[j].waitsFor := by rw [h.seq, returnedSeq_waitsFor]

theorem Returned.isPresent (j : Str) : isPresent w j = isPresent s j := isPresent_congr h.cfg j

theorem Returned.free : w.seqs[i].grant = .none := by
  rw [h.seq, returnedSeq, if_pos rfl]

include hgrant in
theorem Returned.grantsInUse : grantsInUse s = grantsInUse w + 1 :=
  grantsInUse_succ h.free hgrant fun j hj => by rw [h.seq, returnedSeq, if_neg hj]

include hqueue in
theorem Returned.withdraw : withdraw w = w := by
  have hkept : (w.arb.queue.filter fun e => w.seqs[e.str].waitsFor == some e.kind) = w.arb.queue := by
    refine List.filter_eq_self.mpr fun e he => ?_
    rw [h.queue] at he
    rw [h.waitsFor, (hqueue.1 e he).1, beq_self_eq_true]
  unfold Machine.withdraw
  rw [hkept]

include hgrant hqueue in
/-- The string of a grant that is returned has no entry yet (R78). -/
theorem Returned.not_queued : ∀ e ∈ w.arb.queue, e.str ≠ i := by
  intro e he hi
  rw [h.queue] at he
  subst hi
  exact hgrant (hqueue.1 e he).2

include hrests in
theorem Returned.requested {j : Str} (hj : j ≠ i) (hp : Machine.isPresent w j = true) : Requested j w := by
  intro hw
  rw [h.waitsFor] at hw
  rw [h.isPresent] at hp
  rw [h.seq, returnedSeq, if_neg hj, h.queue]
  exact hrests.requests j hp hw

include hgrant hqueue hrests in
/-- The deferred request joins the queue, and then the head of the queue is granted (R78). -/
theorem Returned.handles : grantHeads (requestAll w).arb.queue.length (requestAll w)
    = grantHeads (joined s i).length { w with arb := { w.arb with queue := joined s i } } := by
  have hone : requestAll w = request w i := requests_of_one (List.mem_finRange i) fun j hj hp => h.requested hrests hj hp
  rw [hone]
  by_cases hasks : Machine.isPresent w i = true ∧ w.seqs[i].waitsFor ≠ none
  · obtain ⟨hp, hw⟩ := hasks
    obtain ⟨c, hc⟩ := Option.ne_none_iff_exists'.mp hw
    rw [request_grantHeads hp hc h.free (h.not_queued hgrant hqueue), h.queue,
      joined_of_waits (isPresent_iff.mp ((h.isPresent i).symm.trans hp)) ((h.waitsFor i).symm.trans hc)]
  · have hstands : joined s i = w.arb.queue := by
      rw [h.queue]
      exact joined_of_not_waits (by rwa [h.isPresent, h.waitsFor] at hasks)
    rw [request_of_not_waits hasks, hstands]

theorem Returned.applyPendingK : Returned s (applyPendingK w) i := by
  unfold Machine.applyPendingK
  split
  · split
    · exact ⟨h.seq, h.cfg, h.queue⟩
    · exact h
  · exact h

include hgrant hqueue hrests in
theorem Returned.arbitrate : arbitrate w = grantHeads (joined s i).length
    { Machine.applyPendingK w with arb := { (Machine.applyPendingK w).arb with queue := joined s i } } := by
  rw [← h.applyPendingK.handles hgrant hqueue hrests]
  unfold Machine.arbitrate
  rw [h.withdraw hqueue]

end returned

theorem mem_joined {s : State} {i : Str} {e : QEntry} (h : e ∈ joined s i) : e.str = i ∨ e ∈ s.arb.queue := by
  by_cases hasks : isPresent s i = true ∧ s.seqs[i].waitsFor ≠ none
  · obtain ⟨hp, hw⟩ := hasks
    obtain ⟨c, hc⟩ := Option.ne_none_iff_exists'.mp hw
    rw [joined_of_waits (isPresent_iff.mp hp) hc] at h
    exact (mem_enqueue h).imp_left (congrArg QEntry.str)
  · rw [joined_of_not_waits hasks] at h
    exact .inr h

theorem joined_of_nil {s : State} (i : Str) (hq : s.arb.queue = []) : joined s i = [] ∨ ∃ e, joined s i = [e] := by
  by_cases hasks : isPresent s i = true ∧ s.seqs[i].waitsFor ≠ none
  · obtain ⟨hp, hw⟩ := hasks
    obtain ⟨c, hc⟩ := Option.ne_none_iff_exists'.mp hw
    rw [joined_of_waits (isPresent_iff.mp hp) hc, hq, enqueue_nil]
    exact .inr ⟨_, rfl⟩
  · rw [joined_of_not_waits hasks, hq]
    exact .inl rfl

/-- What the arbiter leaves of the return of a grant. -/
structure ReturnHandled (s m : State) (i : Str) : Prop where
  free    : s.arb.kPending = none →
    (joined s i = [] → m.arb = { s.arb with queue := [] } ∧ ∀ j : Str, m.seqs[j] = returnedSeq s i j)
    ∧ ∀ e rest, joined s i = e :: rest → m.arb = { s.arb with queue := rest }
      ∧ ∀ j : Str, m.seqs[j] = if j = e.str then startedAt s.seqs[j] e.kind s.cfg m.now else returnedSeq s i j
  pending : ∀ k, s.arb.kPending = some k →
    m.arb = (if grantsInUse s = k + 1 then ⟨joined s i, k, none⟩ else { s.arb with queue := joined s i })
    ∧ ∀ j : Str, m.seqs[j] = returnedSeq s i j

section handled
variable {s w : State} {i : Str} (h : Returned s w i) (harb : w.arb = s.arb) (hgrant : s.seqs[i].grant ≠ .none) (hqueue : QueueAgrees s)
  (hrests : ArbiterRests s)
include h harb hgrant hqueue hrests

/-- R78: with no K pending the grant goes to the head of the queue. -/
theorem arbitrate_returned_free (hk : grantsInUse s ≤ s.arb.k) (hp : s.arb.kPending = none) :
    (joined s i = [] → (arbitrate w).arb = { s.arb with queue := [] } ∧ ∀ j : Str, (arbitrate w).seqs[j] = returnedSeq s i j)
    ∧ ∀ e rest, joined s i = e :: rest → (arbitrate w).arb = { s.arb with queue := rest }
      ∧ ∀ j : Str, (arbitrate w).seqs[j] = if j = e.str then startedAt s.seqs[j] e.kind s.cfg w.now else returnedSeq s i j := by
  have hstands : applyPendingK w = w := by
    unfold applyPendingK
    rw [harb, hp]
  have harbitrate := h.arbitrate hgrant hqueue hrests
  rw [hstands] at harbitrate
  rw [harbitrate]
  refine ⟨fun hj => ?_, fun e rest hj => ?_⟩
  · rw [hj, harb]
    exact ⟨rfl, h.seq⟩
  · have hslot : slotFree { w with arb := { w.arb with queue := e :: rest } } = true := by
      refine slotFree_iff.mpr ⟨?_, by rw [harb]; exact hp⟩
      have hcount := h.grantsInUse hgrant
      rw [harb]
      exact Nat.lt_of_lt_of_le (Nat.lt_of_lt_of_eq (Nat.lt_succ_self _) hcount.symm) hk
    have hfree : w.seqs[e.str].grant = .none := by
      rcases mem_joined (hj ▸ List.mem_cons_self : e ∈ joined s i) with he | he
      · subst he
        exact h.free
      · rw [h.seq]
        exact returnedSeq_free hqueue i he
    have hends : rest = [] ∨ w.arb.k ≤ grantsInUse w + 1 := by
      rw [harb, ← h.grantsInUse hgrant]
      refine (hrests.heads hp).imp_left fun hq => ?_
      rcases joined_of_nil i hq with hnil | ⟨x, hx⟩
      · exact absurd (hj.symm.trans hnil) (by simp)
      · exact (List.cons.inj (hj.symm.trans hx)).2
    rw [hj, List.length_cons, grantHeads_one rfl hslot hfree hends]
    refine ⟨by rw [harb]; rfl, fun j => ?_⟩
    split
    · next hje =>
      rw [hje, giveGrant_seq_self]
      exact (congrArg (fun q : Seq => q.start e.kind w.cfg w.now) (h.seq e.str)).trans
        (by rw [returnedSeq_start, h.cfg])
    · next hje =>
      rw [giveGrant_seq_other _ (Ne.symm hje)]
      exact h.seq j

/-- R79: while a lower K is pending no grant is given, and the return that comes down to it makes it active. -/
theorem arbitrate_returned_pending {k : Nat} (hp : s.arb.kPending = some k) :
    (arbitrate w).arb = (if grantsInUse s = k + 1 then ⟨joined s i, k, none⟩ else { s.arb with queue := joined s i })
    ∧ ∀ j : Str, (arbitrate w).seqs[j] = returnedSeq s i j := by
  have hover := hrests.pending k hp
  have hcount := h.grantsInUse hgrant
  have hpw : w.arb.kPending = some k := by rw [harb, hp]
  rw [h.arbitrate hgrant hqueue hrests, applyPendingK_of_pending hpw]
  by_cases hlast : grantsInUse s = k + 1
  · rw [if_pos hlast, if_pos (by omega), grantHeads_rests]
    · exact ⟨rfl, h.seq⟩
    · refine .inr (Bool.eq_false_iff.mpr fun hf => ?_)
      have hlt : grantsInUse w < k := (slotFree_iff.mp hf).1
      omega
  · rw [if_neg hlast, if_neg (by omega), grantHeads_rests]
    · exact ⟨by rw [harb], h.seq⟩
    · exact .inr (slotFree_pending hpw)

theorem arbitrate_returned (hk : grantsInUse s ≤ s.arb.k) : ReturnHandled s (arbitrate w) i := by
  have hnow := (arbitrate_arbitrated w).now
  refine ⟨?_, fun k => arbitrate_returned_pending h harb hgrant hqueue hrests⟩
  rw [hnow]
  exact arbitrate_returned_free h harb hgrant hqueue hrests hk

end handled

end Sys2Proof.Claims

/-! The end of the event that returns a grant (O58). -/

namespace Sys2Proof.Claims

open Sys2Proof Sys2Proof.Machine

/-! ## The search unit -/

/-- An event that moves no switch, no input and no own target leaves the search unit alone. -/
theorem searchReact_stands {s t : State} (hseqs : ∀ j : Str, t.seqs[j].state = s.seqs[j].state) (hinputs : t.inputs = s.inputs)
    (hcfg : t.cfg = s.cfg) (hown : ∀ j : Str, ownTargetOf t j = ownTargetOf s j) : searchReact s t = t := by
  have hfailed : failedEntry s t = false := by
    unfold failedEntry
    rw [List.any_eq_false]
    intro j _
    rw [hseqs]
    cases s.seqs[j].state <;> simp
  have hshutdown : (!s.inputs.shdnActive && t.inputs.shdnActive) = false := by
    rw [hinputs, Bool.not_and_self]
  have hconfig : searchConfigDiffers s.cfg t.cfg = false := by
    rw [hcfg]
    simp [searchConfigDiffers]
  have hgone : (t.search.suspects.filter fun j => isPresent t j && overtaken s t j) = [] := by
    refine List.filter_eq_nil_iff.mpr fun j _ => ?_
    rw [overtaken, hown]
    cases ownTargetOf s j <;> simp
  unfold searchReact
  rw [hfailed, hshutdown, hconfig, hgone]
  simp

theorem waitsFor_state {q : Seq} {c : Coil} (h : q.waitsFor = some c) :
    q.state = .openQueued ∧ c = .open_ ∨ q.state = .closeQueued ∧ c = .close_ := by
  unfold Seq.waitsFor at h
  split at h
  · next hs => exact .inl ⟨hs, (Option.some.inj h).symm⟩
  · next hs => exact .inr ⟨hs, (Option.some.inj h).symm⟩
  · contradiction

/-- A sequence that starts does not end a switch wait (R88). -/
theorem switchWaitHolds_of_mayStart {s t : State} (hcfg : t.cfg = s.cfg) (hrole : ∀ j : Str, t.table[j].role = s.table[j].role)
    (hseq : ∀ j : Str, ∃ q : Seq, q.state = s.seqs[j].state ∧ ∃ cfg now, q.MayStart t.seqs[j] cfg now)
    (ht : switchWaitHolds t = true) : switchWaitHolds s = true := by
  refine List.all_eq_true.mpr fun j hj => ?_
  have h := List.all_eq_true.mp ht j hj
  rw [hrole, isPresent_congr hcfg] at h
  obtain ⟨q, hq, cfg, now, hs | ⟨c, hw, hs⟩⟩ := hseq j
  · rwa [hs, hq] at h
  · have hstate : t.seqs[j].state = c.runState := by rw [hs]; rfl
    have hwaits : s.seqs[j].state = .openQueued ∧ c = .open_ ∨ s.seqs[j].state = .closeQueued ∧ c = .close_ := by
      rw [← hq]
      exact waitsFor_state hw
    rw [hstate] at h
    rcases hwaits with ⟨hj, rfl⟩ | ⟨hj, rfl⟩
    · rw [hj]
      simpa [Coil.runState] using h
    · rw [hj]
      simpa [Coil.runState] using h

/-! ## The arbiter -/

/-- Where the targets stand, the second time that they are carried out leaves the arbiter alone too. -/
theorem finish_arb {s₀ s₁ : State} (hs : TargetsStand s₀ s₁) (hq : QueueAgrees (carryOut (searchReact s₀ s₁))) :
    (finish s₀ s₁).arb = (carryOut (searchReact s₀ s₁)).arb := by
  have hp (k : Str) : isPresent (carryOut (searchReact s₀ s₁)) k = isPresent s₁ k :=
    isPresent_congr ((carries_searchReact s₀ s₁).trans (carries_carryOut _)).cfg k
  have hs' : ∀ k : Str, isPresent (carryOut (searchReact s₀ s₁)) k = true →
      targetOf (judgeSwitchWait (carryOut (searchReact s₀ s₁))) k = (carryOut (searchReact s₀ s₁)).table[k].target :=
    fun k hk => hs k ((hp k).symm.trans hk)
  have htaken := carryOut_targetsTaken (searchReact s₀ s₁)
  have hrests := carryOut_rests (searchReact s₀ s₁)
  unfold finish
  rw [refreshPins_arb]
  generalize carryOut (searchReact s₀ s₁) = m at *
  have hseqs := fun k => reconcile_stands htaken (carries_judgeSwitchWait m).cfg (judgeSwitchWait_seqs m) hs' k
  have harb : (reconcile (recompute (judgeSwitchWait m))).arb = m.arb :=
    ((reconcile_arb _).trans (recompute_arb _)).trans (judgeSwitchWait_leaves m).1
  have hcfg : (reconcile (recompute (judgeSwitchWait m))).cfg = m.cfg :=
    (((carries_judgeSwitchWait m).trans (carries_recompute _)).trans (carries_reconcile _)).cfg
  unfold carryOut
  generalize reconcile (recompute (judgeSwitchWait m)) = w at *
  have hfits : EntriesFit w := fun e he => by
    rw [harb] at he
    rw [hseqs]
    exact .inl (hq.1 e he).1
  rw [arbitrate_again (hrests.congr hcfg harb hseqs) hfits]
  have hkept : (w.arb.queue.filter fun e => w.seqs[e.str].waitsFor == some e.kind) = w.arb.queue := by
    refine List.filter_eq_self.mpr fun e he => ?_
    rw [harb] at he
    rw [hseqs, (hq.1 e he).1, beq_self_eq_true]
  unfold withdraw
  rw [hkept]
  exact harb

/-! ## The return -/

/-- The state in which the grant of a string has been returned. -/
def grantReturned (s : State) (i : Str) : State := s.setSeq i { s.seqs[i] with grant := .none }

theorem exec_grantReturn {dt : Nat} {s : State} {i : Str} {x : Nat} (hg : s.seqs[i].grant = .recharging x) (hx : x ≤ s.now + dt) :
    exec (.grantReturn dt i) s = .next (finish (s.advance dt) (grantReturned (s.advance dt) i)) := by
  change execGrantReturn dt i s = _
  unfold execGrantReturn
  simp only [advance_seqs, hg]
  exact congrArg Host.Outcome.next (if_pos hx)

theorem grantReturned_seq (s : State) (i j : Str) : (grantReturned s i).seqs[j] = returnedSeq s i j := by
  unfold returnedSeq
  split
  · next h =>
    subst h
    exact setSeq_self ..
  · next h => exact setSeq_other s (Ne.symm h) _

theorem returnedSeq_state (s : State) (i j : Str) : (returnedSeq s i j).state = s.seqs[j].state := by
  unfold returnedSeq
  split
  · next h =>
    subst h
    rfl
  · rfl

theorem returnedSeq_hasTaken {s : State} {i j : Str} {t : Target} (h : s.seqs[j].HasTaken t) : (returnedSeq s i j).HasTaken t := by
  unfold returnedSeq
  split
  · next hj =>
    subst hj
    exact ⟨h.connected, h.isolated, h.settle⟩
  · exact h

theorem searchReact_grantReturned (s : State) (i : Str) : searchReact s (grantReturned s i) = grantReturned s i :=
  searchReact_stands (fun j => by rw [grantReturned_seq, returnedSeq_state]) rfl rfl fun _ => rfl

/-- The sequencers that have taken their targets do not move before the arbiter does. -/
theorem returned_reconcile {s : State} (i : Str) (hagrees : TableAgrees s) (htaken : TargetsTaken s) :
    Returned s (reconcile (recompute (grantReturned s i))) i := by
  have ht : TargetsTaken (grantReturned s i) := fun j hj => by
    rw [grantReturned_seq]
    exact returnedSeq_hasTaken (htaken j hj)
  have htarget : ∀ j : Str, isPresent (grantReturned s i) j = true →
      targetOf (grantReturned s i) j = (grantReturned s i).table[j].target := fun j hj => (hagrees j hj).1.symm
  refine ⟨fun j => (reconcile_stands ht rfl rfl htarget j).trans (grantReturned_seq ..), ?_, ?_⟩
  · exact ((carries_recompute (grantReturned s i)).trans (carries_reconcile _)).cfg
  · rw [reconcile_arb, recompute_arb]
    rfl

/-- The event's own targets stand: a hold stage that waits goes on waiting (R88, R96). -/
theorem targetsStand_grantReturned {s : State} (i : Str) (hagrees : TableAgrees s) (htaken : TargetsTaken s) (hhold : HoldWaits s) :
    TargetsStand s (grantReturned s i) := by
  by_cases hstage : s.search.stage = .hold
  · refine targetsStand_of_waiting (Bool.eq_false_iff.mpr fun hw => Bool.eq_false_iff.mp (hhold hstage) ?_)
    rw [searchReact_grantReturned] at hw
    have hreturned := returned_reconcile i hagrees htaken
    refine switchWaitHolds_of_mayStart (carries_carryOut (grantReturned s i)).cfg (fun j => carryOut_role _ j) (fun j => ?_) hw
    refine ⟨_, ?_, _, _, (carryOut_arbitrated (grantReturned s i)).seqs j⟩
    rw [hreturned.seq, returnedSeq_state]
  · exact targetsStand_of_stage (by rw [searchReact_grantReturned]; exact hstage)

theorem queueAgrees_grantReturned {s : State} {i : Str} (h : QueueAgrees s) : QueueAgrees (carryOut (grantReturned s i)) := by
  have hready : QueueReady (grantReturned s i) := h.ready.congr rfl fun j hj => by
    rw [grantReturned_seq]
    unfold returnedSeq
    split
    · rfl
    · exact hj
  exact hready.carryOut

/-- R77 to R79: what the return leaves of the arbiter and of every sequencer. -/
theorem finish_grantReturned {s : State} {i : Str} (hagrees : TableAgrees s) (htaken : TargetsTaken s) (hqueue : QueueAgrees s)
    (hrests : ArbiterRests s) (hk : grantsInUse s ≤ s.arb.k) (hhold : HoldWaits s) (hgrant : s.seqs[i].grant ≠ .none) :
    ReturnHandled s (finish s (grantReturned s i)) i := by
  have hreturned := returned_reconcile i hagrees htaken
  have harb : (reconcile (recompute (grantReturned s i))).arb = s.arb := by
    rw [reconcile_arb, recompute_arb]
    rfl
  have hhandled : ReturnHandled s (carryOut (grantReturned s i)) i := arbitrate_returned hreturned harb hgrant hqueue hrests hk
  have hstands := targetsStand_grantReturned i hagrees htaken hhold
  have hseqs := fun j => (finish_stands hstands j).1
  have harbs := finish_arb hstands (by rw [searchReact_grantReturned]; exact queueAgrees_grantReturned hqueue)
  have hnow := (carries_finish s (grantReturned s i)).now.trans (carries_carryOut (grantReturned s i)).now.symm
  rw [searchReact_grantReturned] at hseqs harbs
  obtain ⟨hfree, hpending⟩ := hhandled
  generalize carryOut (grantReturned s i) = m at *
  generalize finish s (grantReturned s i) = u at *
  exact ⟨by simpa only [harbs, hnow, hseqs] using hfree, by simpa only [harbs, hseqs] using hpending⟩

/-! ## The grant of the string itself -/

/-- A sequencer with no grant, or with that of a sequence started at the instant `now`. -/
def FreshGrant (q : Seq) (cfg : Config) (now : Nat) : Prop :=
  q.grant = .none ∨ q.grant = .held ∧ ∃ a, q.act = some a ∧ a.phase = .settle ∧ a.until_ = now + cfg.tSettle * 1000

theorem FreshGrant.takeTarget {q : Seq} {cfg : Config} {now : Nat} (h : FreshGrant q cfg now) (t : Target) (at_ : Nat) :
    FreshGrant (q.takeTarget t at_) cfg now := by
  unfold Seq.takeTarget
  split
  · exact h
  · exact h
  · exact h
  · split
    · split
      · exact .inl rfl
      · exact h
    · exact h
  · exact h
  · exact h
  · exact h

theorem FreshGrant.mayStart {q r : Seq} {cfg : Config} {now : Nat} (h : FreshGrant q cfg now) (hr : q.MayStart r cfg now) :
    FreshGrant r cfg now := by
  rcases hr with rfl | ⟨c, _, rfl⟩
  · exact h
  · exact .inr ⟨rfl, _, rfl, rfl, rfl⟩

theorem FreshGrant.carryOut {s : State} {i : Str} (h : FreshGrant s.seqs[i] s.cfg s.now) :
    FreshGrant (carryOut s).seqs[i] s.cfg s.now := by
  have hc := (carries_recompute s).trans (carries_reconcile _)
  have hseq := (carryOut_arbitrated s).seqs i
  rw [hc.cfg, hc.now] at hseq
  refine FreshGrant.mayStart ?_ hseq
  rw [reconcile_seq]
  simp only [recompute_seqs]
  split
  · exact h.takeTarget _ _
  · exact h

theorem FreshGrant.finish {s₁ : State} {i : Str} (s₀ : State) (h : FreshGrant s₁.seqs[i] s₁.cfg s₁.now) :
    FreshGrant (finish s₀ s₁).seqs[i] s₁.cfg s₁.now := by
  have hfirst : FreshGrant (Machine.carryOut (searchReact s₀ s₁)).seqs[i] s₁.cfg s₁.now := by
    have hr := carries_searchReact s₀ s₁
    have hx := FreshGrant.carryOut (s := searchReact s₀ s₁) (i := i) (by rw [hr.cfg, hr.now]; simpa only [searchReact_seqs] using h)
    rwa [hr.cfg, hr.now] at hx
  have hc := (carries_searchReact s₀ s₁).trans (carries_carryOut _)
  unfold Machine.finish
  rw [refreshPins_seqs]
  generalize Machine.carryOut (searchReact s₀ s₁) = m at *
  have hj := carries_judgeSwitchWait m
  have hx := FreshGrant.carryOut (s := judgeSwitchWait m) (i := i) (by
    rw [hj.cfg, hj.now, hc.cfg, hc.now]
    simpa only [judgeSwitchWait_seqs] using hfirst)
  rwa [hj.cfg, hj.now, hc.cfg, hc.now] at hx

/-- Settles O58: the arbiter joins the deferred request and grants the head of the queue, and the end of the event moves nothing else. -/
theorem grantReturns : Obligations.GrantReturns := by
  intro dt s i x hg hx returned
  have hexec := exec_grantReturn hg hx
  have hframe := finish_switchesEnd (s.advance dt) (switches_setSeq (s.advance dt) i { s.seqs[i] with grant := .none })
  have hc := carries_finish (s.advance dt) (grantReturned (s.advance dt) i)
  have hfresh := FreshGrant.finish (s₁ := grantReturned (s.advance dt) i) (i := i) (s.advance dt)
    (.inl (by rw [grantReturned_seq, returnedSeq, if_pos rfl]))
  have hhandled := fun ha ht hq hr hk hh => finish_grantReturned (s := s.advance dt) (i := i) ha ht hq hr hk hh
    (fun hn => absurd (hg.symm.trans hn) (by simp))
  refine ⟨_, hexec, ?_⟩
  change SwitchesEnd _ (finish (s.advance dt) (grantReturned (s.advance dt) i)) at hframe
  have hnow := hc.now
  have hevid := hc.evid
  clear hexec hc
  generalize finish (s.advance dt) (grantReturned (s.advance dt) i) = u at *
  obtain ⟨hbus, hjournal, hmeasurement, hinputs, hlines⟩ := hframe
  refine ⟨hfresh, fun ha ht hq hr hk hh => ?_, hbus, hjournal, hmeasurement, ⟨hevid, hinputs⟩, hlines⟩
  obtain ⟨hfree, hpending⟩ := hhandled ha ht hq (hr.congr rfl rfl fun _ => rfl) hk hh
  rw [hnow] at hfree
  exact ⟨hfree, hpending⟩

end Sys2Proof.Claims

/-! The checks on a ring that a read has shown whole (R177, R178), for O25. -/

namespace Sys2Proof.Machine

open Sys2Proof.Claims (Fits Newest runSlot)

/-! ## Lists -/

theorem dropWhile_append_of_head {α : Type} {p : α → Bool} {xs ys : List α} (hx : ∀ x ∈ xs, p x = true)
    (hy : ∀ y ∈ ys.head?, p y = false) : (xs ++ ys).dropWhile p = ys := by
  rw [List.dropWhile_append_of_pos hx]
  cases ys with
  | nil => rfl
  | cons y ys => rw [List.dropWhile_cons, hy y rfl, if_neg Bool.false_ne_true]

/-- The last entry of a list for which `f` has a value. -/
theorem head?_filterMap_reverse {α β : Type} {f : α → Option β} {xs : List α} {d : Nat} {y : β} (hd : xs[d]?.bind f = some y)
    (hlast : ∀ e > d, xs[e]?.bind f = none) : (xs.reverse.filterMap f).head? = some y := by
  obtain ⟨x, hx, hf⟩ := Option.bind_eq_some_iff.mp hd
  obtain ⟨hlt, hx⟩ := List.getElem?_eq_some_iff.mp hx
  have hsplit : xs = xs.take d ++ x :: xs.drop (d + 1) := by
    rw [← hx, ← List.drop_eq_getElem_cons hlt, List.take_append_drop]
  have hrest : (xs.drop (d + 1)).filterMap f = [] := by
    rw [List.filterMap_eq_nil_iff]
    intro z hz
    obtain ⟨e, he⟩ := List.getElem?_of_mem hz
    rw [List.getElem?_drop] at he
    simpa [he] using hlast (d + 1 + e) (by omega)
  rw [List.filterMap_reverse, List.head?_reverse, hsplit, List.filterMap_append, List.filterMap_cons_some hf, hrest]
  simp

theorem head?_filterMap_reverse_none {α β : Type} {f : α → Option β} {xs : List α} (h : ∀ d : Nat, xs[d]?.bind f = none) :
    (xs.reverse.filterMap f).head? = none := by
  have hnil : xs.filterMap f = [] := by
    rw [List.filterMap_eq_nil_iff]
    intro z hz
    obtain ⟨e, he⟩ := List.getElem?_of_mem hz
    simpa [he] using h e
  rw [List.filterMap_reverse, hnil]
  rfl

/-! ## The sequences of a run -/

theorem mem_runSeqs {n k : Nat} {q : Half} {xs : List (Nat × Summary)} :
    (k, q) ∈ runSeqs n xs ↔ ∃ d slot r, k = n + d ∧ xs[d]? = some (slot, .record r) ∧ q = r.seq := by
  induction xs generalizing n with
  | nil => simp [runSeqs]
  | cons x xs ih =>
    have hshift : (∃ d slot r, k = n + 1 + d ∧ xs[d]? = some (slot, Summary.record r) ∧ q = r.seq)
        ↔ ∃ d slot r, k = n + (d + 1) ∧ (x :: xs)[d + 1]? = some (slot, Summary.record r) ∧ q = r.seq := by
      simp only [List.getElem?_cons_succ, Nat.add_assoc, Nat.add_comm 1]
    obtain ⟨slot, y⟩ := x
    cases y with
    | record r =>
      rw [runSeqs, List.mem_cons, ih, hshift, Prod.mk.injEq]
      constructor
      · rintro (⟨rfl, rfl⟩ | ⟨d, h⟩)
        · exact ⟨0, slot, r, rfl, rfl, rfl⟩
        · exact ⟨d + 1, h⟩
      · rintro ⟨d, slot', r', hk, hx, hq⟩
        cases d with
        | zero =>
          cases hx
          exact .inl ⟨hk, hq⟩
        | succ d => exact .inr ⟨d, slot', r', hk, hx, hq⟩
    | unseen | erased | corrupt | doubtful =>
      rw [runSeqs, ih, hshift]
      · constructor
        · rintro ⟨d, h⟩
          exact ⟨d + 1, h⟩
        · rintro ⟨d, slot', r', hk, hx, hq⟩
          cases d with
          | zero => cases hx
          | succ d => exact ⟨d, slot', r', hk, hx, hq⟩
      · nofun

theorem runSeqs_pairwise (n : Nat) (xs : List (Nat × Summary)) :
    (runSeqs n xs).Pairwise (fun a b => a.1 ≤ b.1) ∧ ∀ x ∈ runSeqs n xs, n ≤ x.1 := by
  have hle : ∀ m (ys : List (Nat × Summary)), ∀ x ∈ runSeqs m ys, m ≤ x.1 := by
    rintro m ys ⟨k, q⟩ hx
    obtain ⟨d, _, _, rfl, _⟩ := mem_runSeqs.mp hx
    exact Nat.le_add_right m d
  refine ⟨?_, hle n xs⟩
  induction xs generalizing n with
  | nil => exact .nil
  | cons x xs ih =>
    obtain ⟨slot, y⟩ := x
    cases y with
    | record r =>
      rw [runSeqs]
      exact List.pairwise_cons.mpr ⟨fun z hz => Nat.le_of_succ_le (hle (n + 1) xs z hz), ih (n + 1)⟩
    | unseen | erased | corrupt | doubtful =>
      rw [runSeqs]
      · exact ih (n + 1)
      · nofun

theorem seq_shift (q : Half) {k n : Nat} (h : k ≤ n) : q + BitVec.ofNat 16 k + BitVec.ofNat 16 (n - k) = q + BitVec.ofNat 16 n := by
  rw [BitVec.add_assoc, ← BitVec.ofNat_add, Nat.add_sub_cancel' h]

/-- Check 5 of R177: the sequences count on from one value. -/
theorem seqsFit_iff {xs : List (Nat × Half)} (h : xs.Pairwise fun a b => a.1 ≤ b.1) :
    seqsFit xs = true ↔ ∃ q : Half, ∀ x ∈ xs, x.2 = q + BitVec.ofNat 16 x.1 := by
  cases xs with
  | nil => exact ⟨fun _ => ⟨0, nofun⟩, fun _ => rfl⟩
  | cons x xs =>
    obtain ⟨k, p⟩ := x
    have hle := (List.pairwise_cons.mp h).1
    rw [seqsFit, List.all_eq_true]
    simp only [beq_iff_eq]
    constructor
    · intro hx
      have hp : p = p - BitVec.ofNat 16 k + BitVec.ofNat 16 k := (BitVec.sub_add_cancel ..).symm
      refine ⟨p - BitVec.ofNat 16 k, fun y hy => ?_⟩
      rcases List.mem_cons.mp hy with rfl | hy
      · exact hp
      · rw [hx y hy]
        exact (congrArg (· + BitVec.ofNat 16 (y.1 - k)) hp).trans (seq_shift _ (hle y hy))
    · rintro ⟨q, hq⟩ y hy
      have hp : p = q + BitVec.ofNat 16 k := hq (k, p) List.mem_cons_self
      rw [hq y (List.mem_cons_of_mem _ hy), hp, seq_shift q (hle y hy)]

/-! ## The run -/

/-- The run of `len` slots before the head `h`, oldest first, each with its slot. -/
def runOf (ring : List Summary) (h len : Nat) : List (Nat × Summary) :=
  (List.range len).map fun d => (runSlot ring h len d, ring.getD (runSlot ring h len d) .unseen)

theorem length_runOf (ring : List Summary) (h len : Nat) : (runOf ring h len).length = len := by simp [runOf]

theorem getElem?_runOf {ring : List Summary} {h len d : Nat} (hd : d < len) :
    (runOf ring h len)[d]? = some (runSlot ring h len d, ring.getD (runSlot ring h len d) .unseen) := by
  simp [runOf, hd]

theorem getElem?_runOf_none {ring : List Summary} {h len d : Nat} (hd : len ≤ d) : (runOf ring h len)[d]? = none := by
  simp [runOf, hd]

/-- The slots in ring order from the head on: the free ones, and then the run. -/
theorem ringFrom_eq {ring : List Summary} {h len : Nat} (hlen : len ≤ ring.length) :
    ringFrom ring h = ((List.range (ring.length - len)).map fun d => ((h + d) % ring.length, ring.getD ((h + d) % ring.length) .unseen))
      ++ runOf ring h len := by
  have hslot (d : Nat) : runSlot ring h len d = (h + (ring.length - len + d)) % ring.length := by
    unfold runSlot
    congr 1
    omega
  have hrange : List.range ring.length = List.range (ring.length - len) ++ (List.range len).map (ring.length - len + ·) := by
    rw [← List.range_add, Nat.sub_add_cancel hlen]
  unfold ringFrom runOf upTo
  rw [hrange, List.map_append, List.map_map]
  simp only [hslot, Function.comp_def]

theorem getD_of_getElem? {xs : List Summary} {k : Nat} {x : Summary} (h : xs[k]? = some x) : xs.getD k .unseen = x := by
  rw [List.getD_eq_getElem?_getD, h, Option.getD_some]

theorem getElem?_of_lt {xs : List Summary} {k : Nat} (h : k < xs.length) : xs[k]? = some (xs.getD k .unseen) := by
  rw [List.getD_eq_getElem?_getD, List.getElem?_eq_getElem h, Option.getD_some]

theorem not_erased_of_occupied {x : Summary} (h : x.occupied = true) : x ≠ .erased := by
  rintro rfl
  exact Bool.false_ne_true h

/-! ## The head -/

/-- A slot is the head that `findHead` looks for: it is ERASED after an occupied one. -/
def atHead (ring : List Summary) (k : Nat) : Bool :=
  ring.getD k .unseen == .erased && (ring.getD ((k + ring.length - 1) % ring.length) .unseen).occupied

theorem findHead_eq (ring : List Summary) : findHead ring = ((List.range ring.length).find? (atHead ring)).getD 0 := rfl

section fits
variable {ring : List Summary} {h len : Nat} {q : Half} (hf : Fits ring h len q)
include hf

theorem fits_rest {d : Nat} (hd : d < ring.length - len) : ring.getD ((h + d) % ring.length) .unseen = .erased :=
  getD_of_getElem? (hf.rest d hd)

theorem fits_run {d : Nat} (hd : d < len) : (ring.getD (runSlot ring h len d) .unseen).occupied = true := by
  obtain ⟨x, hx, ho⟩ := hf.run d hd
  rw [getD_of_getElem? hx]
  exact ho

/-- Every slot is a free one, or one of the run. -/
theorem fits_cases {k : Nat} (hk : k < ring.length) :
    (∃ d < ring.length - len, k = (h + d) % ring.length) ∨ ∃ d < len, k = runSlot ring h len d := by
  obtain ⟨e, he, rfl⟩ := Claims.exists_rotation h hk
  by_cases hd : e < ring.length - len
  · exact .inl ⟨e, hd, rfl⟩
  · refine .inr ⟨e - (ring.length - len), by omega, ?_⟩
    unfold runSlot
    congr 1
    have := hf.free
    omega

theorem findHead_of_fits : findHead ring = h := by
  have hfree := hf.free
  obtain ⟨hlt, hzero⟩ := hf.head
  rw [findHead_eq]
  by_cases hlen : len = 0
  · have hnone : (List.range ring.length).find? (atHead ring) = none := by
      rw [List.find?_range_eq_none]
      intro k hk
      have hprev : (k + ring.length - 1) % ring.length < ring.length := Nat.mod_lt _ (by omega)
      obtain ⟨d, hd, he⟩ := (fits_cases hf hprev).resolve_right fun ⟨d, hd, _⟩ => by omega
      rw [atHead, he, fits_rest hf hd]
      simp [Summary.occupied]
    rw [hnone, hzero hlen]
    rfl
  · have hfound : (List.range ring.length).find? (atHead ring) = some h := by
      rw [List.find?_range_eq_some]
      refine ⟨?_, List.mem_range.mpr hlt, fun k hk => ?_⟩
      · have herased := fits_rest hf (d := 0) (by omega)
        have hbefore := fits_run hf (d := len - 1) (by omega)
        have hslot : runSlot ring h len (len - 1) = (h + ring.length - 1) % ring.length := by
          unfold runSlot
          congr 1
          omega
        rw [Nat.add_zero, Nat.mod_eq_of_lt hlt] at herased
        rw [hslot] at hbefore
        rw [atHead, herased, hbefore]
        rfl
      · rcases fits_cases hf (by omega : k < ring.length) with ⟨d, hd, he⟩ | ⟨d, hd, he⟩
        · have hpos : 0 < d := by
            rcases Nat.eq_zero_or_pos d with rfl | hpos
            · rw [Nat.add_zero, Nat.mod_eq_of_lt hlt] at he
              omega
            · exact hpos
          have hprev : (k + ring.length - 1) % ring.length = (h + (d - 1)) % ring.length := by
            have hsum : h + (d - 1) + ring.length = h + d + (ring.length - 1) := by omega
            have hk' : k + ring.length - 1 = k + (ring.length - 1) := by omega
            rw [hk', he, Nat.mod_add_mod, ← hsum, Nat.add_mod_right]
          rw [atHead, hprev, fits_rest hf (by omega)]
          simp [Summary.occupied]
        · have hne := not_erased_of_occupied (fits_run hf hd)
          rw [← he] at hne
          rw [atHead, beq_false_of_ne hne]
          rfl
    rw [hfound]
    rfl

/-- The run is what follows the free slots. -/
theorem run_of_fits : (ringFrom ring h).dropWhile (fun x => x.2 == .erased) = runOf ring h len := by
  rw [ringFrom_eq hf.free.le]
  refine dropWhile_append_of_head (fun x hx => ?_) fun y hy => ?_
  · obtain ⟨d, hd, rfl⟩ := List.mem_map.mp hx
    exact beq_iff_eq.mpr (fits_rest hf (List.mem_range.mp hd))
  · obtain ⟨d, hd, rfl⟩ := List.mem_map.mp (List.mem_of_mem_head? hy)
    exact beq_false_of_ne (not_erased_of_occupied (fits_run hf (List.mem_range.mp hd)))

end fits

/-! ## The sectors -/

theorem all_slice {xs : List Summary} {a b : Nat} (h : a + b ≤ xs.length) (p : Summary → Bool) :
    ((xs.drop a).take b).all p = true ↔ ∀ k < b, ∃ x, xs[a + k]? = some x ∧ p x = true := by
  rw [List.all_eq_true]
  constructor
  · intro hall k hk
    have hlt : a + k < xs.length := by omega
    refine ⟨xs[a + k], List.getElem?_eq_getElem hlt, hall _ ?_⟩
    refine List.mem_of_getElem? (i := k) ?_
    rw [List.getElem?_take, if_pos hk, List.getElem?_drop, List.getElem?_eq_getElem hlt]
  · intro hall x hx
    obtain ⟨k, hk⟩ := List.getElem?_of_mem hx
    rw [List.getElem?_take] at hk
    split at hk
    · next hlt =>
      rw [List.getElem?_drop] at hk
      obtain ⟨y, hy, hp⟩ := hall k hlt
      rw [hk] at hy
      cases hy
      exact hp
    · cases hk

/-- Check 3 of R177 of one sector of the ring. -/
theorem sectorFits_iff {ring : List Summary} {h j : Nat} (hj : j < ring.length / 512) :
    sectorFits ring h j = true ↔
      (j = h / 512 → ∀ k < 512, ∃ x, ring[512 * j + k]? = some x ∧ if k < h % 512 then x.occupied = true else x = .erased)
      ∧ (j ≠ h / 512 → (∀ k < 512, ∃ x, ring[512 * j + k]? = some x ∧ x.occupied = true)
          ∨ ∀ k < 512, ring[512 * j + k]? = some .erased) := by
  have hwhole : 512 * j + 512 ≤ ring.length := by omega
  have hle : h % 512 ≤ 512 := by omega
  unfold sectorFits
  simp only
  by_cases hhead : j = h / 512
  · have hfirst : ((ring.drop (512 * j)).take 512).take (h % 512) = (ring.drop (512 * j)).take (h % 512) := by
      rw [List.take_take, Nat.min_eq_left hle]
    have hlast : ((ring.drop (512 * j)).take 512).drop (h % 512) = (ring.drop (512 * j + h % 512)).take (512 - h % 512) := by
      rw [List.drop_take, List.drop_drop]
    rw [if_pos hhead, hfirst, hlast, Bool.and_eq_true, all_slice (by omega), all_slice (by omega)]
    refine ⟨fun ⟨ho, he⟩ => ⟨fun _ k hk => ?_, fun hn => absurd hhead hn⟩, fun ⟨hs, _⟩ => ⟨fun k hk => ?_, fun k hk => ?_⟩⟩
    · by_cases hlt : k < h % 512
      · obtain ⟨x, hx, hp⟩ := ho k hlt
        exact ⟨x, hx, by rw [if_pos hlt]; exact hp⟩
      · obtain ⟨x, hx, hp⟩ := he (k - h % 512) (by omega)
        refine ⟨x, ?_, by rw [if_neg hlt]; exact beq_iff_eq.mp hp⟩
        rw [← hx]
        congr 1
        omega
    · obtain ⟨x, hx, hp⟩ := hs hhead k (by omega)
      rw [if_pos hk] at hp
      exact ⟨x, hx, hp⟩
    · obtain ⟨x, hx, hp⟩ := hs hhead (h % 512 + k) (by omega)
      rw [if_neg (by omega)] at hp
      rw [← Nat.add_assoc] at hx
      exact ⟨x, hx, beq_iff_eq.mpr hp⟩
  · have herased : (∀ k < 512, ∃ x, ring[512 * j + k]? = some x ∧ (x == Summary.erased) = true)
        ↔ ∀ k < 512, ring[512 * j + k]? = some .erased := by
      simp only [beq_iff_eq]
      exact forall₂_congr fun k _ => ⟨fun ⟨x, hx, he⟩ => he ▸ hx, fun hx => ⟨_, hx, rfl⟩⟩
    rw [if_neg hhead, Bool.or_eq_true, all_slice hwhole, all_slice hwhole, herased]
    exact ⟨fun hs => ⟨fun he => absurd he hhead, fun _ => hs⟩, fun ⟨_, hs⟩ => hs hhead⟩

/-! ## The verdict -/

/-- The records of a run, each at its place. -/
theorem mem_runSeqs_runOf {ring : List Summary} {h len k : Nat} {p : Half} (hn : 0 < ring.length) :
    (k, p) ∈ runSeqs 0 (runOf ring h len) ↔ k < len ∧ ∃ r, ring[runSlot ring h len k]? = some (.record r) ∧ p = r.seq := by
  rw [mem_runSeqs]
  have hslot (d : Nat) : ring[runSlot ring h len d]? = some (ring.getD (runSlot ring h len d) .unseen) :=
    getElem?_of_lt (Nat.mod_lt _ hn)
  constructor
  · rintro ⟨d, slot, r, rfl, hx, hp⟩
    rw [Nat.zero_add]
    have hd : d < len := by
      by_contra hge
      rw [getElem?_runOf_none (Nat.le_of_not_lt hge)] at hx
      cases hx
    rw [getElem?_runOf hd] at hx
    obtain ⟨_, hr⟩ := Prod.mk.inj (Option.some.inj hx)
    exact ⟨hd, r, by rw [hslot, hr], hp⟩
  · rintro ⟨hk, r, hr, hp⟩
    refine ⟨k, runSlot ring h len k, r, (Nat.zero_add k).symm, ?_, hp⟩
    rw [getElem?_runOf hk, getD_of_getElem? hr]

/-- A ring that passes the checks is adopted from its head and its run (R177). -/
theorem judgeRing_of_fits {ring : List Summary} {h len : Nat} {q : Half} (hf : Fits ring h len q) :
    judgeRing ring = some ⟨h, runOf ring h len⟩ := by
  have hfree := hf.free
  have hn : 0 < ring.length := by omega
  unfold judgeRing
  simp only [findHead_of_fits hf, run_of_fits hf]
  refine if_pos ?_
  have herased : ring.any (· == .erased) = true := by
    have hx := hf.rest 0 (by omega)
    exact List.any_eq_true.mpr ⟨_, List.mem_of_getElem? hx, by simp⟩
  have hrun : (runOf ring h len).all (fun x => x.2.occupied) = true := by
    refine List.all_eq_true.mpr fun x hx => ?_
    obtain ⟨d, hd, rfl⟩ := List.mem_map.mp hx
    exact fits_run hf (List.mem_range.mp hd)
  have hsectors : (upTo (ring.length / 512)).all (sectorFits ring h) = true :=
    List.all_eq_true.mpr fun j hj => (sectorFits_iff (List.mem_range.mp hj)).mpr (hf.sectors j (List.mem_range.mp hj))
  have hrecord : ((runOf ring h len).isEmpty || !(runSeqs 0 (runOf ring h len)).isEmpty) = true := by
    rcases Nat.eq_zero_or_pos len with rfl | hlen
    · rfl
    · obtain ⟨d, hd, r, hr⟩ := hf.record hlen
      have hmem := (mem_runSeqs_runOf hn).mpr ⟨hd, r, hr, rfl⟩
      rw [Bool.or_eq_true, Bool.not_eq_true', List.isEmpty_eq_false_iff]
      exact .inr (List.ne_nil_of_mem hmem)
  have hseqs : seqsFit (runSeqs 0 (runOf ring h len)) = true := by
    refine (seqsFit_iff (runSeqs_pairwise ..).1).mpr ⟨q, ?_⟩
    rintro ⟨k, p⟩ hx
    obtain ⟨hk, r, hr, rfl⟩ := (mem_runSeqs_runOf hn).mp hx
    exact hf.seqs k hk r hr
  rw [herased, hrun, hsectors, hrecord, hseqs]
  rfl

/-- The run that a judgement finds, by its length. -/
theorem run_eq_runOf (ring : List Summary) (h : Nat) : ∃ len ≤ ring.length,
    (ringFrom ring h).dropWhile (fun x => x.2 == .erased) = runOf ring h len
    ∧ ∀ d < ring.length - len, ring.getD ((h + d) % ring.length) .unseen = .erased := by
  have hsplit := List.takeWhile_append_dropWhile (p := fun x : Nat × Summary => x.2 == .erased) (l := ringFrom ring h)
  have hlength : (ringFrom ring h).length = ring.length := by simp [ringFrom, upTo]
  have hfirst := List.all_takeWhile (p := fun x : Nat × Summary => x.2 == .erased) (l := ringFrom ring h)
  generalize (ringFrom ring h).takeWhile (fun x => x.2 == .erased) = a at hsplit hfirst
  generalize (ringFrom ring h).dropWhile (fun x => x.2 == .erased) = b at hsplit
  have hsum : a.length + b.length = ring.length := by rw [← List.length_append, hsplit, hlength]
  rw [ringFrom_eq (h := h) (len := b.length) (by omega)] at hsplit
  have halen : ring.length - b.length = a.length := by omega
  obtain ⟨ha, hb⟩ := List.append_inj hsplit (by simp [halen])
  refine ⟨b.length, by omega, hb, fun d hd => ?_⟩
  have hmem : ((h + d) % ring.length, ring.getD ((h + d) % ring.length) .unseen) ∈ a := by
    rw [ha]
    exact List.mem_map.mpr ⟨d, List.mem_range.mpr hd, rfl⟩
  exact beq_iff_eq.mp (List.all_eq_true.mp hfirst _ hmem)

theorem findHead_lt {ring : List Summary} (hn : 0 < ring.length) : findHead ring < ring.length := by
  rw [findHead_eq]
  cases hf : (List.range ring.length).find? (atHead ring) with
  | none => exact hn
  | some k => exact List.mem_range.mp (List.mem_of_find?_eq_some hf)

/-- An erased ring has its head at slot 0. -/
theorem findHead_of_erased {ring : List Summary} (hn : 0 < ring.length) (h : ∀ k < ring.length, ring.getD k .unseen = .erased) :
    findHead ring = 0 := by
  have hnone : (List.range ring.length).find? (atHead ring) = none := by
    rw [List.find?_range_eq_none]
    intro k _
    rw [atHead, h ((k + ring.length - 1) % ring.length) (Nat.mod_lt _ hn)]
    simp [Summary.occupied]
  rw [findHead_eq, hnone]
  rfl

/-- A ring that is adopted passes the checks (R177). -/
theorem fits_of_judgeRing {ring : List Summary} {r : Ring} (h : judgeRing ring = some r) : ∃ len q, Fits ring r.head len q := by
  unfold judgeRing at h
  simp only at h
  split at h
  case isFalse => cases h
  next hchecks =>
  obtain rfl := Option.some.inj h
  obtain ⟨len, hle, hrun, hrest⟩ := run_eq_runOf ring (findHead ring)
  rw [hrun] at hchecks
  simp only [Bool.and_eq_true] at hchecks
  obtain ⟨⟨⟨⟨hany, hoccupied⟩, hsectors⟩, hrecord⟩, hseqs⟩ := hchecks
  obtain ⟨x, hx, hxe⟩ := List.any_eq_true.mp hany
  obtain ⟨e, he, hxe'⟩ := List.getElem_of_mem hx
  have hn : 0 < ring.length := by omega
  have hhead := findHead_lt hn
  have hslot (d : Nat) : ring[runSlot ring (findHead ring) len d]? = some (ring.getD (runSlot ring (findHead ring) len d) .unseen) :=
    getElem?_of_lt (Nat.mod_lt _ hn)
  have hocc (d : Nat) (hd : d < len) : (ring.getD (runSlot ring (findHead ring) len d) .unseen).occupied = true :=
    List.all_eq_true.mp hoccupied _ (List.mem_map.mpr ⟨d, List.mem_range.mpr hd, rfl⟩)
  have hfree : len < ring.length := by
    refine Nat.lt_of_le_of_ne hle fun hfull => ?_
    obtain ⟨d, hd, hed⟩ := Claims.exists_rotation (findHead ring) he
    have hslot' : runSlot ring (findHead ring) len d = e := by
      unfold runSlot
      rw [← hed]
      congr 1
      omega
    have ho := hocc d (by omega)
    rw [hslot', getD_of_getElem? (List.getElem?_eq_getElem he), hxe', beq_iff_eq.mp hxe] at ho
    exact Bool.false_ne_true ho
  obtain ⟨q, hq⟩ := (seqsFit_iff (runSeqs_pairwise ..).1).mp hseqs
  refine ⟨len, q, hfree, ⟨hhead, fun hlen => ?_⟩, fun d hd => ⟨_, hslot d, hocc d hd⟩, fun d hd => ?_, fun j hj => ?_, fun hlen => ?_,
    fun d hd r hr => ?_⟩
  · refine findHead_of_erased hn fun k hk => ?_
    obtain ⟨d, hd, rfl⟩ := Claims.exists_rotation (findHead ring) hk
    exact hrest d (by omega)
  · rw [getElem?_of_lt (Nat.mod_lt _ hn), hrest d hd]
  · exact (sectorFits_iff hj).mp (List.all_eq_true.mp hsectors j (List.mem_range.mpr hj))
  · have hne : runSeqs 0 (runOf ring (findHead ring) len) ≠ [] := by
      have hrun' : (runOf ring (findHead ring) len).isEmpty = false := by
        rw [List.isEmpty_eq_false_iff, ← List.length_pos_iff, length_runOf]
        exact hlen
      rwa [hrun', Bool.false_or, Bool.not_eq_true', List.isEmpty_eq_false_iff] at hrecord
    obtain ⟨⟨k, p⟩, hmem⟩ := List.exists_mem_of_ne_nil _ hne
    obtain ⟨hk, r, hr, _⟩ := (mem_runSeqs_runOf hn).mp hmem
    exact ⟨k, hk, r, hr⟩
  · exact hq (d, r.seq) ((mem_runSeqs_runOf hn).mpr ⟨hd, r, hr, rfl⟩)

/-! ## What an adoption takes -/

section taken
variable {ring : List Summary} {h len : Nat} {q : Half} (hf : Fits ring h len q)
include hf

/-- The next sequence of R178. -/
theorem ringNextSeq_of_fits : ringNextSeq ⟨h, runOf ring h len⟩ = if len = 0 then 0 else q + BitVec.ofNat 16 len := by
  have hn : 0 < ring.length := Nat.zero_lt_of_lt hf.free
  unfold ringNextSeq
  cases hlast : (runSeqs 0 (runOf ring h len)).getLast? with
  | none =>
    rw [List.getLast?_eq_none_iff] at hlast
    rw [if_pos]
    by_contra hlen
    obtain ⟨d, hd, r, hr⟩ := hf.record (Nat.pos_of_ne_zero hlen)
    have hmem := (mem_runSeqs_runOf hn).mpr ⟨hd, r, hr, rfl⟩
    rw [hlast] at hmem
    exact absurd hmem List.not_mem_nil
  | some x =>
    obtain ⟨k, p⟩ := x
    obtain ⟨hk, r, hr, rfl⟩ := (mem_runSeqs_runOf hn).mp (List.mem_of_getLast? hlast)
    rw [if_neg (by omega)]
    simp only [length_runOf, hf.seqs k hk r hr]
    exact seq_shift q hk.le

/-- A string's newest record (R16, R178). -/
theorem newestRecord_of_newest {i : Str} {d : Nat} {r : Record} (hnew : Newest ring h len i d r) :
    newestRecord ⟨h, runOf ring h len⟩ i = some (runSlot ring h len d, r) := by
  have hn : 0 < ring.length := Nat.zero_lt_of_lt hf.free
  obtain ⟨hd, hr, hs, hlast⟩ := hnew
  refine head?_filterMap_reverse (d := d) ?_ fun e he => ?_
  · simp only [getElem?_runOf hd, getD_of_getElem? hr, Option.bind_some, Claims.strOfByte_eq_some.mpr hs, beq_self_eq_true, if_true]
  · by_cases hlt : e < len
    · simp only [getElem?_runOf hlt, Option.bind_some]
      split
      · next y hy =>
        refine if_neg fun hne => ?_
        have hslot := getElem?_of_lt (xs := ring) (k := runSlot ring h len e) (Nat.mod_lt _ hn)
        rw [hy] at hslot
        exact hlast e y he hlt hslot (Claims.strOfByte_eq_some.mp (beq_iff_eq.mp hne))
      · rfl
    · rw [getElem?_runOf_none (Nat.le_of_not_lt hlt)]
      rfl

theorem newestRecord_of_none {i : Str} (hnone : ∀ d r, ¬ Newest ring h len i d r) : newestRecord ⟨h, runOf ring h len⟩ i = none := by
  have hn : 0 < ring.length := Nat.zero_lt_of_lt hf.free
  have habsent : ∀ m ≤ len, ∀ d < len, len - m ≤ d → ∀ r, ring[runSlot ring h len d]? = some (.record r) → r.str.toNat ≠ i.val := by
    intro m hm
    induction m with
    | zero => intro d hd hge; omega
    | succ m ih =>
      intro d hd hge r hr hs
      by_cases hlt : len - m ≤ d
      · exact ih (by omega) d hd hlt r hr hs
      · refine hnone d r ⟨hd, hr, hs, fun d' r' hlt' hd' hr' => ?_⟩
        exact ih (by omega) d' hd' (by omega) r' hr'
  refine head?_filterMap_reverse_none fun d => ?_
  by_cases hlt : d < len
  · simp only [getElem?_runOf hlt, Option.bind_some]
    split
    · next y hy =>
      refine if_neg fun he => ?_
      have hslot := getElem?_of_lt (xs := ring) (k := runSlot ring h len d) (Nat.mod_lt _ hn)
      rw [hy] at hslot
      exact habsent len (le_refl len) d hlt (by omega) y hslot (Claims.strOfByte_eq_some.mp (beq_iff_eq.mp he))
    · rfl
  · rw [getElem?_runOf_none (Nat.le_of_not_lt hlt)]
    rfl

end taken

end Sys2Proof.Machine

/-! The attempt at an adoption, and what the end of its event leaves (R176 to R179), for O25. -/

namespace Sys2Proof.Machine

open Sys2Proof.Claims (Fits Newest runSlot RingHeld Attempted Taken NoTestStarts TargetsAreTaken)

theorem ringSectors_congr {s t : State} (h : t.cfg = s.cfg) : ringSectors t = ringSectors s := by
  unfold ringSectors journalRegion
  rw [h]

theorem ringSlots_congr {s t : State} (h : t.cfg = s.cfg) : ringSlots t = ringSlots s := by
  unfold ringSlots
  rw [ringSectors_congr h]

/-- A state `m` on the way from `s` in which the slots and the coverage of an unadopted journal have moved, with every slot's and every
page's place. -/
structure RingShown (s m : State) (slots : List Summary) (cov : List Bool) : Prop where
  cfg      : m.cfg = s.cfg
  state    : m.journal.state = s.journal.state
  ring     : m.journal.slots = slots
  coverage : m.capture.coverage = cov
  head     : m.journal.head = s.journal.head
  nextSeq  : m.journal.nextSeq = s.journal.nextSeq
  evid     : m.evid = s.evid
  table    : m.table = s.table
  held     : RingHeld s
  size     : slots.length = s.journal.slots.length
  pages    : cov.length = s.capture.coverage.length

/-- What the rest of the event from `s` leaves of a state `a` that has made an attempt at an adoption. -/
structure AttemptEnds (s a u : State) : Prop where
  journal  : u.journal = a.journal
  coverage : u.capture.coverage = a.capture.coverage
  evid     : u.evid = a.evid
  record   : ∀ i : Str, Claims.SameRecord a.table[i] u.table[i]
  targets  : NoTestStarts s u → TargetsAreTaken s u fun _ => True

section shown
variable {s m : State} {slots : List Summary} {cov : List Bool} (h : RingShown s m slots cov)
include h

theorem RingShown.covered_iff : (m.capture.coverage.take (16 * ringSectors m)).all id = true ↔ ∀ p < 16 * ringSectors s, cov[p]? = some true := by
  have hpages := h.held.pages
  rw [ringSectors_congr h.cfg, h.coverage, List.all_eq_true]
  constructor
  · intro hall p hp
    have hlt : p < cov.length := by rw [h.pages]; omega
    have hx : cov[p]? = some cov[p] := List.getElem?_eq_getElem hlt
    have hmem : cov[p] ∈ cov.take (16 * ringSectors s) :=
      List.mem_of_getElem? (i := p) (by rw [List.getElem?_take, if_pos hp, hx])
    rw [hx]
    exact congrArg some (hall _ hmem)
  · intro hall x hx
    obtain ⟨p, hp⟩ := List.getElem?_of_mem hx
    rw [List.getElem?_take] at hp
    split at hp
    · next hlt => exact Option.some.inj (hp.symm.trans (hall p hlt))
    · cases hp

theorem RingShown.ring_eq : m.journal.slots.take (ringSlots m) = slots.take (ringSlots s) := by rw [h.ring, ringSlots_congr h.cfg]

theorem RingShown.length_ring : (slots.take (ringSlots s)).length = 512 * ringSectors s := by
  have hslots := h.held.slots
  rw [List.length_take_of_le (by rw [h.size]; exact hslots), ringSlots, Nat.mul_comm]

theorem RingShown.ringSectors_ne : ringSectors m ≠ 0 := by
  obtain ⟨hlo, _⟩ := h.held.sectors
  rw [ringSectors_congr h.cfg]
  omega

theorem RingShown.attempt_waits (hopen : ∃ p < 16 * ringSectors s, cov[p]? = some false) : attemptAdoption m = m := by
  obtain ⟨p, hp, hfalse⟩ := hopen
  refine if_neg fun ⟨_, _, hall⟩ => ?_
  exact absurd (hfalse.symm.trans (h.covered_iff.mp hall p hp)) (by simp)

variable (hstate : s.journal.state = .notAdopted ∨ s.journal.state = .inconsistent)
  (hcovered : ∀ p < 16 * ringSectors s, cov[p]? = some true)
include hstate hcovered

theorem RingShown.attempt_eq : attemptAdoption m = match judgeRing (slots.take (ringSlots s)) with
    | some r => adoptRing m r
    | none => becomeInconsistent m := by
  unfold attemptAdoption
  rw [← h.ring_eq]
  have hwaiting : m.journal.state = .notAdopted ∨ m.journal.state = .inconsistent := by rwa [h.state]
  exact if_pos ⟨hwaiting, h.ringSectors_ne, h.covered_iff.mpr hcovered⟩

theorem RingShown.attempt_adopts {r : Ring} (hr : judgeRing (slots.take (ringSlots s)) = some r) : attemptAdoption m = adoptRing m r := by
  rw [h.attempt_eq hstate hcovered, hr]

theorem RingShown.attempt_breaks (hr : judgeRing (slots.take (ringSlots s)) = none) : attemptAdoption m = becomeInconsistent m := by
  rw [h.attempt_eq hstate hcovered, hr]

end shown

/-! ## A successful adoption -/

theorem adopt_latched (e : Evidence) (d : Disposition) : (e.adopt d).latched =
    if (d = .isolate ∨ d = .lockout) ∧ e.heldOrigin = some .foundOpen then CauseSet.remove e.latched .held else e.latched := by
  unfold Evidence.adopt
  split <;> rfl

section adopt
variable (s : State) (r : Ring)

theorem adoptRing_entry {i : Str} (hi : isPresent s i = true) : (adoptRing s r).table[i] =
    { s.table[i] with
      liveSlot := (adoptedLive r i).map (·.1), recorded := ((adoptedLive r i).map (·.2)).getD .none, damaged := false } := by
  have hget := mapAll_get (fun i e => if isPresent s i then
    { e with liveSlot := (adoptedLive r i).map (·.1), recorded := ((adoptedLive r i).map (·.2)).getD .none, damaged := false }
    else e) s.table i
  rw [if_pos hi] at hget
  exact hget

theorem adoptRing_evid {i : Str} (hi : isPresent s i = true) :
    (adoptRing s r).evid[i] = s.evid[i].adopt (((adoptedLive r i).map (·.2)).getD .none) := by
  have hget := mapAll_get (fun i e => if isPresent s i then Evidence.adopt e (((adoptedLive r i).map (·.2)).getD .none) else e) s.evid i
  rw [if_pos hi] at hget
  exact hget

theorem adoptRing_sector {j : Nat} (hj : j < ringSectors s) (h8 : ringSectors s ≤ 8) :
    (adoptRing s r).journal.sectors[j]? = some (adoptedSector (s.journal.slots.take (ringSlots s)) r.head j) := by
  change ((upTo 8).map fun j => if j < ringSectors s then adoptedSector (s.journal.slots.take (ringSlots s)) r.head j else sectorAt s j)[j]? = _
  rw [upTo, List.getElem?_map, List.getElem?_range (by omega), Option.map_some, if_pos hj]

end adopt

section live
variable {ring : List Summary} {h len : Nat} {q : Half} (hf : Fits ring h len q)
include hf

theorem adoptedLive_of_newest {i : Str} {d : Nat} {r : Record} (hnew : Newest ring h len i d r) :
    adoptedLive ⟨h, runOf ring h len⟩ i = (Disposition.ofByte r.disp).map fun x => (runSlot ring h len d, x) := by
  unfold adoptedLive
  rw [newestRecord_of_newest hf hnew]

theorem adoptedLive_of_none {i : Str} (hnone : ∀ d r, ¬ Newest ring h len i d r) : adoptedLive ⟨h, runOf ring h len⟩ i = none := by
  unfold adoptedLive
  rw [newestRecord_of_none hf hnone]

end live

/-! ## The end of the event -/

section ends
variable {s m u : State} {slots : List Summary} {cov : List Bool} (h : RingShown s m slots cov) (he : AttemptEnds s (attemptAdoption m) u)
  (hstate : s.journal.state = .notAdopted ∨ s.journal.state = .inconsistent)
include h he hstate

theorem taken_of_attempt (hcovered : ∀ p < 16 * ringSectors s, cov[p]? = some true) {hd len : Nat} {q : Half}
    (hf : Fits (slots.take (ringSlots s)) hd len q) : Taken s u (slots.take (ringSlots s)) hd len q ∧ u.journal.slots = slots := by
  obtain ⟨hjournal, _, hevid, hrecord, htargets⟩ := he
  rw [h.attempt_adopts hstate hcovered (judgeRing_of_fits hf)] at hjournal hevid hrecord
  have hpresent {i : Str} (hi : i.val < s.cfg.stringCount) : isPresent m i = true := by
    rw [isPresent_congr h.cfg]
    exact Claims.isPresent_iff.mpr hi
  have hlive (i : Str) (hi : i.val < s.cfg.stringCount) :
      u.table[i].liveSlot = (adoptedLive ⟨hd, runOf (slots.take (ringSlots s)) hd len⟩ i).map (·.1)
        ∧ u.table[i].recorded = ((adoptedLive ⟨hd, runOf (slots.take (ringSlots s)) hd len⟩ i).map (·.2)).getD .none
        ∧ u.table[i].damaged = false := by
    obtain ⟨hr, hl, hdam, _⟩ := hrecord i
    rw [adoptRing_entry m _ (hpresent hi)] at hr hl hdam
    exact ⟨hl, hr, hdam⟩
  refine ⟨⟨?_, ?_, fun j hj => ?_, fun i d r hi hnew => ?_, fun i hi hnone => ?_, fun i hi => (hlive i hi).2.2, fun i hi => ?_, htargets⟩, ?_⟩
  · rw [hjournal]
    exact ⟨rfl, rfl, rfl, rfl⟩
  · rw [hjournal]
    exact ringNextSeq_of_fits hf
  · rw [h.length_ring] at hj
    have hsector := adoptRing_sector m ⟨hd, runOf (slots.take (ringSlots s)) hd len⟩ (j := j)
      (by rw [ringSectors_congr h.cfg]; omega) (by rw [ringSectors_congr h.cfg]; exact h.held.sectors.2)
    rw [h.ring_eq] at hsector
    exact ⟨_, by rw [hjournal, hsector], rfl, rfl⟩
  · obtain ⟨hl, hr, _⟩ := hlive i hi
    rw [adoptedLive_of_newest hf hnew] at hl hr
    rw [hl, hr]
    cases Disposition.ofByte r.disp <;> exact ⟨rfl, rfl⟩
  · obtain ⟨hl, hr, _⟩ := hlive i hi
    rw [adoptedLive_of_none hf hnone] at hl hr
    exact ⟨hl, hr⟩
  · obtain ⟨_, hr, _⟩ := hlive i hi
    rw [hevid, adoptRing_evid m _ (hpresent hi), adopt_latched, hr, h.evid]
  · rw [hjournal]
    exact h.ring

/-- The attempt of an event, as its end leaves it (R176 to R179). -/
theorem attempted_of_ends : Attempted s u slots cov where
  waits hopen := by
    obtain ⟨hjournal, hcoverage, hevid, hrecord, _⟩ := he
    rw [h.attempt_waits hopen] at hjournal hcoverage hevid hrecord
    rw [hjournal]
    exact ⟨h.state, h.ring, hcoverage.trans h.coverage, h.head, h.nextSeq, hevid.trans h.evid, fun i => h.table ▸ hrecord i⟩
  adopts hcovered _ _ _ hf := taken_of_attempt h he hstate hcovered hf
  breaks hcovered hnone := by
    obtain ⟨hjournal, hcoverage, hevid, hrecord, _⟩ := he
    have hjudge : judgeRing (slots.take (ringSlots s)) = none := by
      cases hr : judgeRing (slots.take (ringSlots s)) with
      | none => rfl
      | some r =>
        obtain ⟨len, q, hf⟩ := fits_of_judgeRing hr
        exact absurd hf (hnone _ len q)
    rw [h.attempt_breaks hstate hcovered hjudge] at hjournal hcoverage hevid hrecord
    refine ⟨by rw [hjournal]; rfl, fun x hx => ?_, fun b hb => ?_, hevid.trans h.evid, fun i => ?_⟩
    · rw [hjournal] at hx
      obtain ⟨_, _, rfl⟩ := List.mem_map.mp hx
      rfl
    · rw [hcoverage] at hb
      obtain ⟨_, _, rfl⟩ := List.mem_map.mp hb
      rfl
    · have hr := hrecord i
      change Claims.SameRecord m.table[i] u.table[i] at hr
      rwa [h.table] at hr

end ends

end Sys2Proof.Machine

/-! The ends of a pending erase at a status byte (O25). -/

namespace Sys2Proof.Claims

open Sys2Proof Sys2Proof.Machine

/-! ## A sector that becomes ERASED -/

/-- The sector table after the sector `j` has become ERASED (R132, R149). -/
def erasedTable (s : State) (j : Nat) : List Sector :=
  openedSectors (s.journal.sectors.set j ⟨.erased, 0⟩) (s.journal.head / 512) (ringSectors s)

theorem sectorErased_eq (s : State) (j : Nat) : sectorErased s j =
    s.setJournal { s.journal with sectors := erasedTable s j, slots := setRange (512 * j) 512 .erased s.journal.slots } := by
  unfold sectorErased
  rw [openHead_eq]
  rfl

theorem getElem?_erasedSlots (xs : List Summary) (j k : Nat) :
    (setRange (512 * j) 512 .erased xs)[k]? = if k / 512 = j ∧ k < xs.length then some .erased else xs[k]? := by
  rw [getElem?_setRange]
  exact if_congr (by rw [← and_assoc, slot_in_sector]) rfl rfl

/-- R132, R149: the erased sector is HEAD if it holds the head slot, and the sector that holds it becomes HEAD if it is ERASED. -/
theorem getElem?_erasedTable {s : State} {j : Nat} (hj : j < ringSectors s) (k : Nat) :
    (erasedTable s j)[k]? =
      if k = j ∧ k < s.journal.sectors.length then some ⟨if s.journal.head / 512 = j then .head else .erased, 0⟩
      else if k = s.journal.head / 512 ∧ (s.journal.sectors[k]?.map (·.state)) = some .erased ∧ k < ringSectors s then
        s.journal.sectors[k]?.map fun y => ⟨.head, y.count⟩
      else s.journal.sectors[k]? := by
  unfold erasedTable
  rw [getElem?_openedSectors]
  by_cases hk : k = j
  · subst hk
    by_cases hlt : k < s.journal.sectors.length
    · refine Eq.trans ?_ (if_pos ⟨rfl, hlt⟩).symm
      rw [List.getElem?_set_self hlt]
      by_cases hh : s.journal.head / 512 = k
      · rw [if_pos ⟨hh.symm, by omega, rfl⟩, if_pos hh]
        rfl
      · rw [if_neg fun h => hh h.1.symm, if_neg hh]
    · have hnone : s.journal.sectors[k]? = none := List.getElem?_eq_none (Nat.le_of_not_lt hlt)
      rw [List.set_eq_of_length_le (Nat.le_of_not_lt hlt), hnone]
      simp [hlt]
  · refine Eq.trans ?_ (if_neg fun h => hk h.1).symm
    rw [List.getElem?_set_ne (Ne.symm hk)]
    exact if_congr ⟨fun ⟨hh, hn, he⟩ => ⟨hh, he, hh ▸ hn⟩, fun ⟨hh, he, hn⟩ => ⟨hh, hh ▸ hn, he⟩⟩ rfl rfl

/-! ## The confirmed erase -/

/-- The state once the pending erase is confirmed, but for its sector (R149, R154). -/
def eraseConfirmed (s : State) (c : EraseCommit) : State := (s.dropErase).setOutcome .erase .confirmed c.base

section confirm
variable {s : State} {c : EraseCommit} (h : s.journal.erase = some c)
include h

theorem confirmErase_none (hs : c.sector = none) : confirmErase s = eraseConfirmed s c := by
  unfold confirmErase
  rw [h]
  simp only [hs]
  rfl

theorem confirmErase_recovery {j : Nat} (hs : c.sector = some j) (hr : c.recovery = true) :
    confirmErase s = attemptAdoption (((eraseConfirmed s c).fillSector j .erased).coverSector j true) := by
  unfold confirmErase
  rw [h]
  simp only [hs, hr]
  rfl

theorem confirmErase_inconsistent {j : Nat} (hs : c.sector = some j) (hr : c.recovery = false) (hi : s.journal.state = .inconsistent) :
    confirmErase s = attemptAdoption ((sectorErased (eraseConfirmed s c) j).coverSector j true) := by
  unfold confirmErase
  rw [h]
  simp only [hs, hr, Bool.false_eq_true, if_false]
  exact if_pos hi

theorem confirmErase_ring {j : Nat} (hs : c.sector = some j) (hr : c.recovery = false) (hi : s.journal.state ≠ .inconsistent) :
    confirmErase s = sectorErased (eraseConfirmed s c) j := by
  unfold confirmErase
  rw [h]
  simp only [hs, hr, Bool.false_eq_true, if_false]
  exact if_neg hi

end confirm

/-! ## The mirror -/

theorem moveMirror_endsErase {s : State} (h : s.mirror.state = .busyErase) (err : Bool) :
    moveMirror s false false err = (resolveErase s err).mirrorTo .idle := by
  unfold moveMirror
  rw [h]
  rfl

theorem moveMirror_endsSuspended {s : State} (h : s.mirror.state = .eraseSuspended) (err : Bool) :
    moveMirror s false false err = (failErase s .unresolved).mirrorTo .idle := by
  unfold moveMirror
  rw [h]
  rfl

/-! ## The end of the event -/

/-- A status byte whose observation makes `a` of the tables, and then shows the memory idle. -/
theorem exec_status_moves {s a : State} {t : Txn} {x : Xfer} {err : Bool} (dt : Nat) (hobs : Observed s t x false false err)
    (hm : moveMirror (welTaken s dt t x.miso) false false err = a.mirrorTo .idle) :
    ∃ t' b, exec (.status dt [x] none) s = .next (((finish (s.advance dt) (a.mirrorTo .idle)).setTxn t').exchange x b) := by
  rw [← hm]
  exact exec_status_byte dt hobs

/-- What stands of `a` at the end of the event. -/
theorem status_ends (s₀ a : State) (t' : Txn) (x : Xfer) (b : Byte) :
    (((finish s₀ (a.mirrorTo .idle)).setTxn t').exchange x b).journal = a.journal
      ∧ (((finish s₀ (a.mirrorTo .idle)).setTxn t').exchange x b).mirror.state = .idle
      ∧ (((finish s₀ (a.mirrorTo .idle)).setTxn t').exchange x b).capture = a.capture
      ∧ (((finish s₀ (a.mirrorTo .idle)).setTxn t').exchange x b).evid = a.evid
      ∧ ∀ i : Str, SameRecord a.table[i] (((finish s₀ (a.mirrorTo .idle)).setTxn t').exchange x b).table[i] := by
  have hc := carries_finish s₀ (a.mirrorTo .idle)
  have hr := Carries.sameRecord hc
  generalize finish s₀ (a.mirrorTo .idle) = u at *
  exact ⟨hc.journal, congrArg Mirror.state hc.mirror, hc.capture, hc.evid, hr⟩

theorem noTestStarts_of_exchange {s u : State} {t' : Txn} {x : Xfer} {b : Byte} (h : NoTestStarts s ((u.setTxn t').exchange x b)) :
    NoTestStarts s u := h

/-- The sequencers of an event that has moved none of them take the targets that it gives. -/
theorem status_targets {s s₀ a : State} (hq : a.seqs = s.seqs) (hc : a.cfg = s.cfg) (hx : a.search = s.search) (t' : Txn) (x : Xfer) (b : Byte)
    (hn : NoTestStarts s (((finish s₀ (a.mirrorTo .idle)).setTxn t').exchange x b)) :
    TargetsAreTaken s (((finish s₀ (a.mirrorTo .idle)).setTxn t').exchange x b) fun _ => True := by
  have hstand : TargetsStand s₀ (a.mirrorTo .idle) := targetsStand_of_noTest (s := s) hx (noTestStarts_of_exchange hn)
  intro i hi _
  have hended : Ended (a.mirrorTo .idle).seqs[i] (finish s₀ (a.mirrorTo .idle)) i := ended_finish hstand (by rw [← hc] at hi; exact hi)
  have hseq : (a.mirrorTo .idle).seqs[i] = s.seqs[i] := congrArg (fun v : Vector Seq 24 => v[i]) hq
  rw [hseq] at hended
  exact (ended_exchange hended t' x b).takesTarget

/-! ## The attempt -/

/-- The tables that an attempt at an adoption leaves: the commits, and but for a success the sector table. -/
theorem attemptAdoption_leaves (s : State) :
    (attemptAdoption s).journal.erase = s.journal.erase ∧ (attemptAdoption s).journal.outcome = s.journal.outcome
      ∧ ((attemptAdoption s).journal.state = .notAdopted ∨ (attemptAdoption s).journal.state = .inconsistent →
          (attemptAdoption s).journal.sectors = s.journal.sectors) := by
  unfold attemptAdoption
  simp only
  split
  · split
    · exact ⟨rfl, rfl, fun h => by rcases h with h | h <;> cases h⟩
    · exact ⟨rfl, rfl, fun _ => rfl⟩
  · exact ⟨rfl, rfl, fun _ => rfl⟩

theorem attemptEnds_status {s s₀ m : State} (hq : m.seqs = s.seqs) (hc : m.cfg = s.cfg) (hx : m.search = s.search) (t' : Txn) (x : Xfer)
    (b : Byte) : AttemptEnds s (attemptAdoption m) (((finish s₀ ((attemptAdoption m).mirrorTo .idle)).setTxn t').exchange x b) := by
  have hsame := (covers_attemptAdoption m).same
  have hseqs := (attemptAdoption_seqs m).trans hq
  have hcfg := hsame.cfg.trans hc
  have hsearch := hsame.search.trans hx
  have hends := status_ends s₀ (attemptAdoption m) t' x b
  have htargets := status_targets (s₀ := s₀) hseqs hcfg hsearch t' x b
  obtain ⟨hjournal, _, hcapture, hevid, hrecord⟩ := hends
  exact ⟨hjournal, congrArg Capture.coverage hcapture, hevid, hrecord, htargets⟩

/-! ## The four ends -/

theorem moveMirror_confirms {dt : Nat} {x : Xfer} {s : State} {t : Txn} {err : Bool} (hmirror : s.mirror.state = .busyErase)
    (herr : err = false) :
    moveMirror (welTaken s dt t x.miso) false false err = (confirmErase (welTaken s dt t x.miso)).mirrorTo .idle := by
  rw [moveMirror_endsErase (by exact hmirror), herr]
  rfl

/-- The journal with its confirmed erase gone, a sector's slots erased, and the sector table `sectors`. -/
def erasedJournal (s : State) (c : EraseCommit) (j : Nat) (sectors : List Sector) : Journal :=
  { s.journal with
    erase := none, outcome := ⟨.erase, .confirmed, c.base⟩, sectors := sectors, slots := setRange (512 * j) 512 .erased s.journal.slots }

section ends
variable {dt : Nat} {x : Xfer} {s : State} {t : Txn} {err : Bool} {c : EraseCommit} (hobs : Observed s t x false false err)
  (herase : s.journal.erase = some c)
include hobs herase

/-- R132, R149: a confirmed erase of a sector of the ring. -/
theorem status_erases_sector {j : Nat} (hmirror : s.mirror.state = .busyErase) (herr : err = false) (hsector : c.sector = some j)
    (hrecovery : c.recovery = false) (hstate : s.journal.state ≠ .inconsistent) (hj : j < ringSectors s)
    (hlt : j < s.journal.sectors.length) :
    ∃ u sectors slots, exec (.status dt [x] none) s = .next u ∧ u.mirror.state = .idle
      ∧ u.journal = { s.journal with
          erase := none, sectors := sectors, slots := slots, outcome := ⟨.erase, .confirmed, c.base⟩ }
      ∧ (∀ k, sectors[k]? =
          if k = j then some ⟨if s.journal.head / 512 = j then .head else .erased, 0⟩
          else if k = s.journal.head / 512 ∧ (s.journal.sectors[k]?.map (·.state)) = some .erased ∧ k < ringSectors s then
            s.journal.sectors[k]?.map fun y => ⟨.head, y.count⟩
          else s.journal.sectors[k]?)
      ∧ (∀ k, slots[k]? = if k / 512 = j ∧ k < s.journal.slots.length then some .erased else s.journal.slots[k]?)
      ∧ u.evid = s.evid ∧ ∀ i : Str, SameRecord s.table[i] u.table[i] := by
  have hm := moveMirror_confirms (dt := dt) (x := x) (t := t) hmirror herr
  rw [confirmErase_ring (by exact herase) hsector hrecovery (by exact hstate), sectorErased_eq] at hm
  obtain ⟨t', b, hexec⟩ := exec_status_moves dt hobs hm
  obtain ⟨hjournal, hidle, _, hevid, hrecord⟩ := status_ends (s.advance dt) _ t' x b
  refine ⟨_, erasedTable s j, _, hexec, hidle, hjournal, fun k => ?_, getElem?_erasedSlots _ j, hevid, hrecord⟩
  rw [getElem?_erasedTable hj]
  exact if_congr ⟨fun h => h.1, fun h => ⟨h, h ▸ hlt⟩⟩ rfl rfl

/-- R154: a confirmed erase of a CONFIG or GUARDED sector moves the outcome alone. -/
theorem status_erases_other (hmirror : s.mirror.state = .busyErase) (herr : err = false) (hsector : c.sector = none) :
    ∃ u, exec (.status dt [x] none) s = .next u ∧ u.mirror.state = .idle
      ∧ u.journal = { s.journal with erase := none, outcome := ⟨.erase, .confirmed, c.base⟩ }
      ∧ u.evid = s.evid ∧ ∀ i : Str, SameRecord s.table[i] u.table[i] := by
  have hm := moveMirror_confirms (dt := dt) (x := x) (t := t) hmirror herr
  rw [confirmErase_none (by exact herase) hsector] at hm
  obtain ⟨t', b, hexec⟩ := exec_status_moves dt hobs hm
  obtain ⟨hjournal, hidle, _, hevid, hrecord⟩ := status_ends (s.advance dt) _ t' x b
  exact ⟨_, hexec, hidle, hjournal, hevid, hrecord⟩

/-- R150, R153: an erase that ends without confirmation. -/
theorem status_fails_erase {result : CommitResult}
    (hends : s.mirror.state = .busyErase ∧ err = true ∧ result = .commitFailed ∨ s.mirror.state = .eraseSuspended ∧ result = .unresolved) :
    ∃ u slots, exec (.status dt [x] none) s = .next u ∧ u.mirror.state = .idle
      ∧ u.journal = { s.journal with
          erase := none, sectors := endedSectors s.journal c, slots := slots, outcome := ⟨.erase, result, c.base⟩ }
      ∧ EndedSlots s c slots
      ∧ u.evid = s.evid ∧ u.capture = s.capture ∧ ∀ i : Str, SameRecord s.table[i] u.table[i] := by
  have hm : moveMirror (welTaken s dt t x.miso) false false err = (failErase (welTaken s dt t x.miso) result).mirrorTo .idle := by
    rcases hends with ⟨hmirror, herr, hresult⟩ | ⟨hmirror, hresult⟩
    · rw [moveMirror_endsErase (by exact hmirror), herr, hresult]
      rfl
    · rw [moveMirror_endsSuspended (by exact hmirror), hresult]
  rw [failErase_eq _ c result (by exact herase)] at hm
  obtain ⟨t', b, hexec⟩ := exec_status_moves dt hobs hm
  obtain ⟨hjournal, hidle, hcapture, hevid, hrecord⟩ := status_ends (s.advance dt) _ t' x b
  exact ⟨_, unseenSlots s.journal c, hexec, hidle, hjournal, endedSlots_other, hevid, hcapture, hrecord⟩

omit herase in
/-- R152, R153: a confirmed erase that covers the pages of its sector, and may bring the adoption. -/
theorem status_attempts {j : Nat} {sectors : List Sector} {m : State} (hmirror : s.mirror.state = .busyErase) (herr : err = false)
    (hconfirm : confirmErase (welTaken s dt t x.miso) = attemptAdoption m)
    (hm : m = ({ welTaken s dt t x.miso with journal := erasedJournal s c j sectors } : State).coverSector j true)
    (hstate : s.journal.state = .notAdopted ∨ s.journal.state = .inconsistent) (hheld : RingHeld s) :
    ∃ u slots cov, exec (.status dt [x] none) s = .next u ∧ u.mirror.state = .idle
      ∧ u.journal.erase = none ∧ u.journal.outcome = ⟨.erase, .confirmed, c.base⟩
      ∧ (∀ k, slots[k]? = if k / 512 = j ∧ k < s.journal.slots.length then some .erased else s.journal.slots[k]?)
      ∧ (∀ p, cov[p]? = if p / 16 = j ∧ p < s.capture.coverage.length then some true else s.capture.coverage[p]?)
      ∧ (u.journal.state = .notAdopted ∨ u.journal.state = .inconsistent → u.journal.sectors = sectors)
      ∧ Attempted s u slots cov := by
  have hmoves := moveMirror_confirms (dt := dt) (x := x) (t := t) hmirror herr
  rw [hconfirm] at hmoves
  obtain ⟨t', b, hexec⟩ := exec_status_moves dt hobs hmoves
  have hshown : RingShown s m (setRange (512 * j) 512 .erased s.journal.slots) (setRange (16 * j) 16 true s.capture.coverage) := by
    subst hm
    exact ⟨rfl, rfl, rfl, rfl, rfl, rfl, rfl, rfl, hheld, length_setRange .., length_setRange ..⟩
  have hends : AttemptEnds s (attemptAdoption m) _ :=
    attemptEnds_status (s₀ := s.advance dt) (by rw [hm]; rfl) (by rw [hm]; rfl) (by rw [hm]; rfl) t' x b
  obtain ⟨hjournal, hidle, _⟩ := status_ends (s.advance dt) (attemptAdoption m) t' x b
  obtain ⟨hgone, houtcome, htable⟩ := attemptAdoption_leaves m
  refine ⟨_, setRange (512 * j) 512 .erased s.journal.slots, setRange (16 * j) 16 true s.capture.coverage, hexec, hidle, ?_, ?_,
    getElem?_erasedSlots _ j, fun p => ?_, fun hu => ?_, attempted_of_ends hshown hends hstate⟩
  · rw [hjournal, hgone, hm]
    rfl
  · rw [hjournal, houtcome, hm]
    rfl
  · rw [getElem?_setRange]
    exact if_congr (by rw [← and_assoc, page_in_sector]) rfl rfl
  · rw [hjournal] at hu ⊢
    rw [htable hu, hm]
    rfl

end ends

/-- Settles O25, by the erase that ends: one of the ring, one beside it, one that covers its pages, and one that is not confirmed. -/
theorem statusEndsErase : Obligations.StatusEndsErase := by
  intro dt x s t err c hobs herase
  refine ⟨fun j hmirror herr hsector hrecovery hstate hj hlt =>
      status_erases_sector hobs herase hmirror herr hsector hrecovery hstate hj hlt,
    fun hmirror herr hsector => status_erases_other hobs herase hmirror herr hsector, fun j hmirror herr hsector hcovers hheld hj => ?_,
    fun result hends => status_fails_erase hobs herase hends⟩
  have hwaiting : s.journal.state = .notAdopted ∨ s.journal.state = .inconsistent := hcovers.symm.imp_left fun h => h.2
  by_cases hrecovery : c.recovery = true
  · obtain ⟨u, slots, cov, hexec, hidle, hgone, houtcome, hslots, hcov, htable, hattempted⟩ :=
      status_attempts (dt := dt) (sectors := s.journal.sectors) hobs hmirror herr
        (confirmErase_recovery (s := welTaken s dt t x.miso) herase hsector hrecovery) rfl hwaiting hheld
    refine ⟨u, slots, cov, hexec, hidle, hgone, houtcome, hslots, hcov, fun hu k => ?_, hattempted⟩
    rw [htable hu, if_pos hrecovery]
  · rw [Bool.not_eq_true] at hrecovery
    have hlost : s.journal.state = .inconsistent := hcovers.resolve_right fun h => by rw [hrecovery] at h; exact Bool.false_ne_true h.1
    obtain ⟨u, slots, cov, hexec, hidle, hgone, houtcome, hslots, hcov, htable, hattempted⟩ :=
      status_attempts (dt := dt) (sectors := erasedTable s j) hobs hmirror herr
        (confirmErase_inconsistent (s := welTaken s dt t x.miso) herase hsector hrecovery hlost)
        (congrArg (fun m : State => m.coverSector j true) (sectorErased_eq (eraseConfirmed (welTaken s dt t x.miso) c) j)) hwaiting hheld
    refine ⟨u, slots, cov, hexec, hidle, hgone, houtcome, hslots, hcov, fun hu k => ?_, hattempted⟩
    rw [htable hu, hrecovery, getElem?_erasedTable hj]
    rfl

end Sys2Proof.Claims

/-! What a read shows of the ring, as the comparison sees it (R145, R146, R150, R151), for O39. -/

namespace Sys2Proof.Claims

open Sys2Proof Sys2Proof.Machine

/-! ## Slots -/

theorem shows_iff {s : State} {t : Txn} {k : Nat} {x : Summary} : Shows s t k x ↔ readSlot s t.readStream k = some x :=
  (readSlot_eq_some s t.readStream k x).symm

/-- A summary other than that of a missing slot. -/
theorem slotAt_eq_iff {s : State} {k : Nat} {x : Summary} (hx : x ≠ .unseen) : slotAt s k = x ↔ s.journal.slots[k]? = some x := by
  unfold slotAt
  rw [List.getD_eq_getElem?_getD]
  cases s.journal.slots[k]? with
  | none => simpa using hx.symm
  | some y => simp

theorem slotChanged_iff {x : Summary} {seen : Option Summary} : slotChanged x seen = true ↔
    (∃ q q', x = .record q ∧ seen = some (.record q') ∧ q' ≠ q) ∨ ∃ y, x = .erased ∧ seen = some y ∧ y ≠ .erased := by
  cases x with
  | record q =>
    cases seen with
    | none => simp [slotChanged]
    | some y =>
      cases y with
      | record q' => simp [slotChanged, eq_comm (a := q)]
      | unseen | erased | corrupt | doubtful => simp [slotChanged]
  | erased => cases seen <;> simp [slotChanged]
  | unseen | corrupt | doubtful => simp [slotChanged]

theorem slotDamaged_iff {x : Summary} {seen : Option Summary} : slotDamaged x seen = true ↔
    ∃ q, x = .record q ∧ (seen = some .erased ∨ seen = some .corrupt) := by
  cases x with
  | record q =>
    cases seen with
    | none => simp [slotDamaged]
    | some y => cases y <;> simp [slotDamaged]
  | unseen | erased | corrupt | doubtful => simp [slotDamaged]

/-- R151: the ring has changed behind the part. -/
theorem changes_iff {s : State} {t : Txn} :
    Changes s t ↔ ((upTo (ringSlots s)).any fun k => slotChanged (slotAt s k) (readSlot s t.readStream k)) = true := by
  simp only [List.any_eq_true, upTo, List.mem_range, slotChanged_iff, Changes, shows_iff]
  refine exists_congr fun k => and_congr_right fun _ => or_congr ?_ ?_
  · exact exists₂_congr fun q q' => and_congr_left' (slotAt_eq_iff (by nofun)).symm
  · exact exists_congr fun x => and_congr_left' (slotAt_eq_iff (by nofun)).symm

/-- R151: the damaged slots. -/
theorem mem_damaged_iff {s : State} {t : Txn} {k : Nat} :
    k ∈ ((upTo (ringSlots s)).filter fun k => slotDamaged (slotAt s k) (readSlot s t.readStream k)) ↔ Damages s t k := by
  simp only [List.mem_filter, upTo, List.mem_range, slotDamaged_iff, Damages, shows_iff]
  exact and_congr_right fun _ => exists_congr fun q => and_congr_left' (slotAt_eq_iff (by nofun))

/-! ## Doubtful slots -/

/-- R145: the doubtful slots as the read shows them. -/
theorem showsDoubt_iff {s : State} {t : Txn} {d : Doubt} {seen : List Summary} :
    ShowsDoubt s t d seen ↔ s.journal.doubt = some d ∧ readDoubt s t.readStream d = some seen := by
  refine and_congr_right fun _ => ?_
  rw [readDoubt, allSome_eq_some]
  constructor
  · rintro ⟨hlength, hshows⟩
    refine List.ext_getElem (by simp [upTo, hlength]) fun j _ hj => ?_
    rw [List.length_map] at hj
    simpa [upTo] using shows_iff.mp (hshows j seen[j] (List.getElem?_eq_getElem hj))
  · intro h
    have hlength : seen.length = d.records.length := by simpa [upTo] using (congrArg List.length h).symm
    refine ⟨hlength, fun j x hx => shows_iff.mpr ?_⟩
    obtain ⟨hj, rfl⟩ := List.getElem?_eq_some_iff.mp hx
    have hat := congrArg (·[j]?) h
    simpa [upTo, hlength ▸ hj, hj] using hat

/-- The slots up to the last that does not read as erased. -/
theorem keptSlots_append {shown : List Summary} (freed : Nat) (h : shown = [] ∨ ∃ x, shown.getLast? = some x ∧ x ≠ .erased) :
    keptSlots (shown ++ List.replicate freed .erased) = shown.length := by
  unfold keptSlots
  rw [List.reverse_append, List.reverse_replicate, List.dropWhile_append_of_pos fun x hx => by
    rw [(List.mem_replicate.mp hx).2, beq_self_eq_true]]
  rcases h with rfl | ⟨x, hx, hne⟩
  · rfl
  · rw [← List.head?_reverse] at hx
    obtain ⟨rest, hrest⟩ : ∃ rest, shown.reverse = x :: rest := by
      cases hr : shown.reverse with
      | nil => rw [hr] at hx; cases hx
      | cons y rest => rw [hr] at hx; cases hx; exact ⟨rest, rfl⟩
    rw [hrest, List.dropWhile_cons, beq_false_of_ne hne, if_neg Bool.false_ne_true, ← hrest, List.length_reverse]

/-- Every reading splits into the slots up to the last that is not erased, and the erased ones after it. -/
theorem seen_split (seen : List Summary) : ∃ shown freed, seen = shown ++ List.replicate freed Summary.erased
    ∧ (shown = [] ∨ ∃ x, shown.getLast? = some x ∧ x ≠ .erased) := by
  induction seen using List.reverseRecOn with
  | nil => exact ⟨[], 0, rfl, .inl rfl⟩
  | append_singleton xs x ih =>
    by_cases hx : x = .erased
    · obtain ⟨shown, freed, rfl, hlast⟩ := ih
      refine ⟨shown, freed + 1, ?_, hlast⟩
      rw [hx, List.append_assoc, ← List.replicate_succ']
    · exact ⟨xs ++ [x], 0, by simp, .inr ⟨x, by simp, hx⟩⟩

/-- R146: a gap is an erased slot before one that is not. -/
theorem hasGap_iff {seen : List Summary} :
    hasGap seen = true ↔
      ∃ (i j : Nat) (x : Summary), i < j ∧ seen[i]? = some Summary.erased ∧ seen[j]? = some x ∧ x ≠ Summary.erased := by
  obtain ⟨shown, freed, rfl, hlast⟩ := seen_split seen
  unfold hasGap
  rw [keptSlots_append freed hlast, List.take_left, List.any_eq_true]
  constructor
  · rintro ⟨x, hx, he⟩
    obtain ⟨i, hi⟩ := List.getElem?_of_mem hx
    obtain ⟨hlt, _⟩ := List.getElem?_eq_some_iff.mp hi
    obtain ⟨y, hy, hne⟩ := hlast.resolve_left fun h => by rw [h] at hlt; exact Nat.not_lt_zero _ hlt
    rw [List.getLast?_eq_getElem?] at hy
    have hne' : i ≠ shown.length - 1 := by
      rintro rfl
      rw [hi, beq_iff_eq.mp he] at hy
      exact hne (Option.some.inj hy).symm
    refine ⟨i, shown.length - 1, y, by omega, ?_, ?_, hne⟩
    · rw [List.getElem?_append_left hlt, hi, beq_iff_eq.mp he]
    · rw [List.getElem?_append_left (by omega), hy]
  · rintro ⟨i, j, x, hlt, hi, hj, hne⟩
    have hjlt : j < shown.length := by
      by_contra hge
      rw [List.getElem?_append_right (Nat.le_of_not_lt hge), List.getElem?_replicate] at hj
      split at hj
      · exact hne (Option.some.inj hj).symm
      · cases hj
    rw [List.getElem?_append_left (by omega)] at hi
    exact ⟨_, List.mem_of_getElem? hi, by simp⟩

/-- R146: the read shows a gap. -/
theorem gap_iff {s : State} {t : Txn} : Gap s t ↔ ∃ d seen, ShowsDoubt s t d seen ∧ hasGap seen = true := by
  simp only [hasGap_iff]
  constructor
  · rintro ⟨d, seen, i, j, x, hd, h⟩
    exact ⟨d, seen, hd, i, j, x, h⟩
  · rintro ⟨d, seen, hd, i, j, x, h⟩
    exact ⟨d, seen, i, j, x, hd, h⟩

/-! ## Sectors -/

/-- Every byte shown within the addresses satisfies `p` (R150): the list by its places. -/
theorem shownAll_iff {m a n : Nat} {p : Byte → Bool} {xs : List (Option Byte)} {start : Nat} (hm : start < m) :
    shownAll m a n p start xs = true ↔
      ∀ k x, xs[k]? = some x → a ≤ (start + k) % m → (start + k) % m < a + n → x.any p = true := by
  induction xs generalizing start with
  | nil => simp [shownAll]
  | cons y ys ih =>
    have hnext : ∀ k, ((start + 1) % m + k) % m = (start + (k + 1)) % m := fun k => by
      rw [Nat.mod_add_mod, Nat.add_assoc, Nat.add_comm 1]
    have hfirst : (start + 0) % m = start := Nat.mod_eq_of_lt hm
    rw [shownAll, Bool.and_eq_true, ih (Nat.mod_lt _ (by omega))]
    simp only [hnext]
    constructor
    · rintro ⟨hy, hys⟩ k x hx hlo hhi
      cases k with
      | zero =>
        cases hx
        rw [hfirst] at hlo hhi
        simpa [hlo, hhi] using hy
      | succ k => exact hys k x hx hlo hhi
    · intro h
      refine ⟨?_, fun k x hx => h (k + 1) x hx⟩
      have hy := h 0 y rfl
      rw [hfirst] at hy
      by_cases hin : a ≤ start ∧ start < a + n
      · rw [hy hin.1 hin.2, Bool.or_true]
      · rw [not_and_or] at hin
        rcases hin with hin | hin <;> simp [hin]

/-- R150: an UNKNOWN sector of the ring that the read shows erased throughout. -/
theorem mem_erased_iff {s : State} {t : Txn} {j : Nat} (hstart : stateOf s j = some .unknown → t.start < t.cfg.memSize) :
    j ∈ (upTo (ringSectors s)).filter (readErased s t.readStream) ↔ BecomesErased s t j := by
  have hbase : ringBase s % 4096 = 0 := by
    unfold ringBase
    cases journalRegion s.cfg with
    | none => rfl
    | some r => exact Nat.mul_mod_left ..
  rw [List.mem_filter, upTo, List.mem_range, BecomesErased]
  refine and_congr_right fun _ => ?_
  rw [readErased, Bool.and_eq_true, Bool.and_eq_true, beq_iff_eq, ← stateOf_eq_some (by nofun), and_assoc]
  refine and_congr_right fun hunknown => and_congr_right fun _ => ?_
  change shownAll t.cfg.memSize (ringBase s + 4096 * j) 4096 (· == 0xFF) t.start t.stream.reverse = true ↔ _
  rw [shownAll_iff (hstart hunknown)]
  have hsector (k : Nat) : (t.start + k) % t.cfg.memSize / 4096 = ringBase s / 4096 + j
      ↔ ringBase s + 4096 * j ≤ (t.start + k) % t.cfg.memSize ∧ (t.start + k) % t.cfg.memSize < ringBase s + 4096 * j + 4096 := by omega
  have hbyte (x : Option Byte) : x.any (· == 0xFF) = true ↔ x = some 0xFF := by
    cases x <;> simp
  simp only [hsector, hbyte, and_imp]

end Sys2Proof.Claims

/-! What a comparison makes of the summaries, the sector table and the entries (R150, R151), for O39. -/

namespace Sys2Proof.Claims

open Sys2Proof Sys2Proof.Machine

/-! ## Damage -/

/-- The slots `ks` become CORRUPT, one after the other. -/
def corruptSlots (ks : List Nat) (xs : List Summary) : List Summary := ks.foldl (fun xs k => setMany k [.corrupt] xs) xs

/-- The string whose live slot is `k` is marked, in a box of `n` strings. -/
def markEntries (n : Nat) (v : Vector Entry 24) (k : Nat) : Vector Entry 24 :=
  mapAll (fun i e => if decide (i.val < n) && e.liveSlot == some k then { e with damaged := true } else e) v

theorem markDamage_eq (s : State) (k : Nat) : markDamage s k =
    { s with
      journal := { s.journal with slots := setMany k [.corrupt] s.journal.slots }
      table := markEntries s.cfg.stringCount s.table k } := rfl

theorem foldl_markDamage (ks : List Nat) (s : State) : ks.foldl markDamage s =
    { s with
      journal := { s.journal with slots := corruptSlots ks s.journal.slots }
      table := ks.foldl (markEntries s.cfg.stringCount) s.table } := by
  induction ks generalizing s with
  | nil => rfl
  | cons k ks ih =>
    rw [List.foldl_cons, ih, markDamage_eq]
    simp only [corruptSlots, List.foldl_cons]

theorem length_corruptSlots (ks : List Nat) (xs : List Summary) : (corruptSlots ks xs).length = xs.length := by
  unfold corruptSlots
  induction ks generalizing xs with
  | nil => rfl
  | cons k ks ih => rw [List.foldl_cons, ih, length_setMany]

theorem getElem?_corruptSlots (ks : List Nat) (xs : List Summary) (k : Nat) :
    (corruptSlots ks xs)[k]? = if k ∈ ks ∧ k < xs.length then some .corrupt else xs[k]? := by
  unfold corruptSlots
  induction ks generalizing xs with
  | nil => simp
  | cons j ks ih =>
    rw [List.foldl_cons, ih, length_setMany, getElem?_setMany, List.length_singleton]
    by_cases hlt : k < xs.length
    · by_cases hmem : k ∈ ks
      · rw [if_pos ⟨hmem, hlt⟩, if_pos ⟨List.mem_cons_of_mem j hmem, hlt⟩]
      · by_cases hj : k = j
        · subst hj
          rw [if_neg fun h => hmem h.1, if_pos ⟨le_refl k, by omega, hlt⟩, if_pos ⟨List.mem_cons_self, hlt⟩, Nat.sub_self]
          rfl
        · rw [if_neg fun h => hmem h.1, if_neg (by omega), if_neg fun h => (List.mem_cons.mp h.1).elim hj hmem]
    · rw [if_neg fun h => hlt h.2, if_neg fun h => hlt h.2.2, if_neg fun h => hlt h.2]

theorem markEntries_get (n : Nat) (v : Vector Entry 24) (k : Nat) (i : Str) :
    (markEntries n v k)[i] = if decide (i.val < n) && v[i].liveSlot == some k then { v[i] with damaged := true } else v[i] := mapAll_get ..

/-- The entries after the marks of the slots `ks` (R5, R151). -/
theorem foldl_markEntries (n : Nat) (ks : List Nat) (v : Vector Entry 24) (i : Str) :
    (ks.foldl (markEntries n) v)[i].recorded = v[i].recorded ∧ (ks.foldl (markEntries n) v)[i].liveSlot = v[i].liveSlot
      ∧ (ks.foldl (markEntries n) v)[i].lastRefusal = v[i].lastRefusal
      ∧ ((ks.foldl (markEntries n) v)[i].damaged = true ↔ v[i].damaged = true
          ∨ i.val < n ∧ ∃ k, v[i].liveSlot = some k ∧ k ∈ ks) := by
  induction ks generalizing v with
  | nil => simp
  | cons j ks ih =>
    rw [List.foldl_cons]
    obtain ⟨hr, hl, hf, hd⟩ := ih (markEntries n v j)
    rw [hr, hl, hf, hd, markEntries_get]
    by_cases hmark : i.val < n ∧ v[i].liveSlot = some j
    · obtain ⟨hi, hlive⟩ := hmark
      rw [if_pos (by rw [decide_eq_true hi, hlive, beq_self_eq_true]; rfl)]
      exact ⟨rfl, rfl, rfl, fun _ => .inr ⟨hi, j, hlive, List.mem_cons_self⟩, fun _ => .inl rfl⟩
    · rw [if_neg fun h => hmark (by
        obtain ⟨hp, hlive⟩ := Bool.and_eq_true_iff.mp h
        exact ⟨of_decide_eq_true hp, beq_iff_eq.mp hlive⟩)]
      refine ⟨rfl, rfl, rfl, or_congr_right (and_congr_right fun hi => exists_congr fun k => and_congr_right fun hk => ?_)⟩
      rw [List.mem_cons]
      exact ⟨.inr, fun h => h.resolve_left fun hkj => hmark ⟨hi, by rw [hk, hkj]⟩⟩

/-! ## Sectors shown erased -/

/-- The slots of the sectors `js` become ERASED, one sector after the other. -/
def freedSlots (js : List Nat) (xs : List Summary) : List Summary := js.foldl (fun xs j => setRange (512 * j) 512 .erased xs) xs

/-- The sector table after the sectors `js` have become ERASED, one after the other, in a ring of `n` sectors with its head in sector `h`. -/
def freedSectors (h n : Nat) (js : List Nat) (xs : List Sector) : List Sector :=
  js.foldl (fun xs j => openedSectors (xs.set j ⟨.erased, 0⟩) h n) xs

theorem foldl_sectorErased (js : List Nat) (s : State) : js.foldl sectorErased s = s.setJournal { s.journal with
    slots := freedSlots js s.journal.slots
    sectors := freedSectors (s.journal.head / 512) (ringSectors s) js s.journal.sectors } := by
  induction js generalizing s with
  | nil => rfl
  | cons j js ih =>
    rw [List.foldl_cons, ih, sectorErased_eq]
    rfl

theorem getElem?_freedSlots (js : List Nat) (xs : List Summary) (k : Nat) :
    (freedSlots js xs)[k]? = if k / 512 ∈ js ∧ k < xs.length then some .erased else xs[k]? := by
  unfold freedSlots
  induction js generalizing xs with
  | nil => simp
  | cons j js ih =>
    rw [List.foldl_cons, ih, length_setRange, getElem?_erasedSlots]
    by_cases hlt : k < xs.length
    · by_cases hmem : k / 512 ∈ js
      · rw [if_pos ⟨hmem, hlt⟩, if_pos ⟨List.mem_cons_of_mem j hmem, hlt⟩]
      · rw [if_neg fun h => hmem h.1]
        exact if_congr (and_congr_left' ⟨fun h => h ▸ List.mem_cons_self, fun h => (List.mem_cons.mp h).resolve_right hmem⟩) rfl rfl
    · rw [if_neg fun h => hlt h.2, if_neg fun h => hlt h.2, if_neg fun h => hlt h.2]

theorem length_freedSlots (js : List Nat) (xs : List Summary) : (freedSlots js xs).length = xs.length := by
  unfold freedSlots
  induction js generalizing xs with
  | nil => rfl
  | cons j js ih => rw [List.foldl_cons, ih, length_setRange]

/-- R132, R150: a freed sector is ERASED, or HEAD if it holds the head slot, and the first of them opens an ERASED sector that holds it. -/
theorem getElem?_freedSectors {h n : Nat} {js : List Nat} {xs : List Sector} (hjs : ∀ j ∈ js, j < n) (k : Nat) :
    (freedSectors h n js xs)[k]? =
      if k ∈ js ∧ k < xs.length then some ⟨if h = k then .head else .erased, 0⟩
      else if js ≠ [] ∧ k = h ∧ h < n ∧ (xs[k]?.map (·.state)) = some .erased then xs[k]?.map fun y => ⟨.head, y.count⟩
      else xs[k]? := by
  unfold freedSectors
  induction js generalizing xs with
  | nil => simp
  | cons j js ih =>
    have hj : j < n := hjs j List.mem_cons_self
    have hlength : (openedSectors (xs.set j ⟨.erased, 0⟩) h n).length = xs.length := by
      unfold openedSectors
      split
      · rw [List.length_set, List.length_set]
      · rw [List.length_set]
    rw [List.foldl_cons, ih fun i hi => hjs i (List.mem_cons_of_mem j hi), hlength]
    by_cases hmem : k ∈ js ∧ k < xs.length
    · obtain ⟨hk, hlt⟩ := hmem
      exact (if_pos ⟨hk, hlt⟩).trans (if_pos ⟨List.mem_cons_of_mem j hk, hlt⟩).symm
    · rw [if_neg hmem]
      have hopened : ¬ (js ≠ [] ∧ k = h ∧ h < n ∧ ((openedSectors (xs.set j ⟨.erased, 0⟩) h n)[k]?.map (·.state)) = some .erased) := by
        rintro ⟨_, rfl, hn, he⟩
        rw [getElem?_openedSectors] at he
        split at he
        · cases hx : (xs.set j ⟨.erased, 0⟩)[k]? with
          | none => rw [hx] at he; cases he
          | some y => rw [hx] at he; cases he
        · next hne => exact hne ⟨rfl, hn, he⟩
      rw [if_neg hopened, getElem?_openedSectors]
      by_cases hkj : k = j
      · subst hkj
        by_cases hlt : k < xs.length
        · rw [List.getElem?_set_self hlt, if_pos (c := k ∈ k :: js ∧ k < xs.length) ⟨List.mem_cons_self, hlt⟩]
          by_cases hh : k = h
          · rw [if_pos ⟨hh, hh ▸ hj, rfl⟩, if_pos hh.symm]
            rfl
          · rw [if_neg fun hx => hh hx.1, if_neg (Ne.symm hh)]
        · have hnone : xs[k]? = none := List.getElem?_eq_none (Nat.le_of_not_lt hlt)
          rw [List.set_eq_of_length_le (Nat.le_of_not_lt hlt), hnone]
          simp [hlt]
      · rw [List.getElem?_set_ne (Ne.symm hkj), if_neg (c := k ∈ j :: js ∧ k < xs.length) fun hx =>
          hmem ⟨(List.mem_cons.mp hx.1).resolve_left hkj, hx.2⟩]
        exact if_congr ⟨fun ⟨hh, hn, he⟩ => ⟨nofun, hh, hn, he⟩, fun ⟨_, hh, hn, he⟩ => ⟨hh, hn, he⟩⟩ rfl rfl

/-! ## The comparison -/

/-- The slots that a read shows damaged. -/
def damagedSlots (s : State) (t : Txn) : List Nat :=
  (upTo (ringSlots s)).filter fun k => slotDamaged (slotAt s k) (readSlot s t.readStream k)

/-- The sectors that a read shows erased. -/
def erasedShown (s : State) (t : Txn) : List Nat := (upTo (ringSectors s)).filter (readErased s t.readStream)

def comparedSlots (s : State) (t : Txn) : List Summary := freedSlots (erasedShown s t) (corruptSlots (damagedSlots s t) s.journal.slots)

def comparedSectors (s : State) (t : Txn) : List Sector :=
  freedSectors (s.journal.head / 512) (ringSectors s) (erasedShown s t) s.journal.sectors

def comparedEntries (s : State) (t : Txn) : Vector Entry 24 := (damagedSlots s t).foldl (markEntries s.cfg.stringCount) s.table

/-- The state after a comparison that finds no change, before its resolution. -/
def compared (s : State) (t : Txn) : State :=
  { s with journal := { s.journal with slots := comparedSlots s t, sectors := comparedSectors s t }, table := comparedEntries s t }

theorem compared_eq (s : State) (t : Txn) : (erasedShown s t).foldl sectorErased ((damagedSlots s t).foldl markDamage s) = compared s t := by
  rw [foldl_markDamage, foldl_sectorErased]
  rfl

theorem damages_lt {s : State} {t : Txn} {k : Nat} (h : Damages s t k) : k < s.journal.slots.length := by
  obtain ⟨_, q, hq, _⟩ := h
  exact (List.getElem?_eq_some_iff.mp hq).1

theorem becomesErased_lt {s : State} {t : Txn} {j : Nat} (h : BecomesErased s t j) : j < s.journal.sectors.length := by
  obtain ⟨_, hstate, _⟩ := h
  obtain ⟨y, hy, _⟩ := Option.map_eq_some_iff.mp hstate
  exact (List.getElem?_eq_some_iff.mp hy).1

theorem length_comparedSlots (s : State) (t : Txn) : (comparedSlots s t).length = s.journal.slots.length := by
  rw [comparedSlots, length_freedSlots, length_corruptSlots]

section compared
variable {s : State} {t : Txn} (hstart : (∃ j, stateOf s j = some .unknown) → t.start < t.cfg.memSize)
include hstart

theorem mem_erasedShown {j : Nat} : j ∈ erasedShown s t ↔ BecomesErased s t j := mem_erased_iff fun h => hstart ⟨j, h⟩

/-- R150, R151: what the comparison makes of the tables. -/
theorem compared_compared : Compared s t (comparedSlots s t) (comparedSectors s t) := by
  have hslot (k : Nat) : (comparedSlots s t)[k]? =
      if k / 512 ∈ erasedShown s t ∧ k < s.journal.slots.length then some .erased
      else if k ∈ damagedSlots s t ∧ k < s.journal.slots.length then some .corrupt else s.journal.slots[k]? := by
    rw [comparedSlots, getElem?_freedSlots, length_corruptSlots, getElem?_corruptSlots]
  have hsector (k : Nat) := getElem?_freedSectors (h := s.journal.head / 512) (n := ringSectors s) (js := erasedShown s t)
    (xs := s.journal.sectors) (fun j hj => List.mem_range.mp (List.mem_filter.mp hj).1) k
  refine ⟨fun k hk hb => ?_, fun k hd hb => ?_, fun k hd hb => ?_, fun j hb => ?_, fun k ho => ?_, fun k hb ho => ?_⟩
  · exact (hslot k).trans (if_pos ⟨(mem_erasedShown hstart).mpr hb, hk⟩)
  · rw [hslot, if_neg fun h => hb ((mem_erasedShown hstart).mp h.1)]
    exact if_pos ⟨mem_damaged_iff.mpr hd, damages_lt hd⟩
  · rw [hslot, if_neg fun h => hb ⟨h.2, (mem_erasedShown hstart).mp h.1⟩]
    exact if_neg fun h => hd (mem_damaged_iff.mp h.1)
  · exact (hsector j).trans (if_pos ⟨(mem_erasedShown hstart).mpr hb, becomesErased_lt hb⟩)
  · obtain ⟨hk, hn, he, j, hj⟩ := ho
    refine (hsector k).trans ((if_neg fun h => ?_).trans (if_pos ⟨?_, hk, hk ▸ hn, he⟩))
    · obtain ⟨_, hunknown, _⟩ := (mem_erasedShown hstart).mp h.1
      exact absurd (hunknown.symm.trans he) (by simp)
    · exact List.ne_nil_of_mem ((mem_erasedShown hstart).mpr hj)
  · refine (hsector k).trans ((if_neg fun h => hb ((mem_erasedShown hstart).mp h.1)).trans (if_neg fun ⟨hne, hk, hn, he⟩ => ?_))
    obtain ⟨j, hj⟩ := List.exists_mem_of_ne_nil _ hne
    exact ho ⟨hk, hk ▸ hn, he, j, (mem_erasedShown hstart).mp hj⟩

end compared

theorem compared_marked (s : State) (t : Txn) : Marked s t (comparedEntries s t) := by
  intro i
  obtain ⟨hr, hl, hf, hd⟩ := foldl_markEntries s.cfg.stringCount (damagedSlots s t) s.table i
  refine ⟨hr, hl, hf, hd.trans (or_congr_right (and_congr_right fun _ => exists_congr fun k => and_congr_right fun _ => mem_damaged_iff))⟩

end Sys2Proof.Claims

/-! The resolution of the doubtful slots (R145), for O39. -/

namespace Sys2Proof.Claims

open Sys2Proof Sys2Proof.Machine

/-! ## What a read's comparison comes to -/

/-- The doubtful slots, as a comparison looks at them. -/
theorem doubt_eq_some {s : State} {t : Txn} {x : Doubt × List Summary} :
    (s.journal.doubt.bind fun d => (readDoubt s t.readStream d).map fun seen => (d, seen)) = some x ↔ ShowsDoubt s t x.1 x.2 := by
  obtain ⟨d, seen⟩ := x
  rw [showsDoubt_iff, Option.bind_eq_some_iff]
  constructor
  · rintro ⟨d', hd', hx⟩
    obtain ⟨seen', hseen, hx⟩ := Option.map_eq_some_iff.mp hx
    cases hx
    exact ⟨hd', hseen⟩
  · rintro ⟨hd, hseen⟩
    exact ⟨d, hd, by rw [hseen]; rfl⟩

theorem compareRead_eq (s : State) (t : Txn) : compareRead s t.readStream =
    if ((upTo (ringSlots s)).any fun k => slotChanged (slotAt s k) (readSlot s t.readStream k))
        || (match s.journal.doubt.bind fun d => (readDoubt s t.readStream d).map fun seen => (d, seen) with
            | some (_, seen) => hasGap seen
            | none => false) then
      becomeInconsistent s
    else
      match s.journal.doubt.bind fun d => (readDoubt s t.readStream d).map fun seen => (d, seen) with
      | some (d, seen) => resolveDoubt (compared s t) d seen
      | none => compared s t := by
  rw [← compared_eq]
  rfl

section compare
variable {s : State} {t : Txn}

/-- R146, R151: a change or a gap. -/
theorem compareRead_lost (h : Changes s t ∨ Gap s t) : compareRead s t.readStream = becomeInconsistent s := by
  rw [compareRead_eq]
  refine if_pos ?_
  rcases h with h | h
  · rw [changes_iff.mp h, Bool.true_or]
  · obtain ⟨d, seen, hd, hgap⟩ := gap_iff.mp h
    rw [doubt_eq_some (x := (d, seen)) |>.mpr hd]
    exact (Bool.or_eq_true ..).mpr (.inr hgap)

variable (hchanges : ¬ Changes s t)
include hchanges

/-- R150, R151: a read that does not show every doubtful slot. -/
theorem compareRead_compared (hdoubt : ∀ d seen, ¬ ShowsDoubt s t d seen) : compareRead s t.readStream = compared s t := by
  have hnone : (s.journal.doubt.bind fun d => (readDoubt s t.readStream d).map fun seen => (d, seen)) = none :=
    Option.eq_none_iff_forall_ne_some.mpr fun x hx => hdoubt x.1 x.2 (doubt_eq_some.mp hx)
  rw [compareRead_eq, hnone, Bool.or_false]
  exact if_neg (mt changes_iff.mpr hchanges)

/-- R145: a read that shows every doubtful slot, without a gap. -/
theorem compareRead_resolves {d : Doubt} {seen : List Summary} (hdoubt : ShowsDoubt s t d seen) (hgap : hasGap seen = false) :
    compareRead s t.readStream = resolveDoubt (compared s t) d seen := by
  rw [compareRead_eq, doubt_eq_some (x := (d, seen)) |>.mpr hdoubt]
  simp only [hgap, Bool.or_false]
  exact if_neg (mt changes_iff.mpr hchanges)

end compare

/-! ## Freed slots -/

/-- The sector table after `freed` slots of sector `j`, in a ring of `n` sectors, have returned to the head (R145). -/
def returnedSectors (n j freed : Nat) (xs : List Sector) : List Sector :=
  let x := xs.getD j ⟨.unseen, 0⟩
  let ys := xs.set j ⟨if x.state == .full then .head else x.state, x.count - freed⟩
  let y := ys.getD ((j + 1) % n) ⟨.unseen, 0⟩
  if x.state == .full && y.state == .head then ys.set ((j + 1) % n) { y with state := .erased } else ys

theorem freeSlots_none (s : State) (d : Doubt) {kept : Nat} (h : d.records.length - kept = 0) : freeSlots s d kept = s := if_pos h

theorem freeSlots_some (s : State) (d : Doubt) {kept : Nat} (h : d.records.length - kept ≠ 0) : freeSlots s d kept =
    s.setJournal { s.journal with
      head := d.first + kept
      nextSeq := ((d.records[kept]?).map (·.seq)).getD s.journal.nextSeq
      slots := setMany (d.first + kept) (List.replicate (d.records.length - kept) .erased) s.journal.slots
      sectors := returnedSectors (ringSectors s) (d.first / 512) (d.records.length - kept) s.journal.sectors } := by
  have hif (c : Bool) (j : Journal) (xs ys : List Sector) :
      (if c then s.setJournal { j with sectors := xs } else s.setJournal { j with sectors := ys })
        = s.setJournal { j with sectors := if c then xs else ys } := by cases c <;> rfl
  exact (if_neg h).trans (hif _ _ _ _)

theorem getElem?_returnedSectors {n j freed : Nat} {xs : List Sector} {y : Sector} (hy : xs[j]? = some y) (hn : 2 ≤ n) (hj : j < n) (k : Nat) :
    (returnedSectors n j freed xs)[k]? =
      if k = j then some ⟨if y.state = .full then .head else y.state, y.count - freed⟩
      else if y.state = .full ∧ k = (j + 1) % n ∧ (xs[k]?.map (·.state)) = some .head then xs[k]?.map fun z => ⟨.erased, z.count⟩
      else xs[k]? := by
  have hnext : (j + 1) % n ≠ j := by
    rcases Nat.lt_or_ge (j + 1) n with hlt | hge
    · rw [Nat.mod_eq_of_lt hlt]
      omega
    · have he : j + 1 = n := by omega
      rw [he, Nat.mod_self]
      omega
  have hlt : j < xs.length := (List.getElem?_eq_some_iff.mp hy).1
  have hx : xs.getD j ⟨.unseen, 0⟩ = y := by rw [List.getD_eq_getElem?_getD, hy]; rfl
  have hat (x : Sector) : (xs.set j x).getD ((j + 1) % n) ⟨.unseen, 0⟩ = (xs[(j + 1) % n]?).getD ⟨.unseen, 0⟩ := by
    rw [List.getD_eq_getElem?_getD, List.getElem?_set_ne (Ne.symm hnext)]
  unfold returnedSectors
  simp only [hx, hat, beq_iff_eq, Bool.and_eq_true]
  by_cases hk : k = j
  · subst hk
    rw [if_pos rfl]
    split
    · rw [List.getElem?_set_ne hnext, List.getElem?_set_self hlt]
    · rw [List.getElem?_set_self hlt]
  · rw [if_neg hk]
    by_cases hfull : y.state = .full ∧ (xs[(j + 1) % n]?.getD ⟨.unseen, 0⟩).state = .head
    · obtain ⟨hy', hhead⟩ := hfull
      obtain ⟨z, hz⟩ : ∃ z, xs[(j + 1) % n]? = some z := by
        cases hz : xs[(j + 1) % n]? with
        | none => rw [hz] at hhead; cases hhead
        | some z => exact ⟨z, rfl⟩
      rw [hz] at hhead
      rw [if_pos ⟨hy', by rw [hz]; exact hhead⟩]
      by_cases hkn : k = (j + 1) % n
      · subst hkn
        rw [List.getElem?_set_self (by rw [List.length_set]; exact (List.getElem?_eq_some_iff.mp hz).1),
          if_pos ⟨hy', rfl, by rw [hz]; exact congrArg some hhead⟩, hz]
        rfl
      · rw [List.getElem?_set_ne (Ne.symm hkn), List.getElem?_set_ne (Ne.symm hk), if_neg fun h => hkn h.2.1]
    · rw [if_neg hfull, List.getElem?_set_ne (Ne.symm hk), if_neg]
      rintro ⟨hy', rfl, hhead⟩
      refine hfull ⟨hy', ?_⟩
      obtain ⟨z, hz, hhead⟩ := Option.map_eq_some_iff.mp hhead
      rw [hz]
      exact hhead

/-! ## The records that a resolution confirms -/

theorem resolvedSummaries_append {recs : List Record} {shown : List Summary} (h : recs.length = shown.length) (xs : List Summary) :
    resolvedSummaries recs (shown ++ xs) = resolvedSummaries recs shown := by
  induction recs generalizing shown with
  | nil => cases shown <;> rfl
  | cons q qs ih =>
    cases shown with
    | nil => cases h
    | cons x shown =>
      rw [List.cons_append, resolvedSummaries, ih (Nat.succ.inj h)]
      rfl

theorem confirmedSlots_append {recs : List Record} {shown : List Summary} (h : recs.length = shown.length) (first : Nat) (xs : List Summary) :
    confirmedSlots first recs (shown ++ xs) = confirmedSlots first recs shown := by
  induction recs generalizing shown first with
  | nil => cases shown <;> rfl
  | cons q qs ih =>
    cases shown with
    | nil => cases h
    | cons x shown =>
      rw [List.cons_append, confirmedSlots, ih (Nat.succ.inj h)]
      rfl

theorem length_resolvedSummaries {recs : List Record} {shown : List Summary} (h : recs.length = shown.length) :
    (resolvedSummaries recs shown).length = shown.length := by
  induction recs generalizing shown with
  | nil =>
    cases shown with
    | nil => rfl
    | cons x shown => cases h
  | cons q qs ih =>
    cases shown with
    | nil => cases h
    | cons x shown => rw [resolvedSummaries, List.length_cons, ih (Nat.succ.inj h), List.length_cons]

theorem getElem?_resolvedSummaries {recs : List Record} {shown : List Summary} {k : Nat} {q : Record} {x : Summary} (hq : recs[k]? = some q)
    (hx : shown[k]? = some x) : (resolvedSummaries recs shown)[k]? = some (if x = .record q then .record q else .corrupt) := by
  induction recs generalizing shown k with
  | nil => cases hq
  | cons p qs ih =>
    cases shown with
    | nil => cases hx
    | cons y shown =>
      cases k with
      | zero =>
        cases hq
        cases hx
        rfl
      | succ k => exact ih hq hx

/-! ## The resolution -/

theorem setMany_nil (lo : Nat) (xs : List Summary) : setMany lo [] xs = xs := by
  refine List.ext_getElem? fun k => ?_
  rw [getElem?_setMany]
  exact if_neg fun h => by rw [List.length_nil] at h; omega

/-- A resolving read that shows the doubtful slots as `shown`, and `freed` erased ones after them (R145). -/
structure Resolution (d : Doubt) (shown : List Summary) (freed : Nat) (recs rest : List Record) : Prop where
  split : d.records = recs ++ rest
  sameLength : recs.length = shown.length
  left : rest.length = freed
  filled : ∀ x ∈ shown, x ≠ Summary.erased

/-- The summaries after a resolution (R145). -/
def resolvedSlots (d : Doubt) (shown : List Summary) (freed : Nat) (recs : List Record) (xs : List Summary) : List Summary :=
  setMany (d.first + shown.length) (List.replicate freed .erased) (setMany d.first (resolvedSummaries recs shown) xs)

/-- The journal after a resolution, but for its end (R145). -/
def resolvedTables (s : State) (d : Doubt) (shown : List Summary) (freed : Nat) (recs rest : List Record) : Journal :=
  { s.journal with
    head := if freed = 0 then s.journal.head else d.first + shown.length
    nextSeq := (rest.head?.map (·.seq)).getD s.journal.nextSeq
    slots := resolvedSlots d shown freed recs s.journal.slots
    sectors := if freed = 0 then s.journal.sectors else returnedSectors (ringSectors s) (d.first / 512) freed s.journal.sectors }

section resolution
variable {d : Doubt} {shown : List Summary} {freed : Nat} {recs rest : List Record} (h : Resolution d shown freed recs rest)
include h

theorem Resolution.kept : keptSlots (shown ++ List.replicate freed .erased) = shown.length := by
  refine keptSlots_append freed ?_
  cases hlast : shown.getLast? with
  | none => exact .inl (List.getLast?_eq_none_iff.mp hlast)
  | some x => exact .inr ⟨x, rfl, h.filled x (List.mem_of_getLast? hlast)⟩

theorem Resolution.noGap : hasGap (shown ++ List.replicate freed .erased) = false := by
  unfold hasGap
  rw [h.kept, List.take_left, List.any_eq_false]
  exact fun x hx he => h.filled x hx (beq_iff_eq.mp he)

theorem Resolution.length : d.records.length = shown.length + freed := by
  rw [h.split, List.length_append, h.sameLength, h.left]

theorem Resolution.freed_eq : d.records.length - shown.length = freed := by
  rw [h.length, Nat.add_sub_cancel_left]

theorem Resolution.taken : d.records.take shown.length = recs := by
  rw [h.split, ← h.sameLength, List.take_left]

theorem Resolution.next : d.records[shown.length]? = rest.head? := by
  rw [h.split, ← h.sameLength, List.getElem?_append_right (le_refl _), Nat.sub_self, List.head?_eq_getElem?]

theorem Resolution.freeSlots (s : State) :
    freeSlots (s.setSlots d.first (resolvedSummaries recs shown)) d shown.length = s.setJournal (resolvedTables s d shown freed recs rest) := by
  by_cases hfreed : freed = 0
  · rw [freeSlots_none _ _ (h.freed_eq.trans hfreed)]
    obtain rfl : rest = [] := List.length_eq_zero_iff.mp (h.left.trans hfreed)
    subst hfreed
    unfold resolvedTables resolvedSlots
    rw [List.replicate_zero, setMany_nil]
    rfl
  · rw [freeSlots_some _ _ (by rw [h.freed_eq]; exact hfreed), h.freed_eq, h.next]
    unfold resolvedTables resolvedSlots
    rw [if_neg hfreed, if_neg hfreed]
    rfl

/-- R145: the resolution, as the records that it confirms and the journal that it leaves. -/
theorem Resolution.resolveDoubt (s : State) : resolveDoubt s d (shown ++ List.replicate freed .erased) =
    (applyRecords (s.setJournal (resolvedTables s d shown freed recs rest)) (confirmedSlots d.first recs shown)).setJournal
      { resolvedTables s d shown freed recs rest with
        state := .adopted, doubt := none, outcome := ⟨.program, .resolved, ringBase s + 8 * d.first⟩ } := by
  unfold Machine.resolveDoubt
  simp only [h.kept, h.taken, resolvedSummaries_append h.sameLength, confirmedSlots_append h.sameLength, h.freeSlots]
  obtain ⟨_, _, _, hf⟩ := applyRecords_frame (s.setJournal (resolvedTables s d shown freed recs rest)) (confirmedSlots d.first recs shown)
  rw [hf]
  rfl

variable {xs : List Summary}

theorem Resolution.slot_shown (hfits : d.first + d.records.length ≤ xs.length) {k : Nat} {q : Record} {x : Summary} (hq : recs[k]? = some q)
    (hx : shown[k]? = some x) :
    (resolvedSlots d shown freed recs xs)[d.first + k]? = some (if x = .record q then .record q else .corrupt) := by
  have hk : k < shown.length := (List.getElem?_eq_some_iff.mp hx).1
  have hlength := h.length
  unfold resolvedSlots
  rw [getElem?_setMany, if_neg (by omega), getElem?_setMany, length_resolvedSummaries h.sameLength, if_pos (by omega),
    Nat.add_sub_cancel_left]
  exact getElem?_resolvedSummaries hq hx

theorem Resolution.slot_freed (hfits : d.first + d.records.length ≤ xs.length) {k : Nat} (hk : k < freed) :
    (resolvedSlots d shown freed recs xs)[d.first + shown.length + k]? = some .erased := by
  have hlength := h.length
  unfold resolvedSlots
  rw [getElem?_setMany, length_setMany, List.length_replicate, if_pos (by omega), List.getElem?_replicate, if_pos (by omega)]

theorem Resolution.slot_other {k : Nat} (hk : ¬ InRange d.first d.records.length k) : (resolvedSlots d shown freed recs xs)[k]? = xs[k]? := by
  have hout : ¬ (d.first ≤ k ∧ k < d.first + (shown.length + freed)) := h.length ▸ hk
  unfold resolvedSlots
  rw [getElem?_setMany, List.length_replicate, if_neg (by omega), getElem?_setMany, length_resolvedSummaries h.sameLength, if_neg (by omega)]

end resolution

end Sys2Proof.Claims

/-! The release of a read while the journal is ADOPTED or DOUBTFUL (R62, R145, R146, R150 to R152): O39. -/

namespace Sys2Proof.Claims

open Sys2Proof Sys2Proof.Machine

/-! ## The capture unit's part of a read -/

/-- What a captured block leaves of the state once a configuration has been adopted (R170, R174). -/
structure Captures (s m : State) : Prop where
  frame    : ∃ capture arb cfg, m = { s with capture := capture, arb := arb, cfg := cfg }
  coverage : m.capture.coverage = s.capture.coverage
  adopted  : m.capture.adopted = s.capture.adopted
  count    : m.cfg.stringCount = s.cfg.stringCount

theorem Captures.refl (s : State) : Captures s s := ⟨⟨_, _, _, rfl⟩, rfl, rfl, rfl⟩

theorem Captures.trans {a b c : State} (h : Captures a b) (k : Captures b c) : Captures a c := by
  obtain ⟨⟨_, _, _, rfl⟩, hcov, hadopted, hcount⟩ := h
  obtain ⟨⟨_, _, _, rfl⟩, kcov, kadopted, kcount⟩ := k
  exact ⟨⟨_, _, _, rfl⟩, kcov.trans hcov, kadopted.trans hadopted, kcount.trans hcount⟩

theorem captures_captureSegment (r : ReadStream) (s : State) (j : Fin 8) : Captures s (captureSegment r s j) := by
  unfold captureSegment
  split
  · exact .refl s
  · exact ⟨⟨_, _, _, rfl⟩, rfl, rfl, rfl⟩

theorem captures_captureSegments (r : ReadStream) (js : List (Fin 8)) (s : State) : Captures s (js.foldl (captureSegment r) s) := by
  induction js generalizing s with
  | nil => exact .refl s
  | cons j js ih => exact (captures_captureSegment r s j).trans (ih _)

theorem adoptK_frame (s : State) (k : Nat) : ∃ arb, adoptK s k = { s with arb := arb } := by
  unfold adoptK
  split
  · exact ⟨_, rfl⟩
  · exact ⟨_, rfl⟩

theorem captures_laterAdoption (s : State) (c : Config) : Captures s (laterAdoption s c) := by
  obtain ⟨arb, hk⟩ := adoptK_frame s c.grants
  unfold laterAdoption
  rw [hk]
  exact ⟨⟨_, _, _, rfl⟩, rfl, rfl, rfl⟩

theorem captures_judgeBlock (s : State) (h : s.capture.adopted = true) : Captures s (judgeBlock s) := by
  have hclear : Captures s (clearSegments s) := ⟨⟨_, _, _, rfl⟩, rfl, rfl, rfl⟩
  have hadopted : (clearSegments s).capture.adopted = true := h
  unfold judgeBlock
  simp only
  split
  · exact hclear.trans (captures_laterAdoption _ _)
  · exact hclear.trans ⟨⟨_, _, _, rfl⟩, rfl, rfl, rfl⟩

theorem captures_configRead (s : State) (t : Txn) (h : s.capture.adopted = true) : Captures s (configRead s t) := by
  have hsegments := captures_captureSegments t.readStream (List.finRange 8) s
  unfold configRead
  simp only
  split
  · exact hsegments.trans (captures_judgeBlock _ (hsegments.adopted.trans h))
  · exact hsegments

/-! ## The release -/

/-- The state that the release of a read leaves to the journal. -/
def readReleased (s : State) (dt : Nat) (t : Txn) (r : Release) : State :=
  (s.advance dt).release r (readTail (s.advance dt) t r) .asSent

section release
variable {s : State} {t : Txn} {c : CmdClass} {r : Release} {dt : Nat} (hends : ReadEnds s t c r)
  (hring : journalRegion t.cfg ≠ none) (hstate : s.journal.state = .adopted ∨ s.journal.state = .doubtful)

include hring hstate in
theorem journalRead_compares : journalRead (readReleased s dt t r) t = compareRead (readReleased s dt t r) t.readStream := by
  have hjournal : (readReleased s dt t r).journal.state = s.journal.state := rfl
  unfold journalRead
  cases hregion : journalRegion t.cfg with
  | none => exact absurd hregion hring
  | some region => rcases hstate with hs | hs <;> rw [hjournal, hs]

include hends hring hstate in
/-- The comparison, the captured block, and the end of the event. -/
theorem exec_read_compares {m : State} (hm : compareRead (readReleased s dt t r) t.readStream = m) (hadopted : m.capture.adopted = true) :
    ∃ m', Captures m m' ∧ exec (row c dt [] (some r)) s = .next (finish (s.advance dt) m') := by
  obtain ⟨_, _, hread, _⟩ := exec_row_release hends.txn hends.cls dt r
  refine ⟨configRead m t, captures_configRead m t hadopted,
    (hread hends.kind).trans (congrArg (fun x => Host.Outcome.next (finish (s.advance dt) x)) ?_)⟩
  rw [← hm, ← journalRead_compares hring hstate]
  rfl

end release

/-! ## A change or a gap -/

/-- R152: the journal that becomes INCONSISTENT. -/
theorem becomeInconsistent_journal (s : State) : (becomeInconsistent s).journal = inconsistentFrom s (tailSector s) := by
  unfold becomeInconsistent inconsistentFrom
  simp only [State.setJournal, List.map_const']

theorem coverage_becomeInconsistent (s : State) : ∀ b ∈ (becomeInconsistent s).capture.coverage, b = false := by
  intro b hb
  obtain ⟨_, _, rfl⟩ := List.mem_map.mp hb
  rfl

/-- What the end of the event carries of a state that a block has been captured from. -/
theorem Captures.finish {m m' : State} (h : Captures m m') (s₀ : State) :
    (finish s₀ m').journal = m.journal ∧ (finish s₀ m').capture.coverage = m.capture.coverage ∧ (finish s₀ m').evid = m.evid
      ∧ ∀ i : Str, SameRecord m.table[i] (Machine.finish s₀ m').table[i] := by
  have hcarries := carries_finish s₀ m'
  have hrecord := Carries.sameRecord hcarries
  obtain ⟨⟨_, _, _, rfl⟩, hcoverage, _, _⟩ := h
  exact ⟨hcarries.journal, (congrArg Capture.coverage hcarries.capture).trans hcoverage, hcarries.evid, hrecord⟩

theorem read_lost {s : State} {t : Txn} {c : CmdClass} {r : Release} (dt : Nat) (hends : ReadEnds s t c r) (hring : journalRegion t.cfg ≠ none)
    (hstate : s.journal.state = .adopted ∨ s.journal.state = .doubtful) (hadopted : s.capture.adopted = true)
    (hlost : Changes s t ∨ Gap s t) :
    ∃ u tail, exec (row c dt [] (some r)) s = .next u ∧ IsTail s tail ∧ u.journal = inconsistentFrom s tail
      ∧ (∀ b ∈ u.capture.coverage, b = false) ∧ u.evid = s.evid ∧ ∀ i : Str, SameRecord s.table[i] u.table[i] := by
  obtain ⟨m', hcaptures, hexec⟩ := exec_read_compares (dt := dt) hends hring hstate
    (compareRead_lost (s := readReleased s dt t r) (by exact hlost)) (by exact hadopted)
  obtain ⟨hjournal, hcoverage, hevid, hrecord⟩ := hcaptures.finish (s.advance dt)
  have hempty := coverage_becomeInconsistent (readReleased s dt t r)
  exact ⟨_, tailSector s, hexec, (isTail_iff s _).mpr rfl, hjournal.trans (becomeInconsistent_journal _), by rw [hcoverage]; exact hempty, hevid,
    hrecord⟩

/-- The marks stand to the end of the event. -/
theorem Marked.carried {s : State} {t : Txn} {v w : Vector Entry 24} (h : Marked s t v) (hw : ∀ i : Str, SameRecord v[i] w[i]) :
    Marked s t w := by
  intro i
  obtain ⟨hrecorded, hlive, hrefusal, hdamaged⟩ := h i
  obtain ⟨krecorded, klive, kdamaged, krefusal⟩ := hw i
  exact ⟨krecorded.trans hrecorded, klive.trans hlive, krefusal.trans hrefusal, by rw [kdamaged]; exact hdamaged⟩

/-! ## A comparison without a resolution -/

theorem read_compares {s : State} {t : Txn} {c : CmdClass} {r : Release} (dt : Nat) (hends : ReadEnds s t c r)
    (hring : journalRegion t.cfg ≠ none) (hstate : s.journal.state = .adopted ∨ s.journal.state = .doubtful)
    (hadopted : s.capture.adopted = true) (hchanges : ¬ Changes s t) (hdoubt : ∀ d seen, ¬ ShowsDoubt s t d seen)
    (hstart : (∃ j, stateOf s j = some .unknown) → t.start < t.cfg.memSize) :
    ∃ u slots sectors, exec (row c dt [] (some r)) s = .next u ∧ u.journal = { s.journal with slots := slots, sectors := sectors }
      ∧ Compared s t slots sectors ∧ Marked s t u.table ∧ u.evid = s.evid := by
  obtain ⟨m', hcaptures, hexec⟩ := exec_read_compares (dt := dt) hends hring hstate
    (compareRead_compared (s := readReleased s dt t r) (by exact hchanges) (by exact hdoubt)) (by exact hadopted)
  obtain ⟨hjournal, _, hevid, hrecord⟩ := hcaptures.finish (s.advance dt)
  exact ⟨_, comparedSlots s t, comparedSectors s t, hexec, hjournal, compared_compared hstart, (compared_marked s t).carried hrecord, hevid⟩

end Sys2Proof.Claims

/-! A read that resolves the doubtful slots (R62, R145), and the settlement of O39. -/

namespace Sys2Proof.Claims

open Sys2Proof Sys2Proof.Machine

/-- The records that a read confirms are taken at the end of its event. -/
theorem recordsTaken_read {s s₀ m m' : State} {rs : List (Nat × Record)} (ht : m.table = (applyRecords s rs).table)
    (he : m.evid = (applyRecords s rs).evid) (hq : m.seqs = (applyRecords s rs).seqs) (hc : m.cfg = s.cfg) (hx : m.search = s.search)
    (h : Captures m m') : RecordsTaken s m (finish s₀ m') rs := by
  obtain ⟨_, _, hevid, hrecord⟩ := h.finish s₀
  have hcount : m'.cfg.stringCount = s.cfg.stringCount := by rw [h.count, hc]
  have hseqs : m'.seqs = m.seqs := by
    obtain ⟨⟨_, _, _, rfl⟩, _, _, _⟩ := h
    rfl
  have hsearch : m'.search = s.search := by
    obtain ⟨⟨_, _, _, rfl⟩, _, _, _⟩ := h
    exact hx
  have hrest (i : Str) (q : Seq) (hi : m.seqs[i] = q) (hf : q.state = .failed) : (finish s₀ m').seqs[i] = q :=
    finish_rest s₀ (by rw [hseqs]; exact hi) (by rw [Seq.waitsFor, hf]) fun t now => by cases t <;> simp only [Seq.takeTarget, hf]
  have hend (hn : NoTestStarts s (finish s₀ m')) (i : Str) (hi : i.val < s.cfg.stringCount) : Ended m.seqs[i] (finish s₀ m') i :=
    hseqs ▸ ended_finish (targetsStand_of_noTest hsearch hn) (by rw [hcount]; exact hi)
  exact ⟨ht, he, hq, hrecord, hevid, hrest, hend⟩

theorem length_openedSectors (xs : List Sector) (h n : Nat) : (openedSectors xs h n).length = xs.length := by
  unfold openedSectors
  split
  · rw [List.length_set]
  · rfl

theorem length_comparedSectors (s : State) (t : Txn) : (comparedSectors s t).length = s.journal.sectors.length := by
  unfold comparedSectors freedSectors
  generalize s.journal.sectors = xs
  induction erasedShown s t generalizing xs with
  | nil => rfl
  | cons j js ih => rw [List.foldl_cons, ih, length_openedSectors, List.length_set]

section resolves
variable {d : Doubt} {shown : List Summary} {freed : Nat} {recs rest : List Record} (h : Resolution d shown freed recs rest)
include h

theorem Resolution.recordsTaken {s s₀ m m' : State}
    (hm : Machine.resolveDoubt s d (shown ++ List.replicate freed .erased) = m) (hc : Captures m m') :
    RecordsTaken (s.setJournal (resolvedTables s d shown freed recs rest)) m (finish s₀ m') (confirmedSlots d.first recs shown) := by
  rw [h.resolveDoubt] at hm
  obtain ⟨_, _, _, hframe⟩ := applyRecords_frame (s.setJournal (resolvedTables s d shown freed recs rest)) (confirmedSlots d.first recs shown)
  exact recordsTaken_read (by rw [← hm]; rfl) (by rw [← hm]; rfl) (by rw [← hm]; rfl) (by rw [← hm, hframe]; rfl)
    (by rw [← hm, hframe]; rfl) hc

theorem Resolution.adopted (s : State) : (Machine.resolveDoubt s d (shown ++ List.replicate freed .erased)).capture.adopted = s.capture.adopted := by
  obtain ⟨_, _, _, hframe⟩ := applyRecords_frame (s.setJournal (resolvedTables s d shown freed recs rest)) (confirmedSlots d.first recs shown)
  rw [h.resolveDoubt, hframe]
  rfl

end resolves

theorem read_resolves {s : State} {t : Txn} {c : CmdClass} {r : Release} (dt : Nat) (hends : ReadEnds s t c r)
    (hring : journalRegion t.cfg ≠ none) (hstate : s.journal.state = .adopted ∨ s.journal.state = .doubtful)
    (hadopted : s.capture.adopted = true) {d : Doubt} {shown : List Summary} {freed : Nat} {recs rest : List Record}
    (hresolution : Resolution d shown freed recs rest) (hchanges : ¬ Changes s t)
    (hdoubt : ShowsDoubt s t d (shown ++ List.replicate freed .erased)) :
    ∃ u, exec (row c dt [] (some r)) s = .next u
      ∧ u.journal = { resolvedTables (compared s t) d shown freed recs rest with
          state := .adopted, doubt := none, outcome := ⟨.program, .resolved, ringBase s + 8 * d.first⟩ }
      ∧ Applied { s with table := comparedEntries s t } u (confirmedSlots d.first recs shown) := by
  have hcompare := compareRead_resolves (s := readReleased s dt t r) (by exact hchanges) (by exact hdoubt) hresolution.noGap
  obtain ⟨m', hcaptures, hexec⟩ := exec_read_compares (dt := dt) hends hring hstate hcompare
    ((hresolution.adopted _).trans (by exact hadopted))
  obtain ⟨hjournal, _⟩ := hcaptures.finish (s.advance dt)
  have happlied := (hresolution.recordsTaken (s₀ := s.advance dt) rfl hcaptures).applied
  rw [hresolution.resolveDoubt] at hjournal
  refine ⟨_, hexec, hjournal, ?_⟩
  exact ⟨happlied.records, happlied.causes, happlied.welds, happlied.others, happlied.targets⟩

/-- Settles O39: a read that shows the journal lost, a comparison, and a comparison with the doubtful slots resolved. -/
theorem journalReadsAreCompared : Obligations.JournalReadsAreCompared := by
  intro c dt r s t hends hring hstate hadopted
  refine ⟨read_lost dt hends hring hstate hadopted, read_compares dt hends hring hstate hadopted, ?_⟩
  intro d shown freed recs rest hchanges hstart hshows hfilled hsplit hlength hfits hheld hfirst hsector
  have ⟨_, hseen, _⟩ := hshows
  have hresolution : Resolution d shown freed recs rest := by
    refine ⟨hsplit, hlength, ?_, hfilled⟩
    rw [hsplit, List.length_append, List.length_append, List.length_replicate] at hseen
    omega
  obtain ⟨u, hexec, hjournal, happlied⟩ := read_resolves dt hends hring hstate hadopted hresolution hchanges hshows
  have hslots : d.first + d.records.length ≤ (comparedSlots s t).length := by rwa [length_comparedSlots]
  have hsectors : d.first / 512 < (comparedSectors s t).length := by rwa [length_comparedSectors]
  have hin : d.first / 512 < ringSectors s := by
    unfold ringSlots at hfirst
    omega
  have hy : (comparedSectors s t)[d.first / 512]? = some (comparedSectors s t)[d.first / 512] := List.getElem?_eq_getElem hsectors
  refine ⟨u, comparedSlots s t, comparedSectors s t, comparedEntries s t, _, resolvedSlots d shown freed recs (comparedSlots s t),
    if freed = 0 then comparedSectors s t else returnedSectors (ringSectors s) (d.first / 512) freed (comparedSectors s t),
    hexec, compared_compared hstart, compared_marked s t, hy, hjournal, fun k q x hq hx => hresolution.slot_shown hslots hq hx,
    fun k hk => hresolution.slot_freed hslots hk, fun k hk => hresolution.slot_other hk, fun k => ?_, happlied⟩
  split
  · rfl
  · exact getElem?_returnedSectors hy hheld.sectors.1 hin k

end Sys2Proof.Claims

/-! The refutation of O50: an original suspect named twice. The statement is of every state; a search that has started names each of its
strings once (R85), and then this does not occur. -/

namespace Sys2Proof.Claims

open Sys2Proof Sys2Proof.Machine

namespace RepeatedOriginal

/-- The close of string 5, its travel window over. -/
def act : Act := ⟨.close_, .travel, false, 0, 0, 0, 0, 0⟩

/-- The confirming step of string 5, whose close is about to fail, in a search whose original suspects name string 3, which is OPEN, twice. -/
def state : State :=
  { State.reset with
    inReset := false
    seqs := (State.reset.seqs.set (3 : Str) { Seq.reset with state := .opened }).set (5 : Str)
      { Seq.reset with state := .closing, act := some act, grant := .held }
    search := { Search.reset with phase := .confirm, stage := .measure, suspects := [5], originals := [3, 3] } }

theorem due : Due state 0 5 act .close_ .travel 0 := ⟨rfl, rfl, rfl, rfl, le_refl 0⟩

/-- The state after the failed close. -/
def result : State := finish (state.advance 0) (failClose (state.advance 0) 5)

theorem exec_eq : exec (.closeTravelExpiry 0 5) state = .next result := rfl

/-- The sweep that the event enters takes string 3 twice. -/
theorem sweepSet_eq : sweepSet state result = [3, 3] := by decide +kernel

/-- String 3 is under test, and as one of the strings not yet tested it stays HELD. -/
theorem result_underTest : result.search.underTest = some 3 ∧ result.table[(3 : Str)].role = .held := by decide +kernel

/-- So the switch wait holds at the end of the event, and the stage still waits. -/
theorem result_waits : WaitHolds result ∧ result.search.phase = .sweep ∧ result.search.stage = .switchWait := by
  unfold WaitHolds
  decide +kernel

end RepeatedOriginal

open RepeatedOriginal in
/-- Refutes O50: where the original suspects name a string twice, a sweep entered at an overtaken confirming step starts the test of that
string at once, with the string still HELD; its switch wait holds, and is not judged at that event. -/
theorem not_searchTimersAndOvertaken : ¬ Obligations.SearchTimersAndOvertaken := by
  intro h
  obtain ⟨_, _, _, hfails, _⟩ := h 0 state
  obtain ⟨u, hexec, _, hovertaken⟩ := hfails 5 act due rfl (by decide) (by decide) (by decide) (by decide)
  obtain rfl : result = u := Host.Outcome.next.inj (exec_eq.symm.trans hexec)
  obtain ⟨hwait, hphase, hstage⟩ := result_waits
  obtain ⟨_, hentered⟩ := (hovertaken.confirm rfl).sweeps rfl 3 [3] sweepSet_eq
  rcases hentered with hholds | hstarts
  · obtain ⟨_, hhold⟩ := hholds.phase
    exact absurd (hstage.symm.trans hhold) (by decide)
  · rcases hstarts.stage with ⟨hhold, _⟩ | hjudged
    · cases hhold
    · obtain ⟨hsettles, _⟩ := hjudged.settles hwait (by rw [hphase]; decide)
      exact absurd (hstage.symm.trans hsettles) (by decide)

end Sys2Proof.Claims

/-! What an insulation completion makes of the search unit: the trigger counter, re-arm, and the start of a search (R84, R85, R87, R88,
R101), for O48. -/

namespace Sys2Proof.Machine

open Sys2Proof.Claims (SameRearm rearmed triggerAfter endedSearch WaitHolds WaitJudged isoCompleted isPresent_iff judgeSwitchWait_none)

/-! ## Re-arm while a search goes on -/

/-- `t` shows re-arm, the reason SEARCH and the trigger counter as `s` does. -/
def KeepsRearm (s t : State) : Prop := SameRearm t.search s.search ∧ t.search.trigger = s.search.trigger

/-- The search is over in `t`, or `t` shows re-arm, the reason SEARCH and the trigger counter as `s` does. -/
def EndsOrKeepsRearm (s t : State) : Prop := t.search.phase = .idle ∨ KeepsRearm s t

theorem KeepsRearm.refl (s : State) : KeepsRearm s s := ⟨⟨rfl, rfl, rfl⟩, rfl⟩

theorem KeepsRearm.trans {a b c : State} (h : KeepsRearm a b) (k : KeepsRearm b c) : KeepsRearm a c := by
  obtain ⟨⟨hattn, hmet, hat⟩, htrigger⟩ := h
  obtain ⟨⟨kattn, kmet, kat⟩, ktrigger⟩ := k
  exact ⟨⟨kattn.trans hattn, kmet.trans hmet, kat.trans hat⟩, ktrigger.trans htrigger⟩

theorem KeepsRearm.of_search {s t : State} (h : t.search = s.search) : KeepsRearm s t := by
  unfold KeepsRearm
  rw [h]
  exact KeepsRearm.refl s

theorem KeepsRearm.andThen {a b c : State} (h : KeepsRearm a b) (k : EndsOrKeepsRearm b c) : EndsOrKeepsRearm a c :=
  k.imp_right h.trans

theorem keepsRearm_suspects (s : State) (xs : List Str) :
    KeepsRearm s { s with search := { s.search with suspects := xs } } := ⟨⟨rfl, rfl, rfl⟩, rfl⟩

theorem endSearch_endsOrKeepsRearm (s : State) (r : SearchResult) (f : Option Str) : EndsOrKeepsRearm s (endSearch s r f) := .inl rfl

theorem nextTest_endsOrKeepsRearm (s : State) (xs : List Str) : EndsOrKeepsRearm s (nextTest s xs) := by
  unfold nextTest
  split
  · split <;> exact endSearch_endsOrKeepsRearm ..
  · exact .inr ⟨⟨rfl, rfl, rfl⟩, rfl⟩

theorem notConfirmed_endsOrKeepsRearm (s : State) : EndsOrKeepsRearm s (notConfirmed s) := by
  unfold notConfirmed enterSweep
  simp only
  split
  · split
    · exact endSearch_endsOrKeepsRearm ..
    · exact .inr ⟨⟨rfl, rfl, rfl⟩, rfl⟩
  · exact endSearch_endsOrKeepsRearm ..

theorem beginStep_endsOrKeepsRearm (s : State) (xs : List Str) : EndsOrKeepsRearm s (beginStep s xs) := by
  unfold beginStep
  split
  · exact (keepsRearm_suspects s []).andThen (notConfirmed_endsOrKeepsRearm _)
  · exact .inr ⟨⟨rfl, rfl, rfl⟩, rfl⟩
  · exact .inr ⟨⟨rfl, rfl, rfl⟩, rfl⟩

theorem takeOvertaken_endsOrKeepsRearm (s : State) (gone : List Str) : EndsOrKeepsRearm s (takeOvertaken s gone) := by
  have hroles : KeepsRearm s { s with
      table := mapAll (fun i e => if gone.contains i then { e with role := .none } else e) s.table } := .of_search rfl
  refine hroles.andThen ?_
  unfold takeOvertaken
  simp only
  split
  · exact .inr (.refl _)
  · split
    · exact endSearch_endsOrKeepsRearm ..
    · exact .inr ⟨⟨rfl, rfl, rfl⟩, rfl⟩
  · exact beginStep_endsOrKeepsRearm ..
  · exact (keepsRearm_suspects _ _).andThen (notConfirmed_endsOrKeepsRearm _)
  · split
    · split
      · exact (keepsRearm_suspects _ _).andThen (nextTest_endsOrKeepsRearm _ _)
      · exact .inr (keepsRearm_suspects _ _)
    · split
      · exact endSearch_endsOrKeepsRearm ..
      · exact .inr (keepsRearm_suspects _ _)

theorem searchReact_endsOrKeepsRearm (s₀ s₁ : State) : EndsOrKeepsRearm s₁ (searchReact s₀ s₁) := by
  unfold searchReact
  simp only
  split
  · exact .inr (.refl s₁)
  · split
    · exact endSearch_endsOrKeepsRearm ..
    · split
      · exact endSearch_endsOrKeepsRearm ..
      · split
        · exact endSearch_endsOrKeepsRearm ..
        · split
          · exact .inr (.refl s₁)
          · exact takeOvertaken_endsOrKeepsRearm ..

theorem judgeSwitchWait_endsOrKeepsRearm (s : State) : EndsOrKeepsRearm s (judgeSwitchWait s) := by
  unfold judgeSwitchWait
  split
  · split
    · split <;> exact .inr ⟨⟨rfl, rfl, rfl⟩, rfl⟩
    · exact nextTest_endsOrKeepsRearm ..
    all_goals exact .inr (.refl s)
  · exact .inr (.refl s)

theorem judgeSwitchWait_idle {s : State} (h : s.search.phase = .idle) : (judgeSwitchWait s).search.phase = .idle := by
  unfold judgeSwitchWait
  split
  · split
    · split <;> exact h
    · unfold nextTest
      split
      · split <;> rfl
      · exact h
    all_goals exact h
  · exact h

theorem finish_endsOrKeepsRearm (s₀ s₁ : State) : EndsOrKeepsRearm s₁ (finish s₀ s₁) := by
  unfold EndsOrKeepsRearm KeepsRearm
  rw [finish_search]
  rcases searchReact_endsOrKeepsRearm s₀ s₁ with hidle | hkeeps
  · exact .inl (judgeSwitchWait_idle ((congrArg Search.phase (carryOut_search _)).trans hidle))
  · exact (hkeeps.trans (.of_search (carryOut_search _))).andThen (judgeSwitchWait_endsOrKeepsRearm _)

theorem judgeValue_endsOrKeepsRearm (s : State) (v : Nat) : EndsOrKeepsRearm s (judgeValue s v) := by
  unfold judgeValue
  simp only
  split
  · exact .inr (.refl s)
  · split
    · exact endSearch_endsOrKeepsRearm ..
    · exact beginStep_endsOrKeepsRearm ..
  · split
    · split
      · exact .inl rfl
      · exact beginStep_endsOrKeepsRearm ..
    · exact beginStep_endsOrKeepsRearm ..
  · split
    · split
      · exact .inl rfl
      · exact notConfirmed_endsOrKeepsRearm s
    · exact notConfirmed_endsOrKeepsRearm s
  · split
    · exact .inr (.refl s)
    · refine KeepsRearm.andThen ?_ (nextTest_endsOrKeepsRearm _ _)
      split
      · exact ⟨⟨rfl, rfl, rfl⟩, rfl⟩
      · exact .refl s

theorem judgeCompletion_endsOrKeepsRearm (s : State) : EndsOrKeepsRearm s (judgeCompletion s) := by
  unfold judgeCompletion
  split
  · exact endSearch_endsOrKeepsRearm ..
  · exact .inr (.refl s)
  · split
    · split
      · exact endSearch_endsOrKeepsRearm ..
      · exact .inr ⟨⟨rfl, rfl, rfl⟩, rfl⟩
    · exact .inr (.refl s)
  · split
    · exact judgeValue_endsOrKeepsRearm ..
    · exact .inr (.refl s)

/-! ## The switch wait at the end of an event -/

theorem waitHolds_iff {s : State} : WaitHolds s ↔ switchWaitHolds s = true := by
  unfold WaitHolds switchWaitHolds
  rw [List.all_eq_true]
  refine forall_congr' fun i => ?_
  simp only [allStrings, List.mem_finRange, not_true_eq_false, false_or, ← isPresent_iff, List.mem_cons, List.not_mem_nil, or_false, not_or,
    Bool.and_eq_true, Bool.or_eq_true, Bool.not_eq_true', Bool.and_eq_false_imp, Bool.or_eq_false_iff, bne_iff_ne, ne_eq, beq_iff_eq,
    beq_eq_false_iff_ne, imp_iff_not_or, and_assoc]

/-- The search `x` once its switch wait is over (R88, R90). -/
def Search.waited (x : Search) (now : Nat) (cfg : Config) : Search :=
  if x.phase = .baseline then { x with stage := .measure, measureAt := now }
  else { x with stage := .settle, settleAt := now + ms cfg.tSs }

theorem judgeSwitchWait_of_switchWait {s : State} (h : s.search.stage = .switchWait) :
    (judgeSwitchWait s).search = if switchWaitHolds s then s.search.waited s.now s.cfg else s.search := by
  unfold judgeSwitchWait Search.waited
  rw [h]
  split
  · exact apply_ite State.search _ _ _
  · rfl

section quiet
variable {s₀ s₁ : State} (hr : searchReact s₀ s₁ = s₁)
include hr

/-- An event that leaves the search unit alone and no hold stage to judge leaves its roles. -/
theorem finish_role_of_quiet (hh : s₁.search.stage ≠ .hold) (i : Str) : (finish s₀ s₁).table[i].role = s₁.table[i].role := by
  obtain ⟨x, hx⟩ := judgeSwitchWait_moves (s := carryOut s₁) (by rwa [carryOut_search])
  have hrole := carryOut_role s₁ i
  unfold finish
  rw [hr, hx, refreshPins_table, carryOut_role, ← hrole]

/-- With no stage the search stands through the end of the event. -/
theorem finish_search_of_none (hn : s₁.search.stage = .none) : (finish s₀ s₁).search = s₁.search := by
  rw [finish_search, hr, judgeSwitchWait_none ((congrArg Search.stage (carryOut_search s₁)).trans hn), carryOut_search]

/-- The switch wait is judged as it stands at the end of the event: no switch moves after it has been judged. -/
theorem finish_switchWaitHolds (hh : s₁.search.stage ≠ .hold) : switchWaitHolds (finish s₀ s₁) = switchWaitHolds (carryOut s₁) := by
  have hstand : TargetsStand s₀ s₁ := targetsStand_of_stage (by rwa [hr])
  refine switchWaitHolds_congr ?_ (fun i => ?_) fun i => ?_
  · exact (carries_finish s₀ s₁).cfg.trans (carries_carryOut s₁).cfg.symm
  · rw [finish_role_of_quiet hr hh, carryOut_role]
  · obtain ⟨hseq, _⟩ := finish_stands hstand i
    rw [hseq, hr]

/-- A stage in SWITCH_WAIT is judged by the switches as they stand at the end of the event (R88). -/
theorem finish_search_of_switchWait (hw : s₁.search.stage = .switchWait) :
    (finish s₀ s₁).search =
      if switchWaitHolds (finish s₀ s₁) then s₁.search.waited s₁.now s₁.cfg else s₁.search := by
  have hc := carries_carryOut s₁
  rw [finish_switchWaitHolds hr (by rw [hw]; nofun), finish_search, hr,
    judgeSwitchWait_of_switchWait ((congrArg Search.stage (carryOut_search s₁)).trans hw), carryOut_search, hc.now, hc.cfg]

theorem finish_waitJudged (hw : s₁.search.stage = .switchWait) : WaitJudged (finish s₀ s₁) := by
  have hsearch := finish_search_of_switchWait hr hw
  have hc := carries_finish s₀ s₁
  rw [← hc.now, ← hc.cfg] at hsearch
  generalize finish s₀ s₁ = u at hsearch
  have hphase : u.search.phase = s₁.search.phase := by
    rw [hsearch]
    unfold Search.waited
    split
    · split <;> rfl
    · rfl
  refine ⟨fun hholds hbaseline => ?_, fun hholds hother => ?_, fun hwaits => ?_⟩
  · rw [if_pos (waitHolds_iff.mp hholds), Search.waited, if_pos (hphase.symm.trans hbaseline)] at hsearch
    exact ⟨congrArg Search.stage hsearch, congrArg Search.measureAt hsearch⟩
  · rw [if_pos (waitHolds_iff.mp hholds), Search.waited, if_neg (fun h => hother (hphase.trans h))] at hsearch
    exact ⟨congrArg Search.stage hsearch, congrArg Search.settleAt hsearch⟩
  · rw [if_neg (fun h => hwaits (waitHolds_iff.mpr h))] at hsearch
    rw [hsearch, hw]

end quiet

/-! ## The start of a search -/

theorem mem_closedStrings {s : State} {i : Str} :
    i ∈ closedStrings s ↔ i.val < s.cfg.stringCount ∧ s.seqs[i].state = .closed ∧ s.seqs[i].probation = 0 := by
  unfold closedStrings presentStrings
  simp only [List.mem_filter, isPresent_iff, Bool.and_eq_true, beq_iff_eq, allStrings, List.mem_finRange, true_and]

theorem closedStrings_sorted (s : State) : (closedStrings s).Pairwise (· < ·) :=
  ((List.pairwise_lt_finRange 24).filter _).filter _

/-- The search that starts with the closed strings of `s` as its suspects (R85). -/
def startedSearch (s : State) : Search :=
  { s.search with
    phase := .baseline, suspects := closedStrings s, originals := closedStrings s, steps := 0, trigger := 0, disturbed := 0
    stage := .switchWait, timer := some (s.now + minutes s.cfg.tStmo), underTest := none, swept := [] }

/-- The state in which the search of `startedSearch` starts, its suspects with role SUSPECT (R85). -/
def searchBegun (s : State) : State := { setRoles s [] (closedStrings s) with search := startedSearch s }

theorem searchBegun_search (s : State) : (searchBegun s).search = startedSearch s := rfl

theorem searchBegun_role (s : State) (i : Str) :
    (searchBegun s).table[i].role = if i ∈ closedStrings s then .suspect else .none := by
  simp only [searchBegun, setRoles, mapAll_get, List.contains_nil, Bool.false_eq_true, if_false, List.contains_iff_mem]

theorem carries_searchBegun (s : State) : Carries s (searchBegun s) := (carries_setRoles s _ _).trans (carries_search _ _)

theorem searchBegun_seqs (s : State) : (searchBegun s).seqs = s.seqs := by
  simp only [searchBegun, setRoles]

theorem startSearch_of_suspects {s : State} (h : closedStrings s ≠ []) : startSearch s = searchBegun s := by
  unfold startSearch
  simp only
  rw [if_neg fun he => h (List.isEmpty_iff.mp he)]
  simp only [searchBegun, startedSearch, setRoles]

/-- R85: with no suspect the search ends as it starts. -/
theorem startSearch_of_no_suspect {s : State} (h : closedStrings s = []) :
    startSearch s = endSearch (searchBegun s) .unlocated none := by
  unfold startSearch
  simp only
  rw [if_pos (List.isEmpty_iff.mpr h)]
  simp only [searchBegun, startedSearch, setRoles]

theorem searchTriggered_iff {s : State} : searchTriggered s = true ↔
    s.cfg.cIso ≤ s.search.trigger ∧ s.cfg.enSrch = true ∧ s.inputs.shdnActive = false ∧ s.journal.state = .adopted
      ∧ s.search.rearmMet = true ∧ s.iso.fault = false := by
  unfold searchTriggered
  simp only [Bool.and_eq_true, decide_eq_true_eq, Bool.not_eq_true', beq_iff_eq, and_assoc]

theorem searchOnCompletion_active {s : State} (h : s.search.phase ≠ .idle) :
    searchOnCompletion s = judgeCompletion (recovered s) := if_neg (by rwa [recovered_phase])

theorem searchOnCompletion_idle {s : State} (h : s.search.phase = .idle) :
    searchOnCompletion s =
      if searchTriggered (updateTrigger (recovered s)) then startSearch (updateTrigger (recovered s))
      else updateTrigger (recovered s) := if_pos (by rwa [recovered_phase])

theorem carries_counted (s : State) : Carries s (updateTrigger (recovered s)) :=
  (carries_recovered s).trans (carries_search _ _)

theorem unmoved_counted (s : State) : Unmoved s (updateTrigger (recovered s)) :=
  (unmoved_recovered s).trans (unmoved_search _ _)

theorem counted_role (s : State) (i : Str) : (updateTrigger (recovered s)).table[i].role = s.table[i].role := by
  unfold updateTrigger recovered
  split <;> rfl

end Sys2Proof.Machine

namespace Sys2Proof.Claims

open Sys2Proof Sys2Proof.Machine

/-- The result of a measurement is VALID at or above R_ok (R33, R87). -/
def healthyResult (s : State) (job : IsoJob) (kohm : Nat) (inBand : Bool) : Bool :=
  inBand && !job.disturbed && decide (s.cfg.rOk ≤ min 65535 kohm)

section completion
variable (s : State) (dt : Nat) (job : IsoJob) (kohm : Nat) (inBand : Bool)

theorem recovered_search : (recovered (isoCompleted s dt job kohm inBand)).search = rearmed s.search (healthyResult s job kohm inBand) := by
  unfold recovered rearmed healthyResult isoCompleted writeIso startIso
  cases inBand
  · rfl
  · cases job.disturbed
    · by_cases hv : s.cfg.rOk ≤ min 65535 kohm
      · simp [hv]
      · simp [hv]
    · rfl

theorem rearmed_trigger (x : Search) (healthy : Bool) : (rearmed x healthy).trigger = x.trigger := by
  cases healthy <;> rfl

theorem rearmed_phase (x : Search) (healthy : Bool) : (rearmed x healthy).phase = x.phase := by
  cases healthy <;> rfl

theorem rearmed_stage (x : Search) (healthy : Bool) : (rearmed x healthy).stage = x.stage := by
  cases healthy <;> rfl

theorem rearmed_rearmMet (x : Search) (healthy : Bool) : (rearmed x healthy).rearmMet = true ↔ x.rearmMet = true ∨ healthy = true := by
  cases healthy <;> simp [rearmed]

/-- R84: the search unit once the trigger counter has taken the result. -/
theorem counted_search : (updateTrigger (recovered (isoCompleted s dt job kohm inBand))).search =
    { rearmed s.search (healthyResult s job kohm inBand) with trigger := triggerAfter s inBand job.disturbed kohm } := by
  have hsearch := recovered_search s dt job kohm inBand
  have hiso := (unmoved_recovered (isoCompleted s dt job kohm inBand)).iso
  have hcfg := (carries_recovered (isoCompleted s dt job kohm inBand)).cfg
  generalize recovered (isoCompleted s dt job kohm inBand) = r at hsearch hiso hcfg
  unfold updateTrigger triggerAfter
  rw [hsearch, hiso, hcfg, rearmed_trigger]
  cases inBand
  · rfl
  · cases hd : job.disturbed <;> simp [isoCompleted, writeIso, startIso, hd]

/-- R85: the conditions for the start of a search, as they stand after the update of R84. -/
theorem counted_triggered : searchTriggered (updateTrigger (recovered (isoCompleted s dt job kohm inBand))) = true ↔
    s.cfg.cIso ≤ triggerAfter s inBand job.disturbed kohm ∧ s.cfg.enSrch = true ∧ s.inputs.shdnActive = false
      ∧ s.journal.state = .adopted ∧ (s.search.rearmMet = true ∨ healthyResult s job kohm inBand = true) ∧ inBand = true := by
  have hsearch := counted_search s dt job kohm inBand
  have hc := carries_counted (isoCompleted s dt job kohm inBand)
  have hcfg : (updateTrigger (recovered (isoCompleted s dt job kohm inBand))).cfg = s.cfg := hc.cfg
  have hinputs : (updateTrigger (recovered (isoCompleted s dt job kohm inBand))).inputs = s.inputs := hc.inputs
  have hjournal : (updateTrigger (recovered (isoCompleted s dt job kohm inBand))).journal = s.journal := hc.journal
  have hfault : (updateTrigger (recovered (isoCompleted s dt job kohm inBand))).iso.fault = !inBand := hc.isoFault
  rw [searchTriggered_iff, hsearch, hcfg, hinputs, hjournal, hfault, rearmed_rearmMet, Bool.not_eq_false']

/-- The strings that are CLOSED out of probation are those that the completion finds so. -/
theorem mem_counted_closedStrings {i : Str} : i ∈ closedStrings (updateTrigger (recovered (isoCompleted s dt job kohm inBand))) ↔
    i.val < s.cfg.stringCount ∧ s.seqs[i].state = .closed ∧ s.seqs[i].probation = 0 := by
  have hcfg : (updateTrigger (recovered (isoCompleted s dt job kohm inBand))).cfg = s.cfg := (carries_counted _).cfg
  have hseqs : (updateTrigger (recovered (isoCompleted s dt job kohm inBand))).seqs = s.seqs := (unmoved_counted _).seqs
  rw [mem_closedStrings, hcfg, hseqs]

/-- A completion that moves no evidence leaves nothing to the search unit's reactions. -/
theorem searchReact_of_carries {t : State} (hc : Carries (isoCompleted s dt job kohm inBand) t) (hq : t.seqs = s.seqs) :
    searchReact (s.advance dt) t = t := by
  refine searchReact_stands (fun j => by rw [hq]; rfl) hc.inputs hc.cfg fun j => ?_
  have hrecorded : t.table[j].recorded = s.table[j].recorded := (hc.record j).recorded
  have hevid : t.evid = s.evid := hc.evid
  have hinputs : t.inputs = s.inputs := hc.inputs
  have hjournal : t.journal = s.journal := hc.journal
  unfold ownTargetOf ownIsolated
  rw [hrecorded, hevid, hinputs, hjournal]
  rfl

end completion

section event
variable {s : State} {dt : Nat} {job : IsoJob} {kohm : Nat} {inBand : Bool}

/-- R87, R101: while a search goes on, a result moves re-arm and the reason SEARCH only where it is VALID at or above R_ok. -/
theorem completion_keepsRearm (hp : s.search.phase ≠ .idle)
    (hu : (finish (s.advance dt) (searchOnCompletion (isoCompleted s dt job kohm inBand))).search.phase ≠ .idle) :
    SameRearm (finish (s.advance dt) (searchOnCompletion (isoCompleted s dt job kohm inBand))).search
        (rearmed s.search (healthyResult s job kohm inBand))
      ∧ (finish (s.advance dt) (searchOnCompletion (isoCompleted s dt job kohm inBand))).search.trigger = s.search.trigger := by
  have hjudged : searchOnCompletion (isoCompleted s dt job kohm inBand) = judgeCompletion (recovered (isoCompleted s dt job kohm inBand)) :=
    searchOnCompletion_active hp
  have hgoes : (searchOnCompletion (isoCompleted s dt job kohm inBand)).search.phase ≠ .idle := fun h => hu (finish_idle h)
  have hkept := (finish_endsOrKeepsRearm (s.advance dt) _).resolve_left hu
  rw [hjudged] at hgoes hkept ⊢
  obtain ⟨hrearm, htrigger⟩ := ((judgeCompletion_endsOrKeepsRearm _).resolve_left hgoes).trans hkept
  rw [recovered_search] at hrearm htrigger
  exact ⟨hrearm, htrigger.trans (rearmed_trigger ..)⟩

/-- R84: with a condition of R85 not met the completion counts, and nothing else moves. -/
theorem completion_counts (hp : s.search.phase = .idle) (hn : s.search.stage = .none)
    (ht : ¬ searchTriggered (updateTrigger (recovered (isoCompleted s dt job kohm inBand))) = true) :
    (finish (s.advance dt) (searchOnCompletion (isoCompleted s dt job kohm inBand))).search =
        { rearmed s.search (healthyResult s job kohm inBand) with trigger := triggerAfter s inBand job.disturbed kohm }
      ∧ ∀ i : Str, (finish (s.advance dt) (searchOnCompletion (isoCompleted s dt job kohm inBand))).table[i].role = s.table[i].role := by
  have hcounted := searchOnCompletion_idle (s := isoCompleted s dt job kohm inBand) hp
  rw [if_neg ht] at hcounted
  have hsearch := counted_search s dt job kohm inBand
  have hreact := searchReact_of_carries s dt job kohm inBand (carries_counted _) (unmoved_counted _).seqs
  have hstage : (updateTrigger (recovered (isoCompleted s dt job kohm inBand))).search.stage = .none := by
    rw [hsearch]
    exact (rearmed_stage ..).trans hn
  rw [hcounted, finish_search_of_none hreact hstage]
  exact ⟨hsearch, fun i => (finish_role_of_quiet hreact (by rw [hstage]; nofun) i).trans (counted_role _ i)⟩

/-- R85, R88: the search that starts with suspects, its switch wait judged. -/
structure SearchStarted (s u : State) (at_ : Nat) (healthy : Bool) : Prop where
  phase     : u.search.phase = .baseline
  steps     : u.search.steps = 0
  timer     : u.search.timer = some (at_ + s.cfg.tStmo * 60000000)
  trigger   : u.search.trigger = 0
  disturbed : u.search.disturbed = 0
  rearm     : SameRearm u.search (rearmed s.search healthy)
  originals : u.search.originals = u.search.suspects
  sorted    : u.search.suspects.Pairwise (· < ·)
  suspects  : ∀ i : Str, i ∈ u.search.suspects ↔ i.val < s.cfg.stringCount ∧ s.seqs[i].state = .closed ∧ s.seqs[i].probation = 0
  roles     : ∀ i : Str, u.table[i].role = if i ∈ u.search.suspects then .suspect else .none
  wait      : WaitJudged u

/-- R85: with every condition met and a string to suspect, a search starts. -/
theorem completion_starts (hp : s.search.phase = .idle)
    (ht : searchTriggered (updateTrigger (recovered (isoCompleted s dt job kohm inBand))) = true)
    (hx : closedStrings (updateTrigger (recovered (isoCompleted s dt job kohm inBand))) ≠ []) :
    SearchStarted s (finish (s.advance dt) (searchOnCompletion (isoCompleted s dt job kohm inBand))) (s.now + dt)
      (healthyResult s job kohm inBand) := by
  have hstarts := searchOnCompletion_idle (s := isoCompleted s dt job kohm inBand) hp
  rw [if_pos ht, startSearch_of_suspects hx] at hstarts
  have hcounted := counted_search s dt job kohm inBand
  have hmem (i : Str) := mem_counted_closedStrings s dt job kohm inBand (i := i)
  have hseqs := (unmoved_counted (isoCompleted s dt job kohm inBand)).seqs
  have hc := carries_counted (isoCompleted s dt job kohm inBand)
  rw [hstarts]
  generalize updateTrigger (recovered (isoCompleted s dt job kohm inBand)) = c at hcounted hmem hseqs hc hx
  have hreact := searchReact_of_carries s dt job kohm inBand (hc.trans (carries_searchBegun c)) ((searchBegun_seqs c).trans hseqs)
  have hwait := finish_waitJudged hreact rfl
  have hsearch := finish_search_of_switchWait hreact rfl
  have hroles := finish_role_of_quiet hreact nofun
  have hnow : c.now = s.now + dt := hc.now
  have hcfg : c.cfg = s.cfg := hc.cfg
  generalize finish (s.advance dt) (searchBegun c) = u at hwait hsearch hroles ⊢
  obtain ⟨stage, measureAt, hjudged⟩ : ∃ stage measureAt, u.search = { startedSearch c with stage := stage, measureAt := measureAt } := by
    rw [hsearch, searchBegun_search]
    split
    · exact ⟨_, _, rfl⟩
    · exact ⟨_, _, rfl⟩
  have hsuspects : u.search.suspects = closedStrings c := by rw [hjudged, startedSearch]
  constructor
  case suspects => rw [hsuspects]; exact hmem
  case sorted => rw [hsuspects]; exact closedStrings_sorted c
  case roles => rw [hsuspects]; exact fun i => (hroles i).trans (searchBegun_role c i)
  case wait => exact hwait
  case rearm => rw [hjudged, startedSearch, hcounted]; exact ⟨rfl, rfl, rfl⟩
  case timer => rw [hjudged, startedSearch, hnow, hcfg, minutes]
  all_goals rw [hjudged, startedSearch]

/-- R85, R86: with every condition met and no string to suspect, the search ends UNLOCATED as it starts. -/
theorem completion_finds_no_suspect (hp : s.search.phase = .idle)
    (ht : searchTriggered (updateTrigger (recovered (isoCompleted s dt job kohm inBand))) = true)
    (hx : closedStrings (updateTrigger (recovered (isoCompleted s dt job kohm inBand))) = []) :
    (finish (s.advance dt) (searchOnCompletion (isoCompleted s dt job kohm inBand))).search =
        { endedSearch s (s.now + dt) .unlocated none true with steps := 0 }
      ∧ ∀ i : Str, (finish (s.advance dt) (searchOnCompletion (isoCompleted s dt job kohm inBand))).table[i].role = .none := by
  have hends := searchOnCompletion_idle (s := isoCompleted s dt job kohm inBand) hp
  rw [if_pos ht, startSearch_of_no_suspect hx] at hends
  have hc := (carries_counted (isoCompleted s dt job kohm inBand)).trans (carries_searchBegun _)
  rw [hends]
  generalize updateTrigger (recovered (isoCompleted s dt job kohm inBand)) = c at hc
  have hreact : searchReact (s.advance dt) (endSearch (searchBegun c) .unlocated none) = endSearch (searchBegun c) .unlocated none :=
    if_pos rfl
  have hnow : (searchBegun c).now = s.now + dt := hc.now
  have hcfg : (searchBegun c).cfg = s.cfg := hc.cfg
  rw [finish_search_of_none hreact rfl]
  refine ⟨?_, fun i => (finish_role_of_quiet hreact nofun i).trans (endSearch_role ..)⟩
  simp only [endSearch, setRoles, minutes, endedSearch, hnow, hcfg, searchBegun_search, startedSearch, SearchResult.raisesAttention]

/-- Settles O48: what a completion makes of a search that goes on, of none, of one that starts, and of one that has no suspect. -/
theorem searchStarts : Obligations.SearchStarts := by
  intro dt kohm inBand s job hdue
  have hmem (i : Str) := mem_counted_closedStrings s dt job kohm inBand (i := i)
  have htriggered := counted_triggered s dt job kohm inBand
  refine ⟨_, exec_insulationCompletion hdue kohm inBand, completion_keepsRearm, fun hp hn hno => ?_, fun hp hstarts hsome => ?_,
    fun hp hstarts hnone => ?_⟩
  · exact completion_counts hp hn fun ht => hno (htriggered.mp ht)
  · obtain ⟨i, hi⟩ := hsome
    obtain ⟨hphase, hsteps, htimer, htrigger, hdisturbed, hrearm, horiginals, hsorted, hsuspects, hroles, hwait⟩ :=
      completion_starts hp (htriggered.mpr hstarts) (List.ne_nil_of_mem ((hmem i).mpr hi))
    exact ⟨hphase, hsteps, htimer, htrigger, hdisturbed, hrearm, horiginals, hsorted, hsuspects, hroles, hwait⟩
  · exact completion_finds_no_suspect hp (htriggered.mpr hstarts)
      (List.eq_nil_iff_forall_not_mem.mpr fun i hi => hnone i ((hmem i).mp hi))

end event

end Sys2Proof.Claims

/-! The refutation of O49: an original suspect named twice. The statement is of every state; a search that has started names each of its
strings once (R85), and then this does not occur. -/

namespace Sys2Proof.Claims

open Sys2Proof Sys2Proof.Machine

namespace UnconfirmedRepeatedOriginal

/-- The measurement that completes. -/
def job : IsoJob := ⟨0, 0, false⟩

/-- The confirming step of string 3, OPEN, measures, in a search whose original suspects name string 3 twice. -/
def state : State :=
  { State.reset with
    inReset := false
    seqs := State.reset.seqs.set (3 : Str) { Seq.reset with state := .opened }
    iso := { Iso.reset with job := some job }
    search := { Search.reset with phase := .confirm, stage := .measure, suspects := [3], originals := [3, 3] } }

theorem due : IsoDue state 0 job := ⟨rfl, le_refl 0⟩

/-- The state after a completion at 0 kΩ, which does not confirm string 3. -/
def result : State := finish (state.advance 0) (searchOnCompletion (isoCompleted state 0 job 0 true))

/-- The sweep that the completion enters takes string 3 twice. -/
theorem sweepSet_eq : sweepSet state result = [3, 3] := by decide +kernel

/-- String 3, under test and one of the strings not yet tested, stays HELD: the switch wait holds at the end of the event, and the stage still
waits. -/
theorem result_waits : switchWaitHolds result = true ∧ result.search.phase = .sweep ∧ result.search.stage = .switchWait := by
  decide +kernel

end UnconfirmedRepeatedOriginal

open UnconfirmedRepeatedOriginal in
/-- Refutes O49: where the original suspects name a string twice, a sweep entered at a confirming step that does not confirm starts the test
of that string at once, with the string still HELD; its switch wait holds, and is not judged at that event. -/
theorem not_searchStagesAreJudged : ¬ Obligations.SearchStagesAreJudged := by
  intro h
  obtain ⟨_, u, hexec, _, _, hvalid⟩ := h 0 0 state job due rfl
  obtain rfl : result = u := Host.Outcome.next.inj ((exec_insulationCompletion due 0 true).symm.trans hexec)
  obtain ⟨_, _, hconfirm, _⟩ := hvalid (le_refl 0) rfl
  obtain ⟨_, hbelow⟩ := hconfirm 3 rfl rfl
  obtain ⟨hnotConfirmed, _⟩ := hbelow (by decide)
  obtain ⟨_, hentered⟩ := hnotConfirmed.sweeps rfl 3 [3] sweepSet_eq
  obtain ⟨hwait, hphase, hstage⟩ := result_waits
  rcases hentered with hholds | hstarts
  · obtain ⟨_, hhold⟩ := hholds.phase
    exact absurd (hstage.symm.trans hhold) (by decide)
  · rcases hstarts.stage with ⟨hhold, _⟩ | hjudged
    · cases hhold
    · obtain ⟨hsettles, _⟩ := hjudged.settles (waitHolds_iff.mpr hwait) (by rw [hphase]; decide)
      exact absurd (hstage.symm.trans hsettles) (by decide)

end Sys2Proof.Claims

/-! The memory mirror and the pending commits (O9): what every command does to the commits, and to the mirror state that stands for them. -/

namespace Sys2Proof.Machine

-- One proof after the other: elaborated side by side, these proofs wait for each other on more threads than the check has memory for.
set_option Elab.async false

/-! ## The mirror states -/

/-- The commits that stand pending in a mirror state: the program, and the erase with its timer running or paused. -/
def Stands : MirrorState → Option ProgCommit → Option EraseCommit → Prop
  | .unknown, p, e => p = none ∧ e = none
  | .idle, p, e => p = none ∧ e = none
  | .busyProgram, p, e => p.isSome = true ∧ e = none
  | .busyErase, p, e => p = none ∧ ∃ c, e = some c ∧ c.timer.isRunning = true
  | .eraseSuspended, p, e => p = none ∧ ∃ c, e = some c ∧ c.timer.isRunning = false
  | .busyProgramInSuspend, p, e => p.isSome = true ∧ ∃ c, e = some c ∧ c.timer.isRunning = false

theorem mirrorAgrees_iff {s : State} : MirrorAgrees s ↔ Stands s.mirror.state s.journal.prog s.journal.erase := by
  unfold MirrorAgrees
  cases s.mirror.state <;> simp [Stands]

theorem mirrorAgrees_unknown {s : State} (hm : s.mirror.state = .unknown) (hp : s.journal.prog = none) (he : s.journal.erase = none) :
    MirrorAgrees s := by
  rw [mirrorAgrees_iff, hm]
  exact ⟨hp, he⟩

theorem mirrorAgrees_idle {s : State} (hm : s.mirror.state = .idle) (hp : s.journal.prog = none) (he : s.journal.erase = none) :
    MirrorAgrees s := by
  rw [mirrorAgrees_iff, hm]
  exact ⟨hp, he⟩

theorem MirrorAgrees.congr {s t : State} (h : MirrorAgrees s) (hm : t.mirror.state = s.mirror.state)
    (hp : t.journal.prog = s.journal.prog) (he : t.journal.erase = s.journal.erase) : MirrorAgrees t := by
  rw [mirrorAgrees_iff] at h ⊢
  rwa [hm, hp, he]

/-- `t` has the mirror and the pending commits of `s`. -/
structure SameCommits (s t : State) : Prop where
  mirror : t.mirror = s.mirror := by rfl
  prog   : t.journal.prog = s.journal.prog := by rfl
  erase  : t.journal.erase = s.journal.erase := by rfl

theorem SameCommits.refl (s : State) : SameCommits s s := {}

theorem SameCommits.trans {a b c : State} (h : SameCommits a b) (k : SameCommits b c) : SameCommits a c :=
  ⟨k.mirror.trans h.mirror, k.prog.trans h.prog, k.erase.trans h.erase⟩

theorem SameCommits.foldl {α : Type} (f : State → α → State) (h : ∀ s a, SameCommits s (f s a)) (xs : List α) (s : State) :
    SameCommits s (xs.foldl f s) := by
  induction xs generalizing s with
  | nil => exact .refl s
  | cons x xs ih => exact (h s x).trans (ih (f s x))

theorem SameCommits.ite {s a b : State} {p : Prop} [Decidable p] (ha : SameCommits s a) (hb : SameCommits s b) :
    SameCommits s (if p then a else b) := by
  split
  · exact ha
  · exact hb

theorem SameCommits.agrees {s t : State} (h : SameCommits s t) (hs : MirrorAgrees s) : MirrorAgrees t :=
  hs.congr (congrArg Mirror.state h.mirror) h.prog h.erase

theorem Carries.sameCommits {s t : State} (h : Carries s t) : SameCommits s t :=
  ⟨h.mirror, congrArg Journal.prog h.journal, congrArg Journal.erase h.journal⟩

/-! ## The journal tracker's tables -/

theorem sameCommits_openHead (s : State) : SameCommits s s.openHead := by
  unfold State.openHead
  exact .ite {} (.refl s)

theorem sameCommits_sectorErased (s : State) (j : Nat) : SameCommits s (sectorErased s j) :=
  SameCommits.trans (b := s.eraseSector j) {} (sameCommits_openHead _)

theorem sameCommits_attemptAdoption (s : State) : SameCommits s (attemptAdoption s) := by
  unfold attemptAdoption
  refine .ite ?_ (.refl s)
  split
  · exact {}
  · exact {}

theorem sameCommits_weldCleared (s : State) (i : Str) : SameCommits s (weldCleared s i) := by
  unfold weldCleared
  exact .ite {} (.refl s)

theorem sameCommits_applyRecord (s : State) (k : Nat) (r : Record) : SameCommits s (applyRecord s k r) := by
  unfold applyRecord
  split
  · exact .refl s
  · exact .ite (SameCommits.trans {} (sameCommits_weldCleared _ _)) {}

theorem sameCommits_applyRecords (s : State) (rs : List (Nat × Record)) : SameCommits s (applyRecords s rs) :=
  SameCommits.foldl (fun (s : State) (x : Nat × Record) => applyRecord s x.1 x.2) (fun s x => sameCommits_applyRecord s x.1 x.2) rs s

theorem sameCommits_doubtRange (s : State) (c : ProgCommit) : SameCommits s (doubtRange s c) := by
  unfold doubtRange
  split <;> exact {}

theorem sameCommits_setOutcome (s : State) (k : CommitKind) (r : CommitResult) (a : Nat) : SameCommits s (s.setOutcome k r a) := {}

/-! ## The ends of the commits -/

/-- A resolution drops the pending program, and moves neither the mirror nor the pending erase (R142, R143). -/
theorem sameCommits_resolveProgram (s : State) (err : Bool) : SameCommits s.dropProg (resolveProgram s err) := by
  unfold resolveProgram
  split
  · next h => exact { prog := h }
  · refine .ite ((SameCommits.ite ?_ (.refl _)).trans (sameCommits_setOutcome ..)) ?_
    · exact sameCommits_doubtRange _ _
    · exact (sameCommits_applyRecords _ _).trans (sameCommits_setOutcome ..)

theorem sameCommits_expireProgram (s : State) : SameCommits s.dropProg (expireProgram s) := by
  cases h : s.journal.prog with
  | none =>
    unfold expireProgram
    rw [h]
    exact { prog := h }
  | some c =>
    have hdoubt := sameCommits_doubtRange s.dropProg c
    rw [expireProgram_eq h]
    unfold failedProgram
    split
    · exact ⟨rfl, hdoubt.prog, hdoubt.erase⟩
    · exact {}

/-- An end without confirmation drops the pending erase, and moves neither the mirror nor the pending program (R150). -/
theorem sameCommits_failErase (s : State) (r : CommitResult) : SameCommits s.dropErase (failErase s r) := by
  cases h : s.journal.erase with
  | none =>
    unfold failErase
    rw [h]
    exact { erase := h }
  | some c =>
    rw [failErase_eq s c r h]
    exact {}

theorem sameCommits_confirmErase (s : State) : SameCommits s.dropErase (confirmErase s) := by
  unfold confirmErase
  split
  · next h => exact { erase := h }
  · next c _ =>
    refine (sameCommits_setOutcome s.dropErase .erase .confirmed c.base).trans ?_
    split
    · exact .refl _
    · next j _ =>
      refine .ite ?_ (.ite ?_ (sameCommits_sectorErased _ j))
      · exact SameCommits.trans {} (sameCommits_attemptAdoption _)
      · exact ((sameCommits_sectorErased _ j).trans {}).trans (sameCommits_attemptAdoption _)

theorem sameCommits_resolveErase (s : State) (err : Bool) : SameCommits s.dropErase (resolveErase s err) := by
  unfold resolveErase
  exact .ite (sameCommits_failErase ..) (sameCommits_confirmErase s)

/-- One event that ends the pending program by `f` drops the pending erase with it. -/
theorem sameCommits_endBoth {s : State} {f : State → State} (h : SameCommits s.dropProg (f s)) (r : CommitResult) :
    SameCommits s.dropProg.dropErase (endBoth s f r) := by
  have hdrop : SameCommits s.dropProg.dropErase (f s).dropErase := ⟨h.mirror, h.prog, rfl⟩
  exact (hdrop.trans (sameCommits_failErase (f s) r)).trans {}

theorem pauseErase_eq {s : State} {c : EraseCommit} {x : Nat} (h : s.journal.erase = some c) (ht : c.timer = .running x) :
    pauseErase s = s.setJournal { s.journal with erase := some { c with timer := .paused (x - s.now) } } := by
  unfold pauseErase
  simp only [h, ht]

theorem resumeErase_eq {s : State} {c : EraseCommit} {left : Nat} (h : s.journal.erase = some c) (ht : c.timer = .paused left) :
    resumeErase s = s.setJournal { s.journal with erase := some { c with timer := .running (s.now + left) } } := by
  unfold resumeErase
  simp only [h, ht]

theorem pauseErase_mirror (s : State) : (pauseErase s).mirror = s.mirror := by
  unfold pauseErase
  repeat' split
  all_goals rfl

theorem resumeErase_mirror (s : State) : (resumeErase s).mirror = s.mirror := by
  unfold resumeErase
  repeat' split
  all_goals rfl

theorem isRunning_iff (x : EraseTimer) : x.isRunning = true ↔ ∃ t, x = .running t := by
  cases x <;> simp [EraseTimer.isRunning]

theorem not_isRunning_iff (x : EraseTimer) : x.isRunning = false ↔ ∃ r, x = .paused r := by
  cases x <;> simp [EraseTimer.isRunning]

/-- A pause moves the timer alone. -/
theorem stands_pauseErase {s : State} (h : Stands .busyErase s.journal.prog s.journal.erase) :
    Stands .eraseSuspended (pauseErase s).journal.prog (pauseErase s).journal.erase := by
  obtain ⟨hp, c, he, hrun⟩ := h
  obtain ⟨x, hx⟩ := (isRunning_iff _).mp hrun
  rw [pauseErase_eq he hx]
  exact ⟨hp, _, rfl, rfl⟩

theorem stands_resumeErase {s : State} (h : Stands .eraseSuspended s.journal.prog s.journal.erase) :
    Stands .busyErase (resumeErase s).journal.prog (resumeErase s).journal.erase := by
  obtain ⟨hp, c, he, hrun⟩ := h
  obtain ⟨x, hx⟩ := (not_isRunning_iff _).mp hrun
  rw [resumeErase_eq he hx]
  exact ⟨hp, _, rfl, rfl⟩

/-! ## A status observation -/

theorem agrees_resumed {s : State} (h : MirrorAgrees s) (hm : s.mirror.state = .eraseSuspended) :
    MirrorAgrees ((resumeErase s).mirrorTo .busyErase) := by
  rw [mirrorAgrees_iff, hm] at h
  exact mirrorAgrees_iff.mpr (stands_resumeErase h)

/-- The table of R116 takes every mirror state to one that stands for the commits that the observation leaves. -/
theorem agrees_moveMirror {s : State} (h : MirrorAgrees s) (busy susp err : Bool) : MirrorAgrees (moveMirror s busy susp err) := by
  have hprog := sameCommits_resolveProgram s err
  have hstands := mirrorAgrees_iff.mp h
  unfold moveMirror
  split
  · next hm =>
    rw [hm] at hstands
    obtain ⟨hp, he⟩ := hstands
    split
    · exact mirrorAgrees_unknown rfl hp he
    · exact mirrorAgrees_idle rfl hp he
  · next hm =>
    rw [hm] at hstands
    obtain ⟨hp, he⟩ := hstands
    split
    · exact mirrorAgrees_unknown rfl hp he
    · exact mirrorAgrees_idle rfl hp he
  · next hm =>
    rw [hm] at hstands
    obtain ⟨_, he⟩ := hstands
    split
    · exact h
    · split
      · exact mirrorAgrees_unknown rfl hprog.prog (hprog.erase.trans he)
      · exact mirrorAgrees_idle rfl hprog.prog (hprog.erase.trans he)
  · next hm =>
    rw [hm] at hstands
    split
    · exact h
    · split
      · exact mirrorAgrees_iff.mpr (stands_pauseErase hstands)
      · have herase := sameCommits_resolveErase s err
        exact mirrorAgrees_idle rfl (herase.prog.trans hstands.1) herase.erase
  · next hm =>
    rw [hm] at hstands
    split
    · exact agrees_resumed h hm
    · split
      · exact h
      · have herase := sameCommits_failErase s .unresolved
        exact mirrorAgrees_idle rfl (herase.prog.trans hstands.1) herase.erase
  · next hm =>
    rw [hm] at hstands
    obtain ⟨_, c, he, hpaused⟩ := hstands
    split
    · exact h
    · split
      · exact mirrorAgrees_iff.mpr ⟨hprog.prog, c, hprog.erase.trans he, hpaused⟩
      · have hboth := sameCommits_endBoth (f := fun s => resolveProgram s err) hprog .unresolved
        exact mirrorAgrees_idle rfl hboth.prog hboth.erase

theorem agrees_setWel {s : State} (h : MirrorAgrees s) (w : Wel) : MirrorAgrees (s.setWel w) := h.congr rfl rfl rfl

theorem agrees_statusByte {s : State} (h : MirrorAgrees s) (x : Xfer) : MirrorAgrees (statusByte s x) := by
  unfold statusByte
  split
  · exact h
  · next t _ =>
    have hobserved : MirrorAgrees (observe s t.cfg x.miso) := agrees_moveMirror (agrees_setWel h _) _ _ _
    have hended := (carries_finish s (observe s t.cfg x.miso)).sameCommits.agrees hobserved
    generalize finish s (observe s t.cfg x.miso) = u at hended ⊢
    exact hended.congr rfl rfl rfl

/-! ## Writes -/

/-- An accepted write finds no other program pending, and an erase only beside its suspension (R122, R124). -/
theorem commits_of_accepted {s : State} {t : Txn} {c : CmdClass} (h : verdict s t c = .accepted) :
    s.journal.prog = none
      ∧ (s.journal.erase = none ∨ isProtected s t c = true ∧ c = .program ∧ s.mirror.state = .eraseSuspended) := by
  refine ⟨prog_of_accepted h, ?_⟩
  have hnone (hc : commitPending s = false) : s.journal.erase = none := by
    unfold commitPending at hc
    exact Option.not_isSome_iff_eq_none.mp fun he => by simp [he] at hc
  unfold verdict at h
  split at h
  · next hp =>
    unfold protectedVerdict at h
    split at h
    · cases h
    · split at h
      · cases h
      · split at h
        · cases h
        · next hc =>
          simp only [Bool.and_eq_true, Bool.not_eq_true', not_and, Bool.not_eq_false] at hc
          cases hpend : commitPending s with
          | false => exact .inl (hnone hpend)
          | true =>
            have hbeside := hc hpend
            unfold besideSuspended at hbeside
            simp only [Bool.and_eq_true, beq_iff_eq] at hbeside
            obtain ⟨⟨⟨hprogram, hsusp⟩, _⟩, _⟩ := hbeside
            exact .inr ⟨hp, hprogram, hsusp⟩
  · split at h
    · cases h
    · next hc => exact .inl (hnone (eq_false_of_ne_true hc))

/-- An accepted program becomes the pending program beside the commits that stand (R125, R141). -/
theorem commitProgram_commits (s : State) (t : Txn) :
    (commitProgram s t).mirror = s.mirror ∧ (commitProgram s t).journal.prog.isSome = true
      ∧ (commitProgram s t).journal.erase = s.journal.erase := by
  unfold commitProgram
  split
  · have h (n : Nat) (s : State) : SameCommits s (advanceHead s n) := SameCommits.trans {} (sameCommits_openHead _)
    unfold acceptAppend
    simp only
    exact ⟨(h _ _).mirror, rfl, (h _ _).erase⟩
  · simp only
    split <;> exact ⟨rfl, rfl, rfl⟩

/-- An accepted erase becomes the pending erase, with its timer running (R125, R148, R153). -/
theorem commitErase_commits (s : State) (t : Txn) (c : CmdClass) :
    (commitErase s t c).mirror = s.mirror ∧ (commitErase s t c).journal.prog = s.journal.prog
      ∧ ∃ e, (commitErase s t c).journal.erase = some e ∧ e.timer.isRunning = true := by
  unfold commitErase
  split
  · unfold acceptJournalErase
    simp only
    split <;> exact ⟨rfl, rfl, _, rfl, rfl⟩
  · simp only
    split <;> exact ⟨rfl, rfl, _, rfl, rfl⟩

/-- The mirror state of a write that the memory port releases cleanly (R118). -/
theorem releasedMirror_state (s : State) (p : Bool) (c : CmdClass) : (releasedMirror s p c).mirror.state =
    if p then
      if c = .program then (if s.mirror.state = .eraseSuspended then .busyProgramInSuspend else .busyProgram) else .busyErase
    else .unknown := by
  cases p <;> rfl

/-- A forwarded write moves the mirror to the state that stands for the commit it becomes (R118). -/
theorem agrees_forwardWrite {s : State} {t : Txn} {c : CmdClass} (h : MirrorAgrees s) (hv : verdict s t c = .accepted) (r : Release) :
    MirrorAgrees (forwardWrite s t c r) := by
  obtain ⟨hprog, herase⟩ := commits_of_accepted hv
  have hstate := releasedMirror_state (s.release r r.x.miso .asSent) (isProtected s t c) c
  unfold forwardWrite
  simp only
  split
  · next hp =>
    rw [if_pos hp] at hstate
    split
    · next hc =>
      obtain ⟨hm, hsome, he⟩ := commitProgram_commits (releasedMirror (s.release r r.x.miso .asSent) (isProtected s t c) c) t
      rw [if_pos hc, release_mirror] at hstate
      rw [mirrorAgrees_iff, hm, he, hstate]
      by_cases hsusp : s.mirror.state = .eraseSuspended
      · rw [mirrorAgrees_iff, hsusp] at h
        obtain ⟨_, hpaused⟩ := h
        rw [if_pos hsusp]
        exact ⟨hsome, hpaused⟩
      · rw [if_neg hsusp]
        exact ⟨hsome, herase.resolve_right fun hx => hsusp hx.2.2⟩
    · next hc =>
      obtain ⟨hm, hp', herun⟩ := commitErase_commits (releasedMirror (s.release r r.x.miso .asSent) (isProtected s t c) c) t c
      rw [if_neg hc] at hstate
      rw [mirrorAgrees_iff, hm, hp', hstate]
      exact ⟨hprog, herun⟩
  · next hp =>
    rw [if_neg hp] at hstate
    exact mirrorAgrees_unknown hstate hprog (herase.resolve_right fun hx => hp hx.1)

/-- A refusal leaves the mirror state and the commits (R126). -/
theorem agrees_refuse {s : State} (h : MirrorAgrees s) (t : Txn) (c : CmdClass) (r : Release) (code : RefusalCode) (str : Option Str) :
    MirrorAgrees (refuse s t c r code str) := by
  cases str <;> exact h.congr rfl rfl rfl

theorem agrees_endWrite {s : State} (h : MirrorAgrees s) (c : CmdClass) (t : Txn) (r : Release) : MirrorAgrees (endWrite c s t r) := by
  unfold endWrite
  split
  · split
    · exact agrees_refuse h ..
    · next hv => exact agrees_forwardWrite h hv r
  · exact h.congr rfl rfl rfl

theorem agrees_endProgram {s : State} (h : MirrorAgrees s) (t : Txn) (r : Release) : MirrorAgrees (endProgram s t r) := by
  unfold endProgram
  split
  · next hc =>
    simp only [Bool.and_eq_true, beq_iff_eq] at hc
    obtain ⟨_, hv⟩ := hc
    exact (carries_finish s _).sameCommits.agrees (agrees_forwardWrite h hv r)
  · exact agrees_endWrite h ..

/-! ## The other releases -/

theorem agrees_endPlain {effect : State → State} (heffect : ∀ s, MirrorAgrees s → MirrorAgrees (effect s)) {s : State}
    (h : MirrorAgrees s) (t : Txn) (r : Release) : MirrorAgrees (endPlain effect s t r) := by
  unfold endPlain
  split
  · exact heffect _ (h.congr rfl rfl rfl)
  · exact h.congr rfl rfl rfl

theorem agrees_wrenMirror (s : State) (h : MirrorAgrees s) : MirrorAgrees (wrenMirror s) := by
  unfold wrenMirror
  split
  · exact agrees_setWel h _
  · exact agrees_setWel h _
  · exact agrees_setWel h _
  all_goals exact h

theorem agrees_resumeMirror (s : State) (h : MirrorAgrees s) : MirrorAgrees (resumeMirror s) := by
  unfold resumeMirror
  split
  · next hm => exact agrees_resumed h hm
  all_goals exact h

theorem agrees_endBlock {s : State} (h : MirrorAgrees s) (t : Txn) (r : Release) : MirrorAgrees (endBlock s t r) := by
  unfold endBlock
  split
  · exact h.congr rfl rfl rfl
  · exact agrees_refuse h ..

/-! ## Reads -/

theorem sameCommits_coverRead (s : State) (r : ReadStream) : SameCommits s (coverRead s r) := by
  refine (SameCommits.foldl (coverPage r) (fun s p => ?_) _ s).trans (sameCommits_attemptAdoption _)
  unfold coverPage
  split
  · exact .refl s
  · exact {}

theorem sameCommits_freeSlots (s : State) (d : Doubt) (n : Nat) : SameCommits s (freeSlots s d n) := by
  unfold freeSlots
  exact .ite (.refl s) (.ite {} {})

theorem sameCommits_resolveDoubt (s : State) (d : Doubt) (seen : List Summary) : SameCommits s (resolveDoubt s d seen) := by
  unfold resolveDoubt
  simp only
  exact ((SameCommits.trans {} (sameCommits_freeSlots (s.setSlots _ _) d _)).trans (sameCommits_applyRecords _ _)).trans {}

theorem sameCommits_compareRead (s : State) (r : ReadStream) : SameCommits s (compareRead s r) := by
  have hmarked := SameCommits.trans
    (SameCommits.foldl markDamage (fun _ _ => {}) ((upTo (ringSlots s)).filter fun k => slotDamaged (slotAt s k) (readSlot s r k)) s)
    (SameCommits.foldl sectorErased sameCommits_sectorErased ((upTo (ringSectors s)).filter (readErased s r)) _)
  unfold compareRead
  simp only
  generalize Option.bind _ _ = doubt
  refine .ite {} ?_
  cases doubt with
  | none => exact hmarked
  | some shown => exact hmarked.trans (sameCommits_resolveDoubt _ _ _)

theorem sameCommits_journalRead (s : State) (t : Txn) : SameCommits s (journalRead s t) := by
  unfold journalRead
  repeat' split
  · exact .refl s
  · exact sameCommits_coverRead ..
  · exact sameCommits_coverRead ..
  · exact sameCommits_compareRead ..
  · exact sameCommits_compareRead ..

/-- `t` differs from `s` at most in what the capture unit and an adoption of a configuration write (R2, R170 to R175). -/
def Adopts (s t : State) : Prop :=
  ∃ (cfg : Config) (c : Capture) (tb : Vector Entry 24) (e : Vector Evidence 24) (m : Vector Meas 24) (x : Inputs) (q : Vector Seq 24)
    (i : Iso) (a : Arb),
    t = { s with cfg := cfg, capture := c, table := tb, evid := e, meas := m, inputs := x, seqs := q, iso := i, arb := a }

theorem Adopts.refl (s : State) : Adopts s s := ⟨_, _, _, _, _, _, _, _, _, rfl⟩

theorem Adopts.trans {a b c : State} (h : Adopts a b) (k : Adopts b c) : Adopts a c := by
  obtain ⟨_, _, _, _, _, _, _, _, _, rfl⟩ := h
  obtain ⟨_, _, _, _, _, _, _, _, _, rfl⟩ := k
  exact ⟨_, _, _, _, _, _, _, _, _, rfl⟩

theorem Adopts.sameCommits {s t : State} (h : Adopts s t) : SameCommits s t := by
  obtain ⟨_, _, _, _, _, _, _, _, _, rfl⟩ := h
  exact {}

theorem Adopts.ports {s t : State} (h : Adopts s t) : t.ports = s.ports := by
  obtain ⟨_, _, _, _, _, _, _, _, _, rfl⟩ := h
  rfl

theorem adopts_capture (s : State) (c : Capture) : Adopts s { s with capture := c } := ⟨_, _, _, _, _, _, _, _, _, rfl⟩

theorem adopts_captureSegments (r : ReadStream) (js : List (Fin 8)) (s : State) : Adopts s (js.foldl (captureSegment r) s) := by
  induction js generalizing s with
  | nil => exact .refl s
  | cons j js ih =>
    obtain ⟨c, hc, _⟩ := captureSegment_adopted r s j
    rw [List.foldl_cons, hc]
    exact (adopts_capture s c).trans (ih _)

theorem adopts_leavePresence (s : State) (n : Nat) : Adopts s (leavePresence s n) := by
  have hdrop : Adopts s (dropLeaving s n) := by
    unfold dropLeaving
    exact ⟨_, _, _, _, _, _, _, _, _, rfl⟩
  have hdisturb (t : State) : Adopts t t.disturb := ⟨_, _, _, _, _, _, _, _, _, rfl⟩
  unfold leavePresence
  split
  · exact hdrop.trans (hdisturb _)
  · exact hdrop

theorem adopts_firstAdoption (s : State) (c : Config) : Adopts s (firstAdoption s c) := by
  refine (adopts_leavePresence s c.stringCount).trans ?_
  obtain ⟨_, hk⟩ := Claims.adoptK_frame (leavePresence s c.stringCount) c.grants
  unfold firstAdoption
  rw [hk]
  exact ⟨_, _, _, _, _, _, _, _, _, rfl⟩

theorem adopts_laterAdoption (s : State) (c : Config) : Adopts s (laterAdoption s c) := by
  obtain ⟨_, hk⟩ := Claims.adoptK_frame s c.grants
  unfold laterAdoption
  rw [hk]
  exact ⟨_, _, _, _, _, _, _, _, _, rfl⟩

theorem adopts_judgeBlock (s : State) : Adopts s (judgeBlock s) := by
  have hclear : Adopts s (clearSegments s) := adopts_capture s _
  unfold judgeBlock
  simp only
  repeat' split
  · exact hclear.trans (adopts_laterAdoption _ _)
  · exact hclear.trans (adopts_firstAdoption _ _)
  · exact hclear.trans (adopts_capture _ _)

theorem adopts_configRead (s : State) (t : Txn) : Adopts s (configRead s t) := by
  have hsegments := adopts_captureSegments t.readStream (List.finRange 8) s
  unfold configRead
  simp only
  split
  · exact hsegments.trans (adopts_judgeBlock _)
  · exact hsegments

theorem sameCommits_readEffects (s : State) (t : Txn) : SameCommits s (readEffects s t) :=
  (sameCommits_journalRead s t).trans (adopts_configRead _ t).sameCommits

/-! ## The rows of the bus -/

theorem sameCommits_unforwarded (s : State) (xs : List Xfer) (rel : Option Release) : SameCommits s (unforwarded s xs rel) := by
  cases rel <;> exact {}

theorem sameCommits_latchNext (s : State) (t : Txn) : SameCommits s (latchNext s t) := by
  obtain ⟨w, hw, _⟩ := latchNext_spec s t
  rw [hw]
  exact {}

theorem sameCommits_passByte (s : State) (x : Xfer) : SameCommits s (passByte s x) := by
  unfold passByte
  split
  · exact .refl s
  · exact {}

theorem sameCommits_passRead (s : State) (t : Txn) (x : Xfer) (b : Byte) : SameCommits s (passRead s t x b) :=
  SameCommits.trans (b := (s.setTxn t).exchange x b) {} (sameCommits_latchNext _ _)

theorem sameCommits_readByte (s : State) (x : Xfer) : SameCommits s (readByte s x) := by
  unfold readByte dataByte
  split
  · exact .refl s
  · exact .ite {} (.ite (sameCommits_passRead ..) (.ite {} (.ite (sameCommits_passRead ..) (sameCommits_passRead ..))))

theorem sameCommits_programByte (s : State) (x : Xfer) : SameCommits s (programByte s x) := by
  unfold programByte
  split
  · exact .refl s
  · exact {}

theorem sameCommits_eraseByte (s : State) (x : Xfer) : SameCommits s (eraseByte s x) := by
  unfold eraseByte
  split
  · exact .refl s
  · exact {}

/-- A row whose bytes and release keep the mirror and the commits in agreement keeps them so. -/
theorem agrees_row {mine : Option CmdClass → Bool} {byte : State → Xfer → State} {finally_ : State → Txn → Release → State}
    (bytes : ∀ s x, MirrorAgrees s → MirrorAgrees (byte s x))
    (ends : ∀ (s : State) (t : Txn) (r : Release), MirrorAgrees s → MirrorAgrees (finally_ s t r)) {s : State} (h : MirrorAgrees s)
    (dt : Nat) (xs : List Xfer) (rel : Option Release) :
    Answer MirrorAgrees (.next (busCommand (s.advance dt) mine xs rel byte finally_)) :=
  answer_next (busCommand_inv (fun s xs rel _ h => (sameCommits_unforwarded s xs rel).agrees h) bytes (fun s t r _ h => ends s t r h) xs rel
    (h.congr rfl rfl rfl))

theorem agrees_readRow {mine : Option CmdClass → Bool} {s : State} (h : MirrorAgrees s) (dt : Nat) (xs : List Xfer)
    (rel : Option Release) : Answer MirrorAgrees (.next (busCommand (s.advance dt) mine xs rel readByte endRead)) := by
  refine agrees_row (fun s x h => (sameCommits_readByte s x).agrees h) (fun s t r h => ?_) h dt xs rel
  have hreleased : SameCommits s (s.release r (readTail s t r) .asSent) := {}
  exact ((hreleased.trans (sameCommits_readEffects _ t)).trans (carries_finish s _).sameCommits).agrees h

/-! ## Measurement and switches -/

theorem sameCommits_failSwitch (s : State) (i : Str) : SameCommits s (failSwitch s i) := by
  unfold failSwitch
  simp only
  split <;> exact {}

theorem sameCommits_feedbackSeen (s : State) (i : Str) (a : Act) : SameCommits s (feedbackSeen s i a) := by
  unfold feedbackSeen
  exact .ite {} (.ite {} (.refl s))

theorem sameCommits_completeScan (s : State) (job : ScanJob) (xs : Vector Sample 24) (bus : Int) :
    SameCommits s (completeScan s job xs bus) := by
  obtain ⟨t, ht, hscan⟩ := Claims.completeScan_eq s job xs bus
  obtain ⟨_, _, hw⟩ : ∃ m x, writeRecords s job xs bus = { s with meas := m, scan := x } := ⟨_, _, rfl⟩
  rw [hw] at ht
  rw [hscan]
  obtain ⟨_, _, _, rfl⟩ := ht
  exact {}

theorem sameCommits_searchOnCompletion (s : State) : SameCommits s (searchOnCompletion s) := by
  obtain ⟨_, hc⟩ := latches_searchOnCompletion s
  exact SameCommits.trans {} hc.sameCommits

/-! ## The commit timers -/

/-- The expiry of a program timer ends what is pending: a program stands alone or beside a suspended erase (R119). -/
theorem agrees_programTimeout {s : State} {c : ProgCommit} (h : MirrorAgrees s) (hp : s.journal.prog = some c) :
    MirrorAgrees (programTimeout s) := by
  have hexpired := sameCommits_expireProgram s
  unfold programTimeout
  split
  · have hboth := sameCommits_endBoth hexpired .commitTimeout
    exact mirrorAgrees_unknown rfl hboth.prog hboth.erase
  · next hm =>
    rw [mirrorAgrees_iff, hp] at h
    refine mirrorAgrees_unknown rfl hexpired.prog (hexpired.erase.trans ?_)
    cases hstate : s.mirror.state with
    | busyProgram => rw [hstate] at h; exact h.2
    | busyProgramInSuspend => exact absurd hstate hm
    | unknown => rw [hstate] at h; cases h.1
    | idle => rw [hstate] at h; cases h.1
    | busyErase => rw [hstate] at h; cases h.1
    | eraseSuspended => rw [hstate] at h; cases h.1

/-- A running erase timer stands alone (R119): its expiry leaves no commit. -/
theorem agrees_eraseTimeout {s : State} {c : EraseCommit} (h : MirrorAgrees s) (he : s.journal.erase = some c)
    (hx : eraseExpired c s.now = true) : MirrorAgrees ((failErase s .commitTimeout).mirrorTo .unknown) := by
  have herase := sameCommits_failErase s .commitTimeout
  have hrun : c.timer.isRunning = true := by
    unfold eraseExpired at hx
    cases ht : c.timer with
    | running _ => rfl
    | paused _ => rw [ht] at hx; cases hx
  rw [mirrorAgrees_iff, he] at h
  refine mirrorAgrees_unknown rfl (herase.prog.trans ?_) herase.erase
  have hpaused (k : ∃ e, some c = some e ∧ e.timer.isRunning = false) : False := by
    obtain ⟨_, ⟨⟩, hf⟩ := k
    exact absurd (hrun.symm.trans hf) (by simp)
  cases hstate : s.mirror.state with
  | busyErase => rw [hstate] at h; exact h.1
  | unknown => rw [hstate] at h; cases h.2
  | idle => rw [hstate] at h; cases h.2
  | busyProgram => rw [hstate] at h; cases h.2
  | eraseSuspended => rw [hstate] at h; exact absurd h.2 hpaused
  | busyProgramInSuspend => rw [hstate] at h; exact absurd h.2 hpaused

/-! ## Every command -/

section commands
variable {s : State} (h : MirrorAgrees s)
include h

theorem agrees_advance (dt : Nat) : MirrorAgrees (s.advance dt) := h.congr rfl rfl rfl

/-- A command whose event moves no commit where its condition holds, and that else only lets its time pass. -/
theorem agrees_due {s₀ s₁ : State} (p : Prop) [Decidable p] (hs : SameCommits s s₁) : MirrorAgrees (if p then finish s₀ s₁ else s) := by
  split
  · exact (hs.trans (carries_finish s₀ s₁).sameCommits).agrees h
  · exact h

/-- The same for a command that ends no event. -/
theorem agrees_ite {t : State} (p : Prop) [Decidable p] (hs : SameCommits s t) : MirrorAgrees (if p then t else s) := by
  split
  · exact hs.agrees h
  · exact h

variable (dt : Nat)

theorem agrees_chipSelectAssert (code : Option Xfer) : Answer MirrorAgrees (execChipSelectAssert dt code s) := by
  refine answer_next ?_
  split <;> exact h.congr rfl rfl rfl

theorem agrees_resetDriveEnd (i : Str) : Answer MirrorAgrees (execResetDriveEnd dt i s) := by
  unfold execResetDriveEnd
  simp only
  split
  · exact answer_next (agrees_advance h dt)
  · refine answer_next ?_
    split
    · exact h.congr rfl rfl rfl
    · exact agrees_ite (agrees_advance h dt) _ {}

theorem agrees_levelChange (p : Prop) [Decidable p] (x : Inputs) :
    Answer MirrorAgrees (.next (if p then s.advance dt else { s.advance dt with inputs := x })) := by
  refine answer_next ?_
  split <;> exact h.congr rfl rfl rfl

theorem agrees_scanCompletion (xs : Vector Sample 24) (bus : Int) : Answer MirrorAgrees (execScanCompletion dt xs bus s) := by
  unfold execScanCompletion
  simp only
  split
  · exact answer_next (agrees_advance h dt)
  · exact answer_next (agrees_due (agrees_advance h dt) _ (sameCommits_completeScan ..))

theorem agrees_insulationCompletion (kohm : Nat) (inBand : Bool) : Answer MirrorAgrees (execInsulationCompletion dt kohm inBand s) := by
  unfold execInsulationCompletion
  simp only
  split
  · exact answer_next (agrees_advance h dt)
  · exact answer_next (agrees_due (agrees_advance h dt) _ (SameCommits.trans {} (sameCommits_searchOnCompletion _)))

theorem agrees_shutdownRelease : Answer MirrorAgrees (execShutdownRelease dt s) := by
  obtain ⟨_, hl⟩ := Claims.latchSnapshot_eq (s.advance dt)
  have hlatched : SameCommits (s.advance dt) (latchSnapshot (s.advance dt)) := by
    rw [hl]
    exact {}
  exact answer_next (agrees_due (agrees_advance h dt) _ (hlatched.trans {}))

theorem agrees_closeSettleEnd (i : Str) : Answer MirrorAgrees (execCloseSettleEnd dt i s) := by
  unfold execCloseSettleEnd
  simp only
  split
  · exact answer_next (agrees_advance h dt)
  · exact answer_next (agrees_ite (agrees_advance h dt) _ {})

theorem agrees_openSettleEnd (i : Str) : Answer MirrorAgrees (execOpenSettleEnd dt i s) := by
  unfold execOpenSettleEnd
  simp only
  split
  · exact answer_next (agrees_advance h dt)
  · exact answer_next (agrees_ite (agrees_advance h dt) _ {})

theorem agrees_retryWaitEnd (i : Str) : Answer MirrorAgrees (execRetryWaitEnd dt i s) := by
  unfold execRetryWaitEnd
  simp only
  split
  · exact answer_next (agrees_advance h dt)
  · exact answer_next (agrees_ite (agrees_advance h dt) _ {})

theorem agrees_coilPulseEnd (i : Str) : Answer MirrorAgrees (execCoilPulseEnd dt i s) := by
  unfold execCoilPulseEnd
  simp only
  split
  · exact answer_next (agrees_advance h dt)
  · refine answer_next (agrees_due (agrees_advance h dt) _ ?_)
    rw [endPulse_eq]
    exact {}

theorem agrees_feedbackLineChange (i : Str) (closed : Bool) : Answer MirrorAgrees (execFeedbackLineChange dt i closed s) := by
  unfold execFeedbackLineChange
  simp only
  split
  · exact answer_next (agrees_advance h dt)
  · have hline : MirrorAgrees { s.advance dt with lines := s.lines.set i closed } := h.congr rfl rfl rfl
    split
    · exact answer_next hline
    · next a _ =>
      have hseen := sameCommits_feedbackSeen { s.advance dt with lines := s.lines.set i closed } i a
      refine answer_next ?_
      split
      · split
        · exact hseen.agrees hline
        · exact (hseen.trans (carries_finish _ _).sameCommits).agrees hline
      · exact hline

theorem agrees_closeTravelExpiry (i : Str) : Answer MirrorAgrees (execCloseTravelExpiry dt i s) := by
  unfold execCloseTravelExpiry
  simp only
  split
  · exact answer_next (agrees_advance h dt)
  · exact answer_next (agrees_due (agrees_advance h dt) _ (.ite {} {}))

theorem agrees_openTravelExpiry (i : Str) : Answer MirrorAgrees (execOpenTravelExpiry dt i s) := by
  unfold execOpenTravelExpiry
  simp only
  split
  · exact answer_next (agrees_advance h dt)
  · exact answer_next (agrees_due (agrees_advance h dt) _ (.ite {} (.ite (sameCommits_failSwitch ..) {})))

theorem agrees_grantReturn (i : Str) : Answer MirrorAgrees (execGrantReturn dt i s) := by
  unfold execGrantReturn
  simp only
  split
  · exact answer_next (agrees_due (agrees_advance h dt) _ {})
  · exact answer_next (agrees_advance h dt)
  · exact answer_next (agrees_advance h dt)

theorem agrees_programCommitTimeout : Answer MirrorAgrees (execProgramCommitTimeout dt s) := by
  unfold execProgramCommitTimeout
  simp only
  split
  · exact answer_next (agrees_advance h dt)
  · next hp =>
    refine answer_next ?_
    split
    · exact (carries_finish _ _).sameCommits.agrees (agrees_programTimeout (agrees_advance h dt) hp)
    · exact agrees_advance h dt

theorem agrees_eraseCommitTimeout : Answer MirrorAgrees (execEraseCommitTimeout dt s) := by
  unfold execEraseCommitTimeout
  simp only
  split
  · exact answer_next (agrees_advance h dt)
  · next he =>
    refine answer_next ?_
    split
    · next hx => exact agrees_eraseTimeout (agrees_advance h dt) he hx
    · exact agrees_advance h dt

end commands

/-- A reset of either kind drops the mirror and the commits (R167). -/
theorem agrees_dropState (s : State) (cut : Release) : MirrorAgrees (dropState s cut) := mirrorAgrees_unknown rfl rfl rfl

/-- What a command answers keeps the mirror standing for the commits. -/
theorem agrees_exec {s : State} (h : MirrorAgrees s) (c : Instr) : Answer MirrorAgrees (exec c s) := by
  have pass (s : State) (x : Xfer) (h : MirrorAgrees s) : MirrorAgrees (passByte s x) := (sameCommits_passByte s x).agrees h
  have erase (s : State) (x : Xfer) (h : MirrorAgrees s) : MirrorAgrees (eraseByte s x) := (sameCommits_eraseByte s x).agrees h
  have released (s : State) (t : Txn) (r : Release) (b : Byte) (h : MirrorAgrees s) : MirrorAgrees (s.release r b .asSent) :=
    h.congr rfl rfl rfl
  cases c with
  | chipSelectAssert dt code => exact agrees_chipSelectAssert h dt code
  | read dt xs rel => exact agrees_readRow h dt xs rel
  | readFast dt xs rel => exact agrees_readRow h dt xs rel
  | status dt xs rel => exact agrees_row (fun _ x h => agrees_statusByte h x) (fun s t r h => released s t r _ h) h dt xs rel
  | wren dt xs rel => exact agrees_row pass (fun _ t r h => agrees_endPlain agrees_wrenMirror h t r) h dt xs rel
  | wrdi dt xs rel => exact agrees_row pass (fun _ t r h => agrees_endPlain (fun _ h => agrees_setWel h _) h t r) h dt xs rel
  | suspend dt xs rel => exact agrees_row pass (fun _ t r h => agrees_endPlain (fun _ h => h) h t r) h dt xs rel
  | resume dt xs rel => exact agrees_row pass (fun _ t r h => agrees_endPlain agrees_resumeMirror h t r) h dt xs rel
  | program dt xs rel =>
    exact agrees_row (fun s x h => (sameCommits_programByte s x).agrees h) (fun _ t r h => agrees_endProgram h t r) h dt xs rel
  | erase4k dt xs rel => exact agrees_row erase (fun _ t r h => agrees_endWrite h _ t r) h dt xs rel
  | erase64k dt xs rel => exact agrees_row erase (fun _ t r h => agrees_endWrite h _ t r) h dt xs rel
  | eraseAll dt xs rel => exact agrees_row pass (fun _ t r h => agrees_endWrite h _ t r) h dt xs rel
  | pass dt xs rel => exact agrees_row pass (fun s t r h => released s t r _ h) h dt xs rel
  | block dt xs rel => exact agrees_row pass (fun _ t r h => agrees_endBlock h t r) h dt xs rel
  | powerOn edge => exact answer_next (agrees_dropState ..)
  | resetInput edge => exact answer_next ((agrees_dropState (s.advance edge.dt) edge.cut).congr rfl rfl rfl)
  | resetDriveEnd dt i => exact agrees_resetDriveEnd h dt i
  | resetRelease dt sel1 sel0 => exact answer_next (agrees_ite (agrees_advance h dt) _ {})
  | scanStart dt => exact answer_next (agrees_ite (agrees_advance h dt) _ {})
  | scanCompletion dt xs bus => exact agrees_scanCompletion h dt xs bus
  | insulationCompletion dt kohm inBand => exact agrees_insulationCompletion h dt kohm inBand
  | searchSettleExpiry dt => exact answer_next (agrees_ite (agrees_advance h dt) _ {})
  | searchTimeout dt => exact answer_next (agrees_due (agrees_advance h dt) _ (carries_endSearch ..).sameCommits)
  | rearmTimerExpiry dt => exact answer_next (agrees_ite (agrees_advance h dt) _ {})
  | shdnLevelChange dt level => exact agrees_levelChange h dt _ _
  | shutdownActivation dt => exact answer_next (agrees_due (agrees_advance h dt) _ {})
  | shutdownRelease dt => exact agrees_shutdownRelease h dt
  | maintLevelChange dt level => exact agrees_levelChange h dt _ _
  | maintActivation dt => exact answer_next (agrees_ite (agrees_advance h dt) _ {})
  | maintRelease dt => exact answer_next (agrees_ite (agrees_advance h dt) _ {})
  | closeSettleEnd dt i => exact agrees_closeSettleEnd h dt i
  | openSettleEnd dt i => exact agrees_openSettleEnd h dt i
  | retryWaitEnd dt i => exact agrees_retryWaitEnd h dt i
  | coilPulseEnd dt i => exact agrees_coilPulseEnd h dt i
  | feedbackLineChange dt i closed => exact agrees_feedbackLineChange h dt i closed
  | closeTravelExpiry dt i => exact agrees_closeTravelExpiry h dt i
  | openTravelExpiry dt i => exact agrees_openTravelExpiry h dt i
  | grantReturn dt i => exact agrees_grantReturn h dt i
  | programCommitTimeout dt => exact agrees_programCommitTimeout h dt
  | eraseCommitTimeout dt => exact agrees_eraseCommitTimeout h dt

end Sys2Proof.Machine

namespace Sys2Proof.Claims

open Sys2Proof Sys2Proof.Machine

/-- Settles O9: a step runs one command on the rest of the queue, and every command moves the mirror only with the commits it stands for. -/
theorem mirrorStandsForCommits : Obligations.MirrorStandsForCommits := by
  intro s u h e
  unfold Machine.step at e
  split at e
  · cases e
    exact h
  · next c rest _ => exact agrees_exec (s := { s with pending := rest }) (h.congr rfl rfl rfl) c u e

end Sys2Proof.Claims

/-! The rows of the bus: what each class does with a byte and with its release, and how a row is cut (O12). -/

namespace Sys2Proof.Claims

open Sys2Proof Sys2Proof.Machine

/-! ## The bytes and the release of a class -/

/-- What the row of a class does with a byte. -/
def rowByte : CmdClass → State → Xfer → State
  | .read => readByte
  | .readFast => readByte
  | .status => statusByte
  | .program => programByte
  | .erase4k => eraseByte
  | .erase64k => eraseByte
  | .none => passByte
  | .wren => passByte
  | .wrdi => passByte
  | .eraseAll => passByte
  | .suspend => passByte
  | .resume => passByte
  | .pass => passByte
  | .block => passByte

/-- What the row of a class does with the release. -/
def rowEnd : CmdClass → State → Txn → Release → State
  | .read => endRead
  | .readFast => endRead
  | .status => endStatus
  | .wren => endPlain wrenMirror
  | .wrdi => endPlain (·.setWel .clear)
  | .program => endProgram
  | .erase4k => endWrite .erase4k
  | .erase64k => endWrite .erase64k
  | .eraseAll => endWrite .eraseAll
  | .suspend => endPlain id
  | .resume => endPlain resumeMirror
  | .pass => endPass
  | .block => endBlock
  | .none => endBlock

/-- The transactions that the row of a class goes on with. -/
def rowTakes : CmdClass → Option CmdClass → Bool
  | .none => fun x => x == some .block || x == none
  | .block => fun x => x == some .block || x == none
  | c => (· == some c)

theorem exec_row (c : CmdClass) (dt : Nat) (xs : List Xfer) (rel : Option Release) (s : State) :
    exec (row c dt xs rel) s = .next (busCommand (s.advance dt) (rowTakes c) xs rel (rowByte c) (rowEnd c)) := by
  cases c <;> rfl

theorem rowTakes_self {c : CmdClass} (h : c ≠ .none) : rowTakes c (some c) = true := by
  cases c with
  | none => exact absurd rfl h
  | _ => rfl

/-- A row of its own class out of reset, with no byte before it: one byte, or the release. -/
theorem exec_row_own {c : CmdClass} {s : State} {t : Txn} (hc : c ≠ .none) (ht : s.txn = some t) (hcls : t.cls = some c) (dt : Nat) :
    (∀ x, exec (row c dt [x] none) s = .next (rowByte c (s.advance dt) x))
      ∧ ∀ r, exec (row c dt [] (some r)) s = .next (rowEnd c (s.advance dt) t r) := by
  have ht' : (s.advance dt).txn = some t := ht
  have hm : rowTakes c t.cls = true := by rw [hcls, rowTakes_self hc]
  refine ⟨fun x => ?_, fun r => ?_⟩
  · rw [exec_row, busCommand_mine ht' hm]
    rfl
  · rw [exec_row, busCommand_mine ht' hm, List.foldl_nil, ht']

theorem exec_row_byte {c : CmdClass} {s : State} {t : Txn} (hc : c ≠ .none) (ht : s.txn = some t) (hcls : t.cls = some c) (dt : Nat)
    (x : Xfer) : exec (row c dt [x] none) s = .next (rowByte c (s.advance dt) x) := (exec_row_own hc ht hcls dt).1 x

theorem exec_row_end {c : CmdClass} {s : State} {t : Txn} (hc : c ≠ .none) (ht : s.txn = some t) (hcls : t.cls = some c) (dt : Nat)
    (r : Release) : exec (row c dt [] (some r)) s = .next (rowEnd c (s.advance dt) t r) := (exec_row_own hc ht hcls dt).2 r

/-! ## The record through a row -/

theorem latchNext_txn (s : State) (t : Txn) : (latchNext s t).txn = s.txn := by
  obtain ⟨w, hw, _⟩ := latchNext_spec s t
  rw [hw]

/-- A byte of a row goes on with the transaction, and leaves it its class. -/
theorem rowByte_txn {s : State} {t : Txn} (ht : s.txn = some t) (c : CmdClass) (x : Xfer) :
    ∃ t', (rowByte c s x).txn = some t' ∧ t'.cls = t.cls := by
  have hpass : ∃ t', (passByte s x).txn = some t' ∧ t'.cls = t.cls := by
    rw [passByte, ht]
    exact ⟨_, rfl, rfl⟩
  have herase : ∃ t', (eraseByte s x).txn = some t' ∧ t'.cls = t.cls := by
    rw [eraseByte, ht]
    refine ⟨_, rfl, ?_⟩
    split <;> rfl
  have hprogram : ∃ t', (programByte s x).txn = some t' ∧ t'.cls = t.cls := by
    rw [programByte, ht]
    refine ⟨_, rfl, ?_⟩
    split <;> rfl
  have hstatus : ∃ t', (statusByte s x).txn = some t' ∧ t'.cls = t.cls := by
    rw [statusByte, ht]
    exact ⟨_, rfl, rfl⟩
  have hread : ∃ t', (readByte s x).txn = some t' ∧ t'.cls = t.cls := by
    have hlatch (t' : Txn) (b : Byte) : (passRead s t' x b).txn = some t' := latchNext_txn _ _
    have hdata : ∃ t', (dataByte s t x).txn = some t' ∧ t'.cls = t.cls := by
      unfold dataByte
      split <;> exact ⟨_, hlatch .., rfl⟩
    rw [readByte, ht]
    simp only
    repeat' split
    · exact ⟨_, rfl, rfl⟩
    · exact ⟨_, hlatch .., rfl⟩
    · exact ⟨_, rfl, rfl⟩
    · exact hdata
  cases c with
  | read => exact hread
  | readFast => exact hread
  | status => exact hstatus
  | program => exact hprogram
  | erase4k => exact herase
  | erase64k => exact herase
  | none => exact hpass
  | wren => exact hpass
  | wrdi => exact hpass
  | eraseAll => exact hpass
  | suspend => exact hpass
  | resume => exact hpass
  | pass => exact hpass
  | block => exact hpass

theorem rowBytes_txn {s : State} {t : Txn} (ht : s.txn = some t) (c : CmdClass) (xs : List Xfer) :
    ∃ t', (xs.foldl (rowByte c) s).txn = some t' ∧ t'.cls = t.cls := by
  induction xs generalizing s t with
  | nil => exact ⟨t, ht, rfl⟩
  | cons x xs ih =>
    obtain ⟨t₁, ht₁, hc₁⟩ := rowByte_txn ht c x
    obtain ⟨t₂, ht₂, hc₂⟩ := ih ht₁
    exact ⟨t₂, ht₂, hc₂.trans hc₁⟩

/-- Settles O12: the bytes of a row are folded one after the other, and each leaves the transaction to the rest of its row. -/
theorem busRowSplits : Obligations.BusRowSplits := by
  intro c dt xs ys rel s t hc ht hcls
  have ht₀ : (s.advance dt).txn = some t := ht
  have hm : rowTakes c t.cls = true := by rw [hcls, rowTakes_self hc]
  obtain ⟨t₁, ht₁, hcls₁⟩ := rowBytes_txn ht₀ c xs
  have hm₁ : rowTakes c t₁.cls = true := by rw [hcls₁, hm]
  refine ⟨xs.foldl (rowByte c) (s.advance dt), ?_, ?_⟩
  · rw [exec_row, busCommand_mine ht₀ hm]
  · have hzero : (xs.foldl (rowByte c) (s.advance dt)).advance 0 = xs.foldl (rowByte c) (s.advance dt) := rfl
    rw [exec_row, exec_row, hzero, busCommand_mine ht₀ hm, busCommand_mine ht₁ hm₁, List.foldl_append]

end Sys2Proof.Claims

/-! Chip select (O13), and the bus in reset (O14). -/

namespace Sys2Proof.Claims

open Sys2Proof Sys2Proof.Machine

/-! ## The command table -/

/-- The entry of a code in the built-in table (R107). -/
theorem lookup_builtin {cfg : Config} (h : cfg.commands = builtinCommands) (k : Byte) :
    (lookup cfg k).cls = (if k = 0x41 then .read else if k = 0x42 then .readFast else if k = 0x57 then .status
        else if k = 0x51 then .wren else if k = 0x50 then .wrdi else if k = 0x62 then .program
        else if k = 0x71 then .erase4k else if k = 0x74 then .erase64k else if k = 0x7F then .eraseAll
        else if k = 0x6A then .suspend else if k = 0x6B then .resume else if k = 0x5F then .pass else .block)
      ∧ (if (lookup cfg k).cls = .readFast then (lookup cfg k).dummy else 0) = if k = 0x42 then 1 else 0 := by
  have hb : lookup cfg k = lookup Config.builtin k := by
    unfold lookup
    rw [h]
    rfl
  rw [hb]
  clear hb
  revert k
  decide +kernel

/-- The only used entry of a code is the one found (R107). -/
theorem lookup_entry {cfg : Config} {k : Byte} {e : CmdEntry} (he : e ∈ cfg.commands) (hu : e.cls ≠ .none) (hk : e.code = k)
    (honly : ∀ e' ∈ cfg.commands, e'.cls ≠ .none → e'.code = k → e' = e) : lookup cfg k = e := by
  unfold lookup
  cases hf : cfg.commands.find? fun e => e.cls != .none && e.code == k with
  | none =>
    have := List.find?_eq_none.mp hf e he
    simp [hu, hk] at this
  | some e' =>
    have hp := List.find?_some hf
    simp only [Bool.and_eq_true, bne_iff_ne, beq_iff_eq] at hp
    obtain ⟨hu', hk'⟩ := hp
    exact honly e' (List.mem_of_find?_eq_some hf) hu' hk'

/-- A code of no used entry is handled as BLOCK (R107, R109). -/
theorem lookup_unused {cfg : Config} {k : Byte} (h : ∀ e ∈ cfg.commands, e.cls = .none ∨ e.code ≠ k) : (lookup cfg k).cls = .block := by
  have hf : (cfg.commands.find? fun e => e.cls != .none && e.code == k) = none := by
    refine List.find?_eq_none.mpr fun e he => ?_
    rcases h e he with h | h <;> simp [h]
  unfold lookup
  rw [hf]
  rfl

/-- The capture condition of R113. -/
theorem captureCond_holds (s : State) (a : Nat) : (captureCond s).holds a = true ↔
    s.mirror.state = .idle
      ∨ s.mirror.state = .eraseSuspended ∧ ∀ e, s.journal.erase = some e → a < e.base ∨ e.base + e.size ≤ a := by
  unfold captureCond
  cases s.mirror.state with
  | eraseSuspended =>
    cases s.journal.erase with
    | none => simp [CaptureCond.holds]
    | some e =>
      simp only [CaptureCond.holds, Bool.not_eq_true', Bool.and_eq_false_iff, decide_eq_false_iff_not, reduceCtorEq, false_or, true_and,
        Option.some.injEq, forall_eq']
      omega
  | unknown => simp [CaptureCond.holds]
  | idle => simp [CaptureCond.holds]
  | busyProgram => simp [CaptureCond.holds]
  | busyErase => simp [CaptureCond.holds]
  | busyProgramInSuspend => simp [CaptureCond.holds]

/-! ## Chip select -/

theorem exec_chipSelectAssert {s : State} (h : s.inReset = false) (dt : Nat) (cmd : Option Xfer) :
    exec (.chipSelectAssert dt cmd) s = .next
      { later s dt with
        window := (clearMarks s).window
        ports := ⟨true, (cmd.map (·.miso)).toList, none, true, (cmd.map (·.mosi)).toList, .none⟩
        txn := some (newTxn s (cmd.map (·.mosi))) } := by
  change execChipSelectAssert dt cmd s = _
  unfold execChipSelectAssert
  exact congrArg Host.Outcome.next (if_neg (by simpa [clearMarks] using h))

theorem clearMarks_window (s : State) (l : Fin 25) : (clearMarks s).window[l] = ⟨false, s.window[l].bytes⟩ := by
  simp [clearMarks]

/-- Settles O13: the new record takes its class from the entry that the table finds, and its capture condition from the mirror. -/
theorem chipSelectBeginsARecord : Obligations.ChipSelectBeginsARecord := by
  intro dt cmd s hr
  refine ⟨_, newTxn s (cmd.map (·.mosi)), exec_chipSelectAssert hr dt cmd, clearMarks_window s, rfl, rfl, rfl, rfl, rfl, rfl, ?_,
    fun hb k hk => ?_, fun k e he hk hu hc honly => ?_, fun k hk hn => ?_, captureCond_holds s⟩
  · rintro rfl
    rfl
  all_goals
    have hcode : cmd.map (·.mosi) = some k := hk
    rw [hcode]
  · obtain ⟨hcls, hdummy⟩ := lookup_builtin hb k
    exact ⟨congrArg some hcls, hdummy⟩
  · have hl := lookup_entry he hu hc honly
    unfold newTxn
    simp only [Option.map_some, Option.getD_some, hl, and_self]
  · exact congrArg some (lookup_unused hn)

/-! ## The bus in reset -/

theorem exec_row_unforwarded {s : State} (ht : s.txn = none) (hs : s.ports.ctlSelected = true) (c : CmdClass) (dt : Nat) (xs : List Xfer)
    (rel : Option Release) : exec (row c dt xs rel) s = .next (unforwarded (s.advance dt) xs rel) := by
  rw [exec_row, busCommand_unforwarded (s := s.advance dt) ht hs]

/-- In reset no byte is a free value, so that none is spent (R105, log 7). -/
theorem unforwarded_reset {s : State} (hr : s.inReset = true) (xs : List Xfer) (rel : Option Release) :
    unforwarded s xs rel = match rel with
      | none => s.returnOnly ((upTo xs.length).map (unforwardedByte s))
      | some r => (s.returnOnly ((upTo xs.length).map (unforwardedByte s))).releaseUnforwarded r (unforwardedByte s xs.length) := by
  unfold unforwarded
  simp only [hr, if_true]
  cases rel <;> rfl

/-- The bytes read in reset while none is cut (R105). -/
theorem unforwardedBytes_reset {s : State} (hr : s.inReset = true) (ht : s.ports.returnedTail = none) (n : Nat) :
    (upTo n).map (unforwardedByte s) = List.replicate n 0xFF := by
  refine List.eq_replicate_iff.mpr ⟨by simp [upTo], fun b hb => ?_⟩
  obtain ⟨k, _, rfl⟩ := List.mem_map.mp hb
  exact unforwardedByte_reset hr ht k

theorem returnOnly_high {s : State} (ht : s.ports.returnedTail = none) (n : Nat) :
    s.returnOnly (List.replicate n 0xFF) = { s with ports := { s.ports with returned := List.replicate n 0xFF ++ s.ports.returned } } := by
  unfold State.returnOnly
  rw [List.reverse_replicate, ht, ite_self]
  simp [← ht]

/-- Settles O14: in reset a byte reads high as a whole, or from the bit on at which the reset cut it. -/
theorem busReadsHighInReset : Obligations.BusReadsHighInReset := by
  intro c dt xs r cmd s hr ht
  have hr' : (s.advance dt).inReset = true := hr
  refine ⟨⟨_, rfl, ?_, ?_⟩, fun hs hnone => ?_, fun tail x hs htail => ?_⟩
  · rw [if_pos (by exact hr)]
    exact ht
  · rw [if_pos (by exact hr)]
    cases cmd <;> rfl
  · have hnone' : (s.advance dt).ports.returnedTail = none := hnone
    rw [exec_row_unforwarded ht hs, exec_row_unforwarded ht hs, unforwarded_reset hr', unforwarded_reset hr',
      unforwardedBytes_reset hr' hnone', returnOnly_high hnone', unforwardedByte_reset hr' hnone']
    exact ⟨rfl, rfl⟩
  · refine ⟨unforwardedByte (s.advance dt) 0, fun k hk => unforwardedByte_cut hr' htail hk, ?_, ?_⟩
    · rw [exec_row_unforwarded ht hs, unforwarded_reset hr']
      rfl
    · rw [exec_row_unforwarded ht hs, unforwarded_reset hr']
      rfl

end Sys2Proof.Claims

/-! The bytes of a transaction: the address phase (O15), the bytes of commands and writes (O16), and the data bytes of a read, outside the
window (O17) and in it (O18). -/

namespace Sys2Proof.Claims

open Sys2Proof Sys2Proof.Machine

/-! ## The window's latches -/

theorem latchOf_box {off : Nat} (h : off < 64) : latchOf off = some 0 := if_pos h

theorem latchOf_string {i : Str} {off : Nat} (h : InRecordOf i off) : latchOf off = some (latchOfStr i) := by
  obtain ⟨hlo, hhi⟩ := h
  have hi := i.isLt
  unfold latchOf
  rw [if_neg (by omega), dif_pos (by omega)]
  refine congrArg some (Fin.ext ?_)
  change (off - 64) / 32 + 1 = i.val + 1
  omega

theorem latchOf_none {off : Nat} (h : 832 ≤ off) : latchOf off = none := by
  unfold latchOf
  rw [if_neg (by omega), dif_neg (by omega)]

theorem recordOf_string (s : State) (i : Str) : recordOf s (latchOfStr i) = stringRecord s i := by
  unfold recordOf latchOfStr
  rw [dif_pos (by simp)]
  rfl

/-- A byte that crosses the ports moves no record of the window. -/
theorem recordOf_exchange (s : State) (t : Txn) (x : Xfer) (b : Byte) (l : Fin 25) :
    recordOf ((s.setTxn t).exchange x b) l = recordOf s l := by
  unfold recordOf
  split <;> rfl

/-- Once the address of the next byte is known in the window, its record's latch holds the record (R158). -/
theorem latchNext_at {s : State} {t : Txn} {l : Fin 25} (hw : kindAt s t t.addr = .window) (hl : latchOf (t.addr % 4096) = some l) :
    (latchNext s t).window = if s.window[l].filled then s.window else s.window.set l ⟨true, recordOf s l⟩ := by
  unfold latchNext latchAt fillLatch
  rw [if_pos hw, hl]
  simp only
  split <;> rfl

theorem latchNext_stands {s : State} {t : Txn} (h : kindAt s t t.addr ≠ .window ∨ latchOf (t.addr % 4096) = none) :
    (latchNext s t).window = s.window := by
  unfold latchNext latchAt
  split
  · next hw =>
    rw [h.resolve_left (fun hn => hn hw)]
  · rfl

/-- A whole byte of a read leaves the latches as R158 says. -/
theorem passRead_latched (s : State) (dt : Nat) {t t' : Txn} (hcfg : t'.cfg = t.cfg) (x : Xfer) (b : Byte) :
    ∃ w, passRead (s.advance dt) t' x b = { passed s dt x b t' with window := w } ∧ Latched (later s dt) t t'.addr w := by
  obtain ⟨w, hw, _⟩ := latchNext_spec (((s.advance dt).setTxn t').exchange x b) t'
  have hwindow : (latchNext (((s.advance dt).setTxn t').exchange x b) t').window = w := congrArg State.window hw
  have hkind : InWindow (later s dt) t t'.addr ↔ kindAt (((s.advance dt).setTxn t').exchange x b) t' t'.addr = .window := by
    unfold InWindow kindAt
    rw [hcfg]
    rfl
  have hat {l : Fin 25} (hk : InWindow (later s dt) t t'.addr) (hl : latchOf (t'.addr % 4096) = some l) :
      w = if s.window[l].filled then s.window else s.window.set l ⟨true, recordOf (later s dt) l⟩ := by
    rw [← hwindow, latchNext_at (hkind.mp hk) hl, recordOf_exchange]
    rfl
  refine ⟨w, hw, fun hk hoff => hat hk (latchOf_box hoff), fun i hk hoff => ?_, fun hn => ?_⟩
  · rw [← recordOf_string]
    exact hat hk (latchOf_string hoff)
  · exact hwindow.symm.trans (latchNext_stands (hn.imp (fun h => h ∘ hkind.mpr) latchOf_none))

/-- The byte of the window is its record's (R157). -/
theorem supplied_windowByte (s : State) (off : Nat) : Supplied s off (windowByte s off) where
  box h := by
    unfold windowByte
    rw [latchOf_box h, placeOf, if_pos h]
    rfl
  string i h := by
    obtain ⟨hlo, hhi⟩ := h
    have hplace : placeOf off = off - 64 - 32 * i.val := by
      unfold placeOf
      rw [if_neg (by omega)]
      omega
    unfold windowByte
    rw [latchOf_string ⟨hlo, hhi⟩, ← hplace]
    rfl
  others h := by
    unfold windowByte
    rw [latchOf_none h]

/-! ## One byte of a class -/

theorem passByte_eq {s : State} {t : Txn} (ht : s.txn = some t) (dt : Nat) (x : Xfer) :
    passByte (s.advance dt) x = passed s dt x x.miso { t with count := t.count + 1 } := by
  unfold passByte
  rw [advance_txn, ht]
  rfl

section address
variable {s : State} {t : Txn} (ht : s.txn = some t) (dt : Nat) (x : Xfer)
include ht

theorem eraseByte_address (h : t.count < 3) : eraseByte (s.advance dt) x = passed s dt x x.miso (t.addressByte x.mosi) := by
  unfold eraseByte
  rw [advance_txn, ht]
  simp only
  rw [if_pos h]
  rfl

theorem eraseByte_counted (h : 3 ≤ t.count) :
    eraseByte (s.advance dt) x = passed s dt x x.miso { t with count := t.count + 1 } := by
  unfold eraseByte
  rw [advance_txn, ht]
  simp only
  rw [if_neg (by omega)]
  rfl

theorem programByte_address (h : t.count < 3) : programByte (s.advance dt) x = passed s dt x x.miso (t.addressByte x.mosi) := by
  unfold programByte
  rw [advance_txn, ht]
  simp only
  rw [if_pos h]
  rfl

theorem programByte_data (h : 3 ≤ t.count) :
    programByte (s.advance dt) x = passed s dt x x.miso (t.programByte x.mosi) := by
  unfold Machine.programByte
  rw [advance_txn, ht]
  simp only
  rw [if_neg (by omega)]
  rfl

theorem readByte_address (h : t.count < 2) : readByte (s.advance dt) x = passed s dt x x.miso (t.addressByte x.mosi) := by
  unfold readByte
  rw [advance_txn, ht]
  simp only
  rw [if_pos h]
  rfl

/-- The last address byte makes the address of the first data byte known (R158). -/
theorem readByte_lastAddress (h : t.count = 2) :
    readByte (s.advance dt) x = passRead (s.advance dt) (t.addressByte x.mosi) x x.miso := by
  unfold readByte
  rw [advance_txn, ht]
  simp only
  rw [if_neg (by omega), if_pos h]

theorem readByte_dummy (hlo : 3 ≤ t.count) (h : t.count < 3 + t.dummy) :
    readByte (s.advance dt) x = passed s dt x x.miso { t with count := t.count + 1 } := by
  unfold readByte
  rw [advance_txn, ht]
  simp only
  rw [if_neg (by omega), if_neg (by omega), if_pos h]
  rfl

theorem readByte_data (h : 3 + t.dummy ≤ t.count) : readByte (s.advance dt) x = dataByte (s.advance dt) t x := by
  unfold readByte
  rw [advance_txn, ht]
  simp only
  rw [if_neg (by omega), if_neg (by omega), if_neg (by omega)]

end address

/-- Before the third address byte the address stands at 0. -/
theorem addressByte_before {t : Txn} (h : t.addrBytes.length < 2) (b : Byte) :
    t.addressByte b = { t with count := t.count + 1, addrBytes := t.addrBytes ++ [b], start := 0, addr := 0 } := by
  unfold Txn.addressByte
  simp only [List.length_append, List.length_cons, List.length_nil]
  rw [if_neg (by omega)]

/-- The third address byte gives the address modulo the memory size, the first byte the most significant (R110, log 37). -/
theorem addressByte_third {t : Txn} {b₀ b₁ : Byte} (hn : t.count = 2) (h : t.addrBytes = [b₀, b₁]) (b : Byte) :
    t.addressByte b = { t with
      count := 3, addrBytes := [b₀, b₁, b]
      start := (65536 * b₀.toNat + 256 * b₁.toNat + b.toNat) % t.cfg.memSize
      addr := (65536 * b₀.toNat + 256 * b₁.toNat + b.toNat) % t.cfg.memSize } := by
  have hnat : beNat [b₀, b₁, b] = 65536 * b₀.toNat + 256 * b₁.toNat + b.toNat := by
    simp only [beNat, List.foldl_cons, List.foldl_nil]
    omega
  unfold Txn.addressByte
  rw [h, hn]
  simp only [List.cons_append, List.nil_append, List.length_cons, List.length_nil, hnat, if_true]

/-- Settles O15: every class with an address takes its bytes alike, and the last one of a read fills a latch. -/
theorem addressPhase : Obligations.AddressPhase := by
  intro c dt x s t hc ht hcls
  have hnone : c ≠ .none := by rintro rfl; exact absurd hc (by decide)
  have hexec := exec_row_byte hnone ht hcls dt x
  have hclass : (c = .read ∨ c = .readFast) ∨ c = .program ∨ c = .erase4k ∨ c = .erase64k := by
    simpa [addressed, or_assoc] using hc
  refine ⟨fun hn hl => ?_, fun b₀ b₁ hn hb => ⟨fun hread => ?_, fun hnr hnf => ?_⟩⟩
  · rw [hexec, ← addressByte_before (by omega) x.mosi]
    rcases hclass with (rfl | rfl) | rfl | rfl | rfl
    · exact congrArg _ (readByte_address ht dt x hn)
    · exact congrArg _ (readByte_address ht dt x hn)
    · exact congrArg _ (programByte_address ht dt x (by omega))
    · exact congrArg _ (eraseByte_address ht dt x (by omega))
    · exact congrArg _ (eraseByte_address ht dt x (by omega))
  · have hbyte : rowByte c (s.advance dt) x = passRead (s.advance dt) (t.addressByte x.mosi) x x.miso := by
      rcases hread with rfl | rfl <;> exact readByte_lastAddress ht dt x hn
    rw [hexec, hbyte, addressByte_third hn hb]
    obtain ⟨w, hw, hlatched⟩ := passRead_latched s dt (t := t) (t' := { t with
      count := 3, addrBytes := [b₀, b₁, x.mosi]
      start := (65536 * b₀.toNat + 256 * b₁.toNat + x.mosi.toNat) % t.cfg.memSize
      addr := (65536 * b₀.toNat + 256 * b₁.toNat + x.mosi.toNat) % t.cfg.memSize }) rfl x x.miso
    exact ⟨w, congrArg _ hw, hlatched⟩
  · rw [hexec, ← addressByte_third hn hb]
    rcases hclass with (rfl | rfl) | rfl | rfl | rfl
    · exact absurd rfl hnr
    · exact absurd rfl hnf
    · exact congrArg _ (programByte_address ht dt x (by omega))
    · exact congrArg _ (eraseByte_address ht dt x (by omega))
    · exact congrArg _ (eraseByte_address ht dt x (by omega))

/-- Settles O16, by what the class of the row does with a byte. -/
theorem bytesOfWritesAndCommands : Obligations.BytesOfWritesAndCommands := by
  intro c dt x s t ht hcls
  refine ⟨fun hc => ?_, ?_⟩
  · rcases hc with hc | ⟨hc, hn⟩
    · have hbyte : rowByte c = passByte ∧ c ≠ .none := by
        simp only [List.mem_cons, List.not_mem_nil, or_false] at hc
        rcases hc with rfl | rfl | rfl | rfl | rfl | rfl | rfl <;> exact ⟨rfl, nofun⟩
      obtain ⟨hbyte, hnone⟩ := hbyte
      rw [exec_row_byte hnone ht hcls, hbyte, passByte_eq ht]
    · have hbyte : rowByte c = eraseByte ∧ c ≠ .none := by
        simp only [List.mem_cons, List.not_mem_nil, or_false] at hc
        rcases hc with rfl | rfl <;> exact ⟨rfl, nofun⟩
      obtain ⟨hbyte, hnone⟩ := hbyte
      rw [exec_row_byte hnone ht hcls, hbyte, eraseByte_counted ht dt x hn]
  · rintro rfl hn
    exact (exec_row_byte (c := .program) nofun ht hcls dt x).trans (congrArg _ (programByte_data ht dt x hn))

theorem exec_read_byte {c : CmdClass} {s : State} {t : Txn} (hc : c = .read ∨ c = .readFast) (ht : s.txn = some t) (hcls : t.cls = some c)
    (dt : Nat) (x : Xfer) : exec (row c dt [x] none) s = .next (readByte (s.advance dt) x) := by
  rcases hc with rfl | rfl
  · exact exec_row_byte (c := .read) nofun ht hcls dt x
  · exact exec_row_byte (c := .readFast) nofun ht hcls dt x

theorem dataByte_window {s : State} {t : Txn} (h : InWindow s t t.addr) (dt : Nat) (x : Xfer) :
    dataByte (s.advance dt) t x = passRead (s.advance dt) (t.readByte none) x (windowByte s (t.addr % 4096)) := if_pos h

theorem dataByte_outside {s : State} {t : Txn} (h : ¬ InWindow s t t.addr) (dt : Nat) (x : Xfer) :
    dataByte (s.advance dt) t x =
      passRead (s.advance dt) (t.readByte (if t.cond.holds t.addr then some x.miso else none)) x x.miso := if_neg h

/-- Settles O17: a dummy byte is only counted, and a data byte outside the window is captured under the capture condition. -/
theorem readBytesPass : Obligations.ReadBytesPass := by
  intro c dt x s t hc ht hcls hn
  rw [exec_read_byte hc ht hcls]
  refine ⟨fun hd => by rw [readByte_dummy ht dt x hn hd], fun hd hw => ?_⟩
  rw [readByte_data ht dt x hd, dataByte_outside hw]
  obtain ⟨w, hp, hlatched⟩ := passRead_latched s dt (t := t)
    (t' := t.readByte (if t.cond.holds t.addr then some x.miso else none)) rfl x x.miso
  exact ⟨w, congrArg _ hp, hlatched⟩

/-- What the release of a read does at the ports (R103, R157). -/
theorem endRead_ports (s : State) (t : Txn) (r : Release) :
    (endRead s t r).ports = (s.release r (readTail s t r) .asSent).ports ∧ (endRead s t r).txn = none := by
  have hc := carries_finish s (readEffects (s.release r (readTail s t r) .asSent) t)
  have hk := keeps_readEffects (s.release r (readTail s t r) .asSent) t
  have hp := (adopts_configRead (journalRead (s.release r (readTail s t r) .asSent) t) t).ports.trans
    (covers_journalRead (s.release r (readTail s t r) .asSent) t).same.ports
  exact ⟨hc.ports.trans hp, hc.txn.trans hk.txn⟩

/-- Settles O18: a data byte in the window and the bits of an incomplete one are both the byte of the record's latch. -/
theorem windowBytesAreServed : Obligations.WindowBytesAreServed := by
  intro c dt x s t hc ht hcls hd hw a
  refine ⟨windowByte s (t.addr % 4096), supplied_windowByte s _, ?_, fun r => ?_⟩
  · rw [exec_read_byte hc ht hcls, readByte_data ht dt x hd, dataByte_window hw]
    obtain ⟨w, hp, hlatched⟩ := passRead_latched s dt (t := t) (t' := t.readByte none) rfl x (windowByte s (t.addr % 4096))
    exact ⟨w, congrArg _ hp, hlatched⟩
  · obtain ⟨_, _, hread, _⟩ := exec_row_release ht hcls dt r
    obtain ⟨hports, htxn⟩ := endRead_ports (s.advance dt) t r
    have htail : readTail (s.advance dt) t r = windowByte s (t.addr % 4096) := if_pos ⟨hd, hw⟩
    rw [htail] at hports
    exact ⟨_, hread hc, hports, htxn⟩

end Sys2Proof.Claims

/-! The mirror at the releases and the status bytes of the bus (O20, O21, O22, O26), and at the end of an erase timer (O60). -/

namespace Sys2Proof.Claims

open Sys2Proof Sys2Proof.Machine

/-! ## Releases -/

theorem endPlain_clean {s : State} {r : Release} (dt : Nat) (t : Txn) (effect : State → State) (hr : r.bits = 0) :
    endPlain effect (s.advance dt) t r = effect (ended s dt r r.x.miso .asSent) := if_pos hr

/-- The clean release of a WREN (R117). -/
theorem wrenMirror_set {s : State} (h : s.mirror.state = .idle ∨ s.mirror.state = .eraseSuspended) :
    wrenMirror s = { s with mirror := { s.mirror with wel := .set } } := by
  unfold wrenMirror
  rcases h with h | h <;> rw [h] <;> rfl

theorem wrenMirror_unknown {s : State} (h : s.mirror.state = .unknown) :
    wrenMirror s = { s with mirror := { s.mirror with wel := .unknown } } := by
  unfold wrenMirror
  rw [h]
  rfl

theorem wrenMirror_busy {s : State}
    (h : s.mirror.state = .busyProgram ∨ s.mirror.state = .busyErase ∨ s.mirror.state = .busyProgramInSuspend) : wrenMirror s = s := by
  unfold wrenMirror
  rcases h with h | h | h <;> rw [h]

/-- The clean release of a RESUME runs the erase timer on (R117, R148). -/
theorem resumeMirror_resumes {s : State} {c : EraseCommit} {left : Nat} (hm : s.mirror.state = .eraseSuspended)
    (he : s.journal.erase = some c) (ht : c.timer = .paused left) :
    resumeMirror s = { s with
      mirror := { s.mirror with state := .busyErase }
      journal := { s.journal with erase := some { c with timer := .running (s.now + left) } } } := by
  unfold resumeMirror
  rw [hm, resumeErase_eq he ht]
  rfl

theorem resumeMirror_stands {s : State} (h : s.mirror.state ≠ .eraseSuspended) : resumeMirror s = s := by
  unfold resumeMirror
  split
  · next hm => exact absurd hm h
  all_goals rfl

theorem complete_of_cleanRelease {t : Txn} {c : CmdClass} {r : Release} (h : cleanRelease t c r = true) :
    r.bits = 0 ∧ Complete t c := by
  simp only [cleanRelease, Bool.and_eq_true, beq_iff_eq, decide_eq_true_eq, Bool.or_eq_true, bne_iff_ne] at h
  obtain ⟨⟨hbits, haddr⟩, hfirst⟩ := h
  refine ⟨hbits, fun hc => ?_, fun hc => hfirst.resolve_left (not_not.mpr hc)⟩
  have hlen : CmdClass.addrLen c = 3 := by revert hc; cases c <;> decide
  omega

/-- A release is not clean within a byte, or before the address and a program's first byte are complete (R108). -/
theorem cleanRelease_eq_false {t : Txn} {c : CmdClass} {r : Release} (h : r.bits ≠ 0 ∨ ¬ Complete t c) : cleanRelease t c r = false :=
  Bool.eq_false_iff.mpr fun hclean =>
    have ⟨hbits, hc⟩ := complete_of_cleanRelease hclean
    h.elim (fun h => h hbits) (fun h => h hc)

theorem endWrite_unclean {s : State} {t : Txn} {c : CmdClass} {r : Release} (h : cleanRelease t c r = false) :
    endWrite c s t r = uncleanRelease s r := by
  unfold endWrite
  rw [h]
  rfl

theorem endProgram_unclean {s : State} {t : Txn} {r : Release} (h : cleanRelease t .program r = false) :
    endProgram s t r = uncleanRelease s r := by
  unfold endProgram
  rw [h]
  exact endWrite_unclean h

/-- A release that is not clean clears the write-enable mirror (R117). -/
theorem rowEnd_unclean {t : Txn} {c : CmdClass} {r : Release}
    (hc : c ∈ [CmdClass.wren, .wrdi, .suspend, .resume, .program, .erase4k, .erase64k, .eraseAll])
    (h : r.bits ≠ 0 ∨ ¬ Complete t c) (s : State) : rowEnd c s t r = uncleanRelease s r := by
  have hclean := cleanRelease_eq_false h
  have hbits (hp : c ∈ [CmdClass.wren, .wrdi, .suspend, .resume]) : r.bits ≠ 0 := by
    refine h.resolve_right fun hn => hn ?_
    simp only [List.mem_cons, List.not_mem_nil, or_false] at hp
    rcases hp with rfl | rfl | rfl | rfl <;> exact ⟨fun ha => absurd ha (by decide), nofun⟩
  simp only [List.mem_cons, List.not_mem_nil, or_false] at hc
  rcases hc with rfl | rfl | rfl | rfl | rfl | rfl | rfl | rfl
  · exact if_neg (hbits (by decide))
  · exact if_neg (hbits (by decide))
  · exact if_neg (hbits (by decide))
  · exact if_neg (hbits (by decide))
  · exact endProgram_unclean hclean
  · exact endWrite_unclean hclean
  · exact endWrite_unclean hclean
  · exact endWrite_unclean hclean

/-- Settles O20: a clean release has the effect of its command, and one that is not clean clears the write-enable mirror. -/
theorem releasesMoveTheMirror : Obligations.ReleasesMoveTheMirror := by
  intro dt r s t ht u
  refine ⟨fun hr => ⟨fun hc => ⟨fun hm => ?_, fun hm => ?_, fun hm => ?_⟩, fun hc => ?_, fun hc => ?_,
    fun hc => ⟨fun c left hm he hx => ?_, fun hm => ?_⟩⟩, fun c hc hcls h => ?_⟩
  · refine (exec_row_end (c := .wren) nofun ht hc dt r).trans (congrArg _ ?_)
    exact (endPlain_clean dt t wrenMirror hr).trans (wrenMirror_set (s := u) hm)
  · refine (exec_row_end (c := .wren) nofun ht hc dt r).trans (congrArg _ ?_)
    exact (endPlain_clean dt t wrenMirror hr).trans (wrenMirror_unknown (s := u) hm)
  · refine (exec_row_end (c := .wren) nofun ht hc dt r).trans (congrArg _ ?_)
    exact (endPlain_clean dt t wrenMirror hr).trans (wrenMirror_busy (s := u) hm)
  · exact (exec_row_end (c := .wrdi) nofun ht hc dt r).trans (congrArg _ (endPlain_clean dt t (·.setWel .clear) hr))
  · exact (exec_row_end (c := .suspend) nofun ht hc dt r).trans (congrArg _ (endPlain_clean dt t id hr))
  · refine (exec_row_end (c := .resume) nofun ht hc dt r).trans (congrArg _ ?_)
    exact (endPlain_clean dt t resumeMirror hr).trans (resumeMirror_resumes (s := u) hm he hx)
  · refine (exec_row_end (c := .resume) nofun ht hc dt r).trans (congrArg _ ?_)
    exact (endPlain_clean dt t resumeMirror hr).trans (resumeMirror_stands (s := u) hm)
  · have hnone : c ≠ .none := by rintro rfl; exact absurd hc (by decide)
    exact (exec_row_end hnone ht hcls dt r).trans (congrArg _ (rowEnd_unclean hc h _))

/-- Settles O21: the bytes of PASS and BLOCK pass alike, and BLOCK is refused at its release. -/
theorem passAndBlock : Obligations.PassAndBlock := by
  intro dt x r s t ht
  refine ⟨fun hc => ⟨?_, ?_⟩, fun hc => ⟨?_, (refusalEffects dt r s t ht).2 hc⟩, fun cmd w hw hn => ?_⟩
  · exact (exec_row_byte (c := .pass) nofun ht hc dt x).trans (congrArg _ (passByte_eq ht dt x))
  · exact exec_row_end (c := .pass) nofun ht hc dt r
  · exact (exec_row_byte (c := .block) nofun ht hc dt x).trans (congrArg _ (passByte_eq ht dt x))
  · exact ⟨_, _, exec_chipSelectAssert hw dt (some cmd), rfl, congrArg some (lookup_unused hn)⟩

/-! ## Status bytes -/

theorem mirror_of_state {s : State} {x : MirrorState} (h : s.mirror.state = x) : s.mirror = { s.mirror with state := x } := by
  subst h
  rfl

/-- An observation moves the mirror state by the table of R116, and nothing else of the mirror. -/
theorem moveMirror_mirror (s : State) (busy susp err : Bool) :
    (moveMirror s busy susp err).mirror = { s.mirror with state := mirrorTable s.mirror.state busy susp } := by
  have hprog := (sameCommits_resolveProgram s err).mirror
  have moved {t : State} (h : t.mirror = s.mirror) (x : MirrorState) : (t.mirrorTo x).mirror = { s.mirror with state := x } := by
    rw [mirrorTo_mirror, h]
  unfold moveMirror
  cases hm : s.mirror.state with
  | unknown => cases busy <;> cases susp <;> rfl
  | idle => cases busy <;> cases susp <;> rfl
  | busyProgram =>
    cases busy with
    | true => exact mirror_of_state hm
    | false => cases susp <;> exact moved hprog _
  | busyErase =>
    cases busy with
    | true => exact mirror_of_state hm
    | false =>
      cases susp with
      | true => exact moved (pauseErase_mirror s) _
      | false => exact moved (sameCommits_resolveErase s err).mirror _
  | eraseSuspended =>
    cases busy with
    | true => exact moved (resumeErase_mirror s) _
    | false =>
      cases susp with
      | true => exact mirror_of_state hm
      | false => exact moved (sameCommits_failErase s _).mirror _
  | busyProgramInSuspend =>
    cases busy with
    | true => exact mirror_of_state hm
    | false =>
      cases susp with
      | true => exact moved hprog _
      | false => exact moved (sameCommits_endBoth (f := fun s => resolveProgram s err) (sameCommits_resolveProgram s err) _).mirror _

/-- What an observation makes of the mirror (R114, R116). -/
theorem observe_mirror (s : State) (cfg : Config) (b : Byte) : (observe s cfg b).mirror =
    ⟨mirrorTable s.mirror.state (b.getLsbD cfg.busyBit) (b.getLsbD cfg.suspBit), if b.getLsbD cfg.welBit then .set else .clear,
      s.mirror.refusalFlag, s.mirror.lastRefusal⟩ := moveMirror_mirror _ _ _ _

/-- The refusal flag in the error bit of a status byte (R127). -/
theorem mergeFlag_bit (cfg : Config) (b : Byte) {k : Nat} (hk : k < 8) :
    (mergeFlag cfg true b).getLsbD k = (b.getLsbD k || k == cfg.errBit) := by
  unfold mergeFlag
  rw [if_pos rfl, BitVec.getLsbD_or, BitVec.getLsbD_ofNat, Nat.testBit_two_pow, decide_eq_true hk, Bool.true_and]
  congr 1
  by_cases he : cfg.errBit = k
  · simp [he]
  · simp [he, Ne.symm he]

/-- Settles O22: the observation moves the mirror and the journal tracker, and the byte returned carries the refusal flag. -/
theorem statusByteReturned : Obligations.StatusByteReturned := by
  intro dt x s t ht hcls _
  have ht' : (s.advance dt).txn = some t := ht
  have hexec : exec (.status dt [x] none) s = .next (((finish (s.advance dt) (observe (s.advance dt) t.cfg x.miso)).setTxn
      t.countByte).exchange x (mergeFlag t.cfg s.mirror.refusalFlag x.miso)) := by
    refine (exec_row_byte (c := .status) nofun ht hcls dt x).trans (congrArg _ ?_)
    change statusByte (s.advance dt) x = _
    rw [statusByte, ht']
    rfl
  have hsame := (covers_observe (s.advance dt) t.cfg x.miso).same
  have hcar := carries_finish (s.advance dt) (observe (s.advance dt) t.cfg x.miso)
  have hlines := (keeps_observe (s.advance dt) t.cfg x.miso).lines
  generalize finish (s.advance dt) (observe (s.advance dt) t.cfg x.miso) = v at hexec hcar
  have hm := hcar.mirror.trans (observe_mirror (s.advance dt) t.cfg x.miso)
  refine ⟨_, mergeFlag t.cfg s.mirror.refusalFlag x.miso, hexec, ?_, rfl, fun hf => ?_, fun hf k hk => ?_,
    (congrArg Mirror.refusalFlag hm :), (congrArg Mirror.lastRefusal hm :), congrArg Mirror.wel hm, congrArg Mirror.state hm,
    hcar.inputs.trans hsame.inputs, hcar.lines.trans hlines, ?_, ?_, fun r => ?_⟩
  · have hp : v.ports = s.ports := hcar.ports.trans hsame.ports
    rw [exchange_ports, setTxn_ports, hp]
    rfl
  · rw [hf]
    rfl
  · rw [hf]
    exact mergeFlag_bit t.cfg x.miso hk
  · have hiso := hsame.iso
    exact ⟨hcar.meas.trans hsame.meas, hcar.scan.trans hsame.scan, hcar.isoValue.trans (congrArg Iso.value hiso),
      hcar.isoStatus.trans (congrArg Iso.status hiso), hcar.isoStart.trans (congrArg Iso.start hiso),
      hcar.isoFault.trans (congrArg Iso.fault hiso)⟩
  · exact ⟨hcar.inReset.trans hsame.inReset, hcar.cfg.trans hsame.cfg, hcar.cfgBase.trans hsame.cfgBase, rfl, rfl, rfl,
      hcar.window.trans hsame.window, hcar.pending.trans hsame.pending⟩
  · refine ⟨mergeFlag t.cfg s.mirror.refusalFlag r.x.miso, exec_row_end (c := .status) nofun ht hcls dt r, fun hf => ?_⟩
    rw [hf]
    rfl

/-- Settles O26: the two moves of the mirror that pause the erase timer and run it on, with the rest of the journal as it was. -/
theorem statusPausesErase : Obligations.StatusPausesErase := by
  intro dt x s t err c he
  have he' : (welTaken s dt t x.miso).journal.erase = some c := he
  refine ⟨fun x' hm hx hobs => ?_, fun left susp hm hx hobs => ?_⟩
  · obtain ⟨u, hexec, hj, hstate, _⟩ := exec_status_leaves (dt := dt) (n := s.free) (m := .eraseSuspended)
      (j := { s.journal with erase := some { c with timer := .paused (x' - (s.now + dt)) } }) hobs (by
        have hm' : (welTaken s dt t x.miso).mirror.state = .busyErase := hm
        unfold moveMirror
        rw [hm', pauseErase_eq he' hx]
        rfl)
    exact ⟨u, hexec, hstate, hj⟩
  · obtain ⟨u, hexec, hj, hstate, _⟩ := exec_status_leaves (dt := dt) (n := s.free) (m := .busyErase)
      (j := { s.journal with erase := some { c with timer := .running (s.now + dt + left) } }) hobs (by
        have hm' : (welTaken s dt t x.miso).mirror.state = .eraseSuspended := hm
        unfold moveMirror
        rw [hm', resumeErase_eq he' hx]
        rfl)
    exact ⟨u, hexec, hstate, hj⟩

/-! ## The erase timer -/

/-- Settles O60: `failErase_eq` names what the end of the erase writes, and no event follows it. -/
theorem eraseTimesOut : Obligations.EraseTimesOut := by
  intro dt s c x he ht hx
  have he' : (s.advance dt).journal.erase = some c := he
  have hexpired : eraseExpired c (s.advance dt).now = true := by
    unfold eraseExpired
    rw [ht]
    exact decide_eq_true hx
  refine ⟨unseenSlots s.journal c, ?_, endedSlots_other⟩
  change execEraseCommitTimeout dt s = _
  unfold execEraseCommitTimeout
  simp only [he']
  rw [if_pos hexpired, failErase_eq _ c _ he']
  rfl

/-! ## The release of a reset -/

/-- R111: the CONFIG sector of the straps. -/
theorem strapBase_eq (sel1 sel0 : Bool) : strapBase sel1 sel0 =
    if sel1 then (if sel0 then 0x1FF000 else 0x100000) else (if sel0 then 0x010000 else 0x000000) := by
  cases sel1 <;> cases sel0 <;> rfl

/-- A measurement that starts with nothing driven is not disturbed (R34). -/
theorem startIso_idle {s : State} (h : anyDrive s = false) :
    startIso s = { s with iso := { s.iso with job := some ⟨s.now, s.now + ms s.cfg.tIso, false⟩ } } := by
  unfold startIso
  rw [h]

/-- Settles O7: the part starts once no actuation is left, and else stays in reset. -/
theorem resetReleaseStartsThePart : Obligations.ResetReleaseStartsThePart := by
  intro dt sel1 sel0 s hr
  have hexec : exec (.resetRelease dt sel1 sel0) s =
      .next (if s.inReset && !anyDrive s then releaseReset (s.advance dt) sel1 sel0 else s.advance dt) := rfl
  have hscan : ms Config.builtin.tScan = 50000 := rfl
  have hconvert : Config.builtin.tScan * 800 = 40000 := rfl
  have hiso : ms Config.builtin.tIso = 2000000 := rfl
  refine ⟨fun hnone => ?_, fun hsome => ?_⟩
  · have hidle : anyDrive s = false := Bool.eq_false_iff.mpr fun h => by
      obtain ⟨i, hi⟩ := anyDrive_iff.mp h
      rw [hnone i] at hi
      cases hi
    rw [hexec, hr, hidle]
    refine congrArg Host.Outcome.next ((if_pos rfl).trans ?_)
    unfold releaseReset
    rw [startIso_idle (by exact hidle), strapBase_eq]
    simp only [startScan, hscan, hconvert, hiso]
    rfl
  · rw [hexec, hr, anyDrive_iff.mpr hsome]
    rfl

end Sys2Proof.Claims

/-! The verdicts of the bus passage: spans (O27), the checks of R120 (O29, O30), writes into PASS sectors (O31), and accepted programs and
erases of CONFIG and GUARDED sectors (O32, O33). -/

namespace Sys2Proof.Claims

open Sys2Proof Sys2Proof.Machine

/-! ## Spans -/

/-- The span of a write touches a kind if one of its sectors has it (R112). -/
theorem touches_iff {s : State} {t : Txn} {c : CmdClass} {k : RegionKind} : touches s t c k = true ↔
    ∃ j < ((spanOf t c).2 + 4095) / 4096, sectorKind t.cfg s.cfgBase ((spanOf t c).1 / 4096 + j) = k := by
  unfold touches spanKinds sectorsOf upTo
  rw [List.contains_iff_mem]
  simp only [List.mem_map, List.mem_range, exists_exists_and_eq_and]

theorem isProtected_iff {s : State} {t : Txn} {c : CmdClass} : isProtected s t c = true ↔
    ∃ k ≠ RegionKind.pass, touches s t c k = true := by
  unfold isProtected touches
  rw [List.any_eq_true]
  simp only [List.contains_iff_mem, bne_iff_ne, and_comm]

theorem touches_eq_false {s : State} {t : Txn} {c : CmdClass} (h : isProtected s t c = false) {k : RegionKind} (hk : k ≠ .pass) :
    touches s t c k = false :=
  Bool.eq_false_iff.mpr fun ht => absurd (h.symm.trans (isProtected_iff.mpr ⟨k, hk, ht⟩)) (by simp)

/-- Settles O27: a span is one sector, sixteen, or the memory, and a protected one has a sector of another kind than PASS. -/
theorem writeSpans : Obligations.WriteSpans := by
  intro s t k kind
  have hall (k : RegionKind) : touches s t .eraseAll k = true ↔ ∃ j, j * 4096 < t.cfg.memSize ∧ kind j = k := by
    rw [touches_iff]
    refine exists_congr fun j => and_congr ?_ ?_
    · change j < (t.cfg.memSize + 4095) / 4096 ↔ _
      omega
    · change sectorKind t.cfg s.cfgBase (0 / 4096 + j) = k ↔ _
      rw [Nat.zero_div, Nat.zero_add]
  refine ⟨?_, ?_, ?_, hall k, fun _ _ => isProtected_iff, fun hm => ?_⟩
  · rw [touches_single (.inl rfl), beq_iff_eq]
  · rw [touches_single (.inr rfl), beq_iff_eq]
  · have hbase : (t.start - t.start % 65536) / 4096 = t.start / 65536 * 16 := by omega
    have hsize : ((spanOf t .erase64k).2 + 4095) / 4096 = 16 := by simp [spanOf]
    rw [touches_iff, hsize]
    simp only [spanOf, hbase]
    rfl
  · exact isProtected_iff.mpr ⟨.config, nofun, (hall .config).mpr ⟨s.cfgBase / 4096, by omega, if_pos rfl⟩⟩

/-! ## The checks -/

/-- The check of R122 is that a commit stands in the way. -/
theorem commit_iff_inTheWay {s : State} {t : Txn} {c : CmdClass} :
    (commitPending s && !besideSuspended s t c) = true ↔ InTheWay s t c := by
  unfold InTheWay
  cases hp : s.journal.prog with
  | some p => simp [commitPending, besideSuspended, hp]
  | none =>
    cases he : s.journal.erase with
    | none => simp [commitPending, hp, he]
    | some e =>
      have hbeside : besideSuspended s t c = true ↔ c = .program ∧ s.mirror.state = .eraseSuspended
          ∧ (touches s t c .journal = true ∨ ((touches s t c .config = true ∨ touches s t c .guarded = true)
            ∧ (t.page < e.base ∨ e.base + e.size ≤ t.page))) := by
        simp [besideSuspended, hp, he, and_assoc]
      have hpend : commitPending s = true := by simp [commitPending, he]
      rw [hpend, Bool.true_and, Bool.not_eq_true', ← Bool.not_eq_true, hbeside]
      simp

section protected_
variable {s : State} {t : Txn} {c : CmdClass} (hp : isProtected s t c = true)
include hp

theorem verdict_unknown (hm : s.mirror.state = .unknown) : verdict s t c = .refused .memoryStateUnknown none := by
  unfold verdict protectedVerdict
  rw [if_pos hp, if_pos hm]

theorem verdict_welNotSet (hm : s.mirror.state ≠ .unknown) (hw : s.mirror.wel ≠ .set) : verdict s t c = .refused .welNotSet none := by
  unfold verdict protectedVerdict
  rw [if_pos hp, if_neg hm, if_pos hw]

theorem verdict_inTheWay (hm : s.mirror.state ≠ .unknown) (hw : s.mirror.wel = .set) (h : InTheWay s t c) :
    verdict s t c = .refused .commitPending none := by
  unfold verdict protectedVerdict
  rw [if_pos hp, if_neg hm, if_neg (not_not.mpr hw), if_pos (commit_iff_inTheWay.mpr h)]

/-- With the checks 1 to 3 passed, the checks 4 to 8 judge the regions that the span touches (R120). -/
theorem verdict_ready (h : Ready s t c) :
    verdict s t c =
      if c = .eraseAll then .refused .chipErase none
      else if touches s t c .window then .refused .windowWrite none
      else if touches s t c .journal && c == .erase64k then .refused .eraseSpan none
      else if touches s t c .config && !s.inputs.maintActive then .refused .configWrite none
      else if touches s t c .guarded && !s.inputs.maintActive then .refused .guarded none
      else if touches s t c .journal then journalVerdict s t c
      else .accepted := by
  obtain ⟨hm, hw, hn⟩ := h
  unfold verdict protectedVerdict
  rw [if_pos hp, if_neg hm, if_neg (not_not.mpr hw), if_neg (fun hc => hn (commit_iff_inTheWay.mp hc))]

section ready
variable (h : Ready s t c)
include h

theorem verdict_chipErase (hc : c = .eraseAll) : verdict s t c = .refused .chipErase none := by
  rw [verdict_ready hp h, if_pos hc]

theorem verdict_windowWrite (hc : c ≠ .eraseAll) (hw : touches s t c .window = true) : verdict s t c = .refused .windowWrite none := by
  rw [verdict_ready hp h, if_neg hc, if_pos hw]

theorem verdict_eraseSpan (hc : c = .erase64k) (hw : ¬ touches s t c .window = true) (hj : touches s t c .journal = true) :
    verdict s t c = .refused .eraseSpan none := by
  have hspan : (touches s t c .journal && c == .erase64k) = true := by rw [hj, hc]; rfl
  rw [verdict_ready hp h, if_neg (by rw [hc]; nofun), if_neg hw, if_pos hspan]

/-- Without maintenance the checks 7 and 8 stand, once the checks 4 to 6 have passed (R123). -/
theorem verdict_unmaintained (hc : c ≠ .eraseAll) (hw : ¬ touches s t c .window = true)
    (hs : ¬ (c = .erase64k ∧ touches s t c .journal = true)) (hm : s.inputs.maintActive = false) :
    (touches s t c .config = true → verdict s t c = .refused .configWrite none)
      ∧ (¬ touches s t c .config = true → touches s t c .guarded = true → verdict s t c = .refused .guarded none) := by
  have hspan : ¬ (touches s t c .journal && c == .erase64k) = true := by
    rw [Bool.and_eq_true, beq_iff_eq]
    exact fun hx => hs hx.symm
  rw [verdict_ready hp h, if_neg hc, if_neg hw, if_neg hspan, hm, Bool.not_false, Bool.and_true, Bool.and_true]
  exact ⟨fun hcfg => if_pos hcfg, fun hcfg hg => (if_neg hcfg).trans (if_pos hg)⟩

end ready

end protected_

/-- Settles O29: the checks 1 and 2 come before all others. -/
theorem mirrorChecks : Obligations.MirrorChecks := by
  intro c dt r s t hw ht hc hr hf hp
  refine ⟨fun hm => exec_refused hw ht hc hr hf (verdict_unknown (s := s.advance dt) hp hm),
    fun hm hwel => exec_refused hw ht hc hr hf (verdict_welNotSet (s := s.advance dt) hp hm fun hset => ?_)⟩
  rw [advance_mirror] at hset
  rcases hwel with h | h <;> cases h.symm.trans hset

/-- Settles O30: `commit_iff_inTheWay` is check 3, and `verdict_ready` names the others in their order. -/
theorem regionChecks : Obligations.RegionChecks := by
  intro c dt r s t hw ht hc hr hf hp answers hits
  have refuses {code : RefusalCode} (h : verdict (s.advance dt) t c = .refused code none) : answers code :=
    exec_refused hw ht hc hr hf h
  refine ⟨fun hm hwel hway => refuses (verdict_inTheWay (s := s.advance dt) hp hm hwel hway), fun hready => ?_⟩
  have hready : Ready (s.advance dt) t c := hready
  refine ⟨fun hall => refuses (verdict_chipErase (s := s.advance dt) hp hready hall),
    fun hall hwin => refuses (verdict_windowWrite (s := s.advance dt) hp hready hall hwin),
    fun h64 hwin hj => refuses (verdict_eraseSpan (s := s.advance dt) hp hready h64 hwin hj), fun hall hwin h64 hmaint => ?_⟩
  obtain ⟨hconfig, hguarded⟩ := verdict_unmaintained (s := s.advance dt) hp hready hall hwin h64 hmaint
  exact ⟨fun hcfg => refuses (hconfig hcfg), fun hcfg hg => refuses (hguarded hcfg hg)⟩

/-! ## Writes that are forwarded -/

/-- An accepted write that appends nothing is forwarded. -/
theorem exec_accepted_write {s : State} {t : Txn} {c : CmdClass} {dt : Nat} {r : Release} (hw : c ∈ writes) (ht : s.txn = some t)
    (hc : t.cls = some c) (hr : r.bits = 0) (hf : Complete t c) (hj : touches s t c .journal = false)
    (hv : verdict (s.advance dt) t c = .accepted) : exec (row c dt [] (some r)) s = .next (forwardWrite (s.advance dt) t c r) := by
  have hw : c = .program ∨ c ∈ [CmdClass.erase4k, .erase64k, .eraseAll] := by simpa [writes] using hw
  rcases hw with rfl | hw
  · obtain ⟨hp, _⟩ := exec_row_release ht hc dt r
    rw [hp rfl, endProgram_eq_endWrite (s := s.advance dt) fun _ => hj, endWrite_accepted (cleanRelease_of_complete hr hf) hv]
  · exact exec_accepted_erase hw ht hc hr hf hv

/-- Settles O31: beside a commit a write into PASS sectors is refused, and else it is forwarded whatever the mirror state. -/
theorem passRegionWrites : Obligations.PassRegionWrites := by
  intro c dt r s t hc ht hcls hr hf hp
  have hw : c ∈ writes := by
    simp only [List.mem_cons, List.not_mem_nil, or_false] at hc
    rcases hc with rfl | rfl | rfl <;> decide
  have hp' : isProtected (s.advance dt) t c = false := hp
  have hv : verdict (s.advance dt) t c = if commitPending (s.advance dt) then .refused .commitPending none else .accepted := by
    unfold verdict
    rw [hp']
    rfl
  refine ⟨fun hpend => exec_refused hw ht hcls hr hf ?_, fun hprog herase => ?_⟩
  · have hpending : commitPending (s.advance dt) = true := Bool.or_eq_true_iff.mpr hpend
    rw [hv, if_pos hpending]
  · have haccepted : verdict (s.advance dt) t c = .accepted := by
      rw [hv, commitPending_eq_false (s := s.advance dt) hprog herase]
      rfl
    rw [exec_accepted_write hw ht hcls hr hf (touches_eq_false hp nofun) haccepted]
    unfold forwardWrite
    rw [hp']
    rfl

/-! ## CONFIG and GUARDED sectors -/

theorem ready_idle {s : State} {t : Txn} {c : CmdClass} (hm : s.mirror.state = .idle) (hw : s.mirror.wel = .set)
    (hp : s.journal.prog = none) (he : s.journal.erase = none) : Ready s t c := by
  refine ⟨by rw [hm]; nofun, hw, ?_⟩
  rintro (h | ⟨_, h, _⟩)
  · rw [hp] at h
    cases h
  · cases he.symm.trans h

/-- With maintenance active a write beside WINDOW and JOURNAL passes every check that is left (R123). -/
theorem verdict_maintained {s : State} {t : Txn} {c : CmdClass} (hp : isProtected s t c = true) (h : Ready s t c) (hc : c ≠ .eraseAll)
    (hw : touches s t c .window = false) (hj : touches s t c .journal = false) (hm : s.inputs.maintActive = true) :
    verdict s t c = .accepted := by
  rw [verdict_ready hp h, if_neg hc, hw, hj, hm]
  simp

/-- The marks of the segment buffers after a program (R171). -/
def programmedSegments (s : State) (t : Txn) : Vector Segment 8 :=
  if touches s t .program .config then (invalidateWritten s t).capture.segments else s.capture.segments

/-- The marks of the segment buffers after an erase (R171). -/
def erasedSegments (s : State) (t : Txn) (c : CmdClass) : Vector Segment 8 :=
  if touches s t c .config then (invalidateAll s).capture.segments else s.capture.segments

theorem commitProgram_guarded {s : State} {t : Txn} (hj : touches s t .program .journal = false) :
    commitProgram s t = { s with
      journal := { s.journal with prog := some ⟨commitKindOf s t .program, t.page, 0, [], s.now + ms s.cfg.tPc⟩ }
      capture := { s.capture with segments := programmedSegments s t } } := by
  unfold commitProgram programmedSegments
  rw [hj]
  simp only [Bool.false_eq_true, if_false]
  split <;> rfl

theorem commitErase_guarded {s : State} {t : Txn} {c : CmdClass} (hj : touches s t c .journal = false) :
    commitErase s t c = { s with
      journal := { s.journal with
        erase := some ⟨commitKindOf s t c, (spanOf t c).1, (spanOf t c).2, none, false, .running (s.now + ms s.cfg.tEc)⟩ }
      capture := { s.capture with segments := erasedSegments s t c } } := by
  unfold commitErase erasedSegments
  rw [hj]
  simp only [Bool.false_eq_true, if_false]
  split <;> rfl

theorem programmedSegments_get (s : State) (t : Txn) (j : Fin 8) : (programmedSegments s t)[j] = ⟨s.capture.segments[j].valid
    && !(touches s t .program .config && (decide (t.page = s.cfgBase) && ((t.image.drop (32 * j.val)).take 32).any Option.isSome)),
    s.capture.segments[j].bytes⟩ := by
  unfold programmedSegments
  cases touches s t .program .config with
  | false => simp
  | true =>
    simp only [if_true, invalidateWritten, Bool.true_and, Fin.getElem_fin, Vector.getElem_ofFn]
    cases decide (t.page = s.cfgBase) && ((t.image.drop (32 * j.val)).take 32).any Option.isSome <;> simp

theorem erasedSegments_get (s : State) (t : Txn) (c : CmdClass) (j : Fin 8) :
    (erasedSegments s t c)[j] = ⟨s.capture.segments[j].valid && !touches s t c .config, s.capture.segments[j].bytes⟩ := by
  unfold erasedSegments
  cases touches s t c .config with
  | false => simp
  | true => simp [invalidateAll]

/-- Settles O32: the program is accepted out of IDLE or beside a suspended erase, and `commitProgram_guarded` names its commit. -/
theorem guardedProgramAccepted : Obligations.GuardedProgramAccepted := by
  intro dt r s t k ht hcls hr hn hk hkind hmaint hwel hstate
  have htouch (x : RegionKind) : touches s t .program x = (k == x) := by rw [touches_single (.inl rfl), hkind]
  have hp : isProtected s t .program = true :=
    isProtected_iff.mpr ⟨k, by rcases hk with rfl | rfl <;> nofun, by rw [htouch]; exact beq_self_eq_true k⟩
  have hj : touches s t .program .journal = false := by rw [htouch]; rcases hk with rfl | rfl <;> rfl
  have hwin : touches s t .program .window = false := by rw [htouch]; rcases hk with rfl | rfl <;> rfl
  have hready : Ready s t .program := by
    rcases hstate with ⟨hm, hprog, herase⟩ | ⟨hm, hway⟩
    · exact ready_idle hm hwel hprog herase
    · exact ⟨by rw [hm]; nofun, hwel, hway⟩
  have hv := verdict_maintained (s := s.advance dt) hp hready nofun hwin hj hmaint
  have hexec := exec_accepted_write (r := r) (by decide) ht hcls hr ⟨fun _ => by omega, fun _ => hn⟩ hj hv
  have hmirror : (if s.mirror.state = .eraseSuspended then MirrorState.busyProgramInSuspend else .busyProgram)
      = if s.mirror.state = .idle then .busyProgram else .busyProgramInSuspend := by
    rcases hstate with ⟨hm, _⟩ | ⟨hm, _⟩ <;> rw [hm] <;> rfl
  have hforward : forwardWrite (s.advance dt) t .program r = commitProgram
      (released s dt r (if s.mirror.state = .idle then .busyProgram else .busyProgramInSuspend)) t := by
    have hp' : isProtected (s.advance dt) t .program = true := hp
    rw [← hmirror]
    unfold forwardWrite
    simp only [hp', if_true]
    rfl
  have hcommit : commitKindOf s t .program = k := by
    unfold commitKindOf
    rw [htouch]
    rcases hk with rfl | rfl <;> rfl
  refine ⟨programmedSegments s t, ?_, fun j => ?_⟩
  · refine hexec.trans (congrArg _ ?_)
    rw [hforward, commitProgram_guarded (by exact hj), ← hcommit]
    rfl
  · rw [programmedSegments_get, htouch, ← Bool.and_assoc]
    rfl

/-- Settles O33: with nothing pending the erase is accepted, and `commitErase_guarded` names its commit. -/
theorem guardedEraseAccepted : Obligations.GuardedEraseAccepted := by
  intro c dt r s t base size hspan ht hcls hr hn htouch hwin hj hmaint hm hwel hprog herase
  have hc : c ∈ [CmdClass.erase4k, .erase64k, .eraseAll] ∧ c ≠ .eraseAll ∧ c ≠ .program ∧ spanOf t c = (base, size) := by
    rcases hspan with ⟨rfl, rfl, rfl⟩ | ⟨rfl, rfl, rfl⟩ <;> exact ⟨by decide, nofun, nofun, rfl⟩
  obtain ⟨hclass, hall, hprogram, hbase⟩ := hc
  have hp : isProtected s t c = true := by
    rcases htouch with h | h
    · exact isProtected_iff.mpr ⟨.config, nofun, h⟩
    · exact isProtected_iff.mpr ⟨.guarded, nofun, h⟩
  have hv := verdict_maintained (s := s.advance dt) hp (ready_idle hm hwel hprog herase) hall hwin hj hmaint
  have hexec := exec_accepted_erase (r := r) hclass ht hcls hr ⟨fun _ => hn, fun h => absurd h hprogram⟩ hv
  have hforward : forwardWrite (s.advance dt) t c r = commitErase (released s dt r .busyErase) t c := by
    have hp' : isProtected (s.advance dt) t c = true := hp
    unfold forwardWrite releasedMirror
    simp only [hp', if_true, hprogram, if_false]
    rfl
  refine ⟨erasedSegments s t c, ?_, fun j => erasedSegments_get s t c j⟩
  refine hexec.trans (congrArg _ ?_)
  rw [hforward, commitErase_guarded (by exact hj), hbase]
  rfl

end Sys2Proof.Claims

/-! The check word and the judgement of a slot by its eight bytes (R128, R180): O37. -/

namespace Sys2Proof.Claims

open Sys2Proof Sys2Proof.Machine

/-! ## The halves of a word -/

theorem halfOf_hi_lo (w : Half) : halfOf (hi w) (lo w) = w := by
  have hw := w.isLt
  rw [halfOf_eq_iff, hi, lo, BitVec.toNat_setWidth, BitVec.toNat_setWidth, BitVec.toNat_ushiftRight, Nat.shiftRight_eq_div_pow]
  omega

/-! ## The check -/

/-- R180: the bit that leaves the register decides with the bit that comes whether the polynomial goes in. -/
theorem crcBit_eq_shifted (r : Half) (bit : Bool) : crcBit r bit = shifted r bit := by
  unfold crcBit shifted
  rw [BitVec.msb_eq_getLsbD_last]
  cases bit <;> cases r.getLsbD 15 <;> rfl

theorem crcByte_eq_shifted (r : Half) (b : Byte) :
    crcByte r b = [7, 6, 5, 4, 3, 2, 1, 0].foldl (fun r k => shifted r (b.getLsbD k)) r := by
  simp only [crcByte, crcBit_eq_shifted]

theorem crc16_append_byte (bs : List Byte) (b : Byte) : crc16 (bs ++ [b]) = crcByte (crc16 bs) b :=
  List.foldl_concat ..

/-! ## Slots -/

/-- R128: the marker tells a record from an erased slot. -/
theorem judgeSlot_of_marker {bs : List Byte} (h : byteAt bs 0 = 0xA5) :
    judgeSlot bs = if checkOk bs then .record (recordFields bs) else .corrupt := by
  have hall : bs.all (· == 0xFF) = false := by
    cases bs with
    | nil => exact absurd h (by decide)
    | cons b bs =>
      have hb : b = 0xA5 := h
      rw [hb]
      rfl
  unfold judgeSlot
  rw [hall, h]
  rfl

/-- R128: eight bytes that are neither erased nor a record. -/
theorem judgeSlot_eq_corrupt {bs : List Byte} (hlength : bs.length = 8) (herased : bs ≠ List.replicate 8 0xFF)
    (hrecord : ¬ (byteAt bs 0 = 0xA5 ∧ checkOk bs = true)) : judgeSlot bs = .corrupt := by
  have hall : ¬ bs.all (· == 0xFF) = true := fun h =>
    herased (List.eq_replicate_iff.mpr ⟨hlength, fun b hb => beq_iff_eq.mp (List.all_eq_true.mp h b hb)⟩)
  have hmarked : ¬ (byteAt bs 0 == 0xA5 && checkOk bs) = true := by rwa [Bool.and_eq_true, beq_iff_eq]
  unfold judgeSlot
  rw [if_neg hall, if_neg hmarked]

/-- R180: the check stands in the last two of the eight bytes, its high byte first. -/
theorem checkOk_iff (b₀ b₁ b₂ b₃ b₄ b₅ b₆ b₇ : Byte) : checkOk [b₀, b₁, b₂, b₃, b₄, b₅, b₆, b₇] = true ↔
    256 * b₆.toNat + b₇.toNat = (crc16 [b₀, b₁, b₂, b₃, b₄, b₅]).toNat :=
  decide_eq_true_iff.trans (halfOf_eq_iff ..)

theorem recordFields_eq (b₀ b₁ b₂ b₃ b₄ b₅ b₆ b₇ : Byte) : recordFields [b₀, b₁, b₂, b₃, b₄, b₅, b₆, b₇]
    = ⟨b₁, b₂, b₃, BitVec.ofNat 16 (256 * b₄.toNat + b₅.toNat)⟩ := by
  rw [Nat.mul_comm]
  rfl

/-! ## The bytes of a record -/

theorem checkOk_recordBytes (r : Record) : checkOk (Record.bytes r) = true := decide_eq_true (halfOf_hi_lo _)

theorem recordFields_recordBytes (r : Record) : recordFields (Record.bytes r) = r :=
  congrArg (Record.mk r.str r.disp r.mask) (halfOf_hi_lo r.seq)

theorem judgeSlot_recordBytes (r : Record) : judgeSlot (Record.bytes r) = .record r := by
  rw [judgeSlot_of_marker rfl, if_pos (checkOk_recordBytes r), recordFields_recordBytes]

/-- Settles O37: the register's step is `crcBit_eq_shifted`, and a slot is judged by its marker and its check. -/
theorem slotsAreJudged : Obligations.SlotsAreJudged := by
  refine ⟨rfl, fun bs b => ?_, by decide, fun b₀ b₁ b₂ b₃ b₄ b₅ b₆ b₇ => ⟨?_, fun hbad herased => ?_⟩,
    fun r => ⟨rfl, judgeSlot_recordBytes r⟩⟩
  · rw [crc16_append_byte, crcByte_eq_shifted]
  · rintro ⟨hmarker, hcheck⟩
    rw [judgeSlot_of_marker (by exact hmarker), if_pos ((checkOk_iff ..).mpr hcheck), recordFields_eq]
  · exact judgeSlot_eq_corrupt rfl herased fun ⟨hmarker, hcheck⟩ => hbad ⟨hmarker, (checkOk_iff ..).mp hcheck⟩

end Sys2Proof.Claims

/-! The records of the status window, byte by byte (R159 to R165, 10.5 to 10.7): O19. -/

namespace Sys2Proof.Claims

open Sys2Proof Sys2Proof.Machine

/-! ## Fields of several bytes -/

theorem hi_eq (w : Half) : hi w = BitVec.ofNat 8 (w.toNat / 256) := by
  apply BitVec.eq_of_toNat_eq
  rw [hi, BitVec.toNat_setWidth, BitVec.toNat_ushiftRight, Nat.shiftRight_eq_div_pow, BitVec.toNat_ofNat]

theorem lo_eq (w : Half) : lo w = BitVec.ofNat 8 w.toNat := rfl

/-- The halves of a word in a row of bytes are its field of two bytes. -/
theorem hi_lo_cons (w : Half) (bs : List Byte) : hi w :: lo w :: bs = wide16 w.toNat ++ bs := by
  rw [hi_eq, lo_eq]
  rfl

theorem hi_lo_eq (w : Half) : [hi w, lo w] = wide16 w.toNat := hi_lo_cons w []

/-- A field of two bytes shows a number by its low 16 bits (log 27). -/
theorem be16_eq (n : Nat) : be16 n = wide16 n := by
  have hhigh : BitVec.ofNat 8 (n % 65536 / 256) = BitVec.ofNat 8 (n / 256) := by
    apply BitVec.eq_of_toNat_eq
    rw [BitVec.toNat_ofNat, BitVec.toNat_ofNat]
    omega
  have hlow : BitVec.ofNat 8 (n % 65536) = BitVec.ofNat 8 n := by
    apply BitVec.eq_of_toNat_eq
    rw [BitVec.toNat_ofNat, BitVec.toNat_ofNat]
    omega
  rw [be16, hi_lo_eq, BitVec.toNat_ofNat, wide16, wide16, hhigh, hlow]

theorem be24_eq (n : Nat) : be24 n = wide24 n := rfl

theorem be16s_eq (n : Int) : be16s n = wideInt n := by
  rw [be16s, hi_lo_eq, BitVec.toNat_ofInt]
  rfl

theorem length_wide16 (n : Nat) : (wide16 n).length = 2 := rfl

theorem length_wide24 (n : Nat) : (wide24 n).length = 3 := rfl

theorem length_wideInt (n : Int) : (wideInt n).length = 2 := rfl

/-! ## Fields with a value for none -/

theorem refusalByte_eq (c : Option RefusalCode) : refusalByte c = codeOr0 c := by cases c <;> rfl

theorem strByte_eq (i : Option Str) : strByte i = stringOrFF i := by cases i <;> rfl

theorem flagByte_eq (b : Bool) : flagByte b = mark b := rfl

/-! ## Fields of bits -/

/-- A mark at a bit of a field is the mark's own value at that bit, and clear elsewhere. -/
theorem getLsbD_markAt {n k : Nat} (b : Bool) (j : Nat) (hk : k < n) :
    (if b then BitVec.ofNat n (2 ^ j) else 0).getLsbD k = (b && decide (j = k)) := by
  cases b with
  | false => exact BitVec.getLsbD_zero
  | true => rw [if_pos rfl, BitVec.getLsbD_ofNat, Nat.testBit_two_pow, decide_eq_true hk]

theorem anyPresent_iff {s : State} {p : Str → Bool} {q : Str → Prop} (h : ∀ i, p i = true ↔ q i) :
    anyPresent s p = true ↔ SomePresent s q := by
  simp only [anyPresent, allStrings, List.any_eq_true, List.mem_finRange, true_and, Bool.and_eq_true, isPresent_iff, h, SomePresent]

/-- R165: the attention reasons that hold, from bit 0 on. -/
def reasonMarks (s : State) : List Bool :=
  [unrecordedReason s, failedReason s, damagedReason s, s.capture.state == .bad,
    s.journal.state == .notAdopted && s.capture.adopted, s.journal.state == .doubtful, s.journal.state == .inconsistent,
    s.search.attn, s.iso.fault]

theorem getLsbD_attentionReasons (s : State) (k : Nat) : (attentionReasons s).getLsbD k = (reasonMarks s).getD k false := by
  rcases Nat.lt_or_ge k 16 with hk | hk
  · simp only [attentionReasons, reasonBit, BitVec.getLsbD_or, getLsbD_markAt _ _ hk]
    interval_cases k <;> simp [reasonMarks]
  · rw [BitVec.getLsbD_of_ge _ _ hk, List.getD_eq_default _ _ (le_trans (by decide : (9 : Nat) ≤ 16) hk)]

theorem unrecordedReason_iff (s : State) : unrecordedReason s = true ↔ SomePresent s fun i => s.table[i].coherence = .unrecorded :=
  anyPresent_iff fun _ => beq_iff_eq

theorem failedReason_iff (s : State) : failedReason s = true ↔ SomePresent s fun i => s.seqs[i].state = .failed :=
  anyPresent_iff fun _ => beq_iff_eq

theorem damagedReason_iff (s : State) : damagedReason s = true ↔ SomePresent s fun i => s.table[i].damaged = true :=
  anyPresent_iff fun _ => Iff.rfl

theorem reasons_attentionReasons (s : State) : Reasons s (attentionReasons s) where
  unrecorded := by
    rw [getLsbD_attentionReasons]
    exact unrecordedReason_iff s
  failed := by
    rw [getLsbD_attentionReasons]
    exact failedReason_iff s
  damaged := by
    rw [getLsbD_attentionReasons]
    exact damagedReason_iff s
  bad := by
    rw [getLsbD_attentionReasons]
    exact beq_iff_eq
  notAdopted := by
    rw [getLsbD_attentionReasons]
    exact Bool.and_eq_true_iff.trans (and_congr_left' beq_iff_eq)
  doubtful := by
    rw [getLsbD_attentionReasons]
    exact beq_iff_eq
  inconsistent := by
    rw [getLsbD_attentionReasons]
    exact beq_iff_eq
  search := getLsbD_attentionReasons s 7
  monitor := getLsbD_attentionReasons s 8
  rest k hk := (getLsbD_attentionReasons s k).trans (List.getD_eq_default _ _ hk)

/-- The marks of the flags byte, from bit 0 on (10.5). -/
def flagMarks (s : State) : List Bool :=
  [s.inputs.shdnRaw, s.inputs.maintActive, s.inputs.shdnActive, backupTrip s, s.capture.deferred, s.scan.median.isSome, s.iso.fault,
    eraseRuns s]

theorem getLsbD_boxFlags (s : State) {k : Nat} (hk : k < 8) : (boxFlags s).getLsbD k = (flagMarks s).getD k false := by
  simp only [boxFlags, BitVec.getLsbD_or, getLsbD_markAt _ _ hk]
  interval_cases k <;> simp [flagMarks]

theorem eraseRuns_iff (s : State) : eraseRuns s = true ↔ ∃ e x, s.journal.erase = some e ∧ e.timer = .running x := by
  unfold eraseRuns
  cases s.journal.erase with
  | none => simp
  | some e => cases h : e.timer <;> simp [h]

theorem backupTrip_iff (s : State) : backupTrip s = true ↔ s.cfg.optBtrip = true
    ∧ SomePresent s fun i => s.seqs[i].state = .failed ∧ CauseSet.has s.evid[i].present .weld = true :=
  Bool.and_eq_true_iff.trans (and_congr_right' (anyPresent_iff fun _ => Bool.and_eq_true_iff.trans (and_congr_left' beq_iff_eq)))

theorem flags_boxFlags (s : State) : Flags s (boxFlags s) where
  shdn := getLsbD_boxFlags s (by decide)
  maint := getLsbD_boxFlags s (by decide)
  shutdown := getLsbD_boxFlags s (by decide)
  btrip := by
    rw [getLsbD_boxFlags s (by decide)]
    exact backupTrip_iff s
  deferred := getLsbD_boxFlags s (by decide)
  median := getLsbD_boxFlags s (by decide)
  monitor := getLsbD_boxFlags s (by decide)
  erase := by
    rw [getLsbD_boxFlags s (by decide)]
    exact eraseRuns_iff s

/-! ## The fields of the journal -/

theorem progBytes_eq (s : State) : progBytes s = programField s := by
  unfold progBytes programField
  cases s.journal.prog <;> rfl

theorem eraseBytes_eq (s : State) : eraseBytes s = eraseField s := by
  unfold eraseBytes eraseField
  cases s.journal.erase with
  | none => rfl
  | some e => exact congrArg (RegionKind.code e.kind :: be24 e.base ++ ·) (be16_eq _)

theorem length_programField (s : State) : (programField s).length = 6 := by
  unfold programField
  cases s.journal.prog <;> rfl

theorem length_eraseField (s : State) : (eraseField s).length = 6 := by
  unfold eraseField
  cases s.journal.erase <;> rfl

/-- Offsets 16 to 23 of the box record (R161). -/
def sectorField (s : State) : List Byte := (upTo 8).map (sectorByte s)

theorem length_sectorField (s : State) : (sectorField s).length = 8 := rfl

theorem getElem?_sectorField (s : State) {k : Nat} (hk : k < 8) : (sectorField s)[k]? = some (sectorByte s k) := by
  rw [sectorField, upTo, List.getElem?_map, List.getElem?_range hk]
  rfl

theorem sectorField_of_sector {s : State} {k : Nat} {y : Sector} (hk : k < 8) (hring : k < ringSectors s)
    (hy : s.journal.sectors[k]? = some y) : (sectorField s)[k]? = some y.state.code := by
  rw [getElem?_sectorField s hk, sectorByte, if_pos hring, sectorAt_eq hy]

/-- A sector at or above S is ABSENT (R161). -/
theorem sectorField_of_absent {s : State} {k : Nat} (hk : k < 8) (hring : ringSectors s ≤ k) : (sectorField s)[k]? = some 0xFF := by
  rw [getElem?_sectorField s hk, sectorByte, if_neg (Nat.not_lt.mpr hring)]

/-! ## The records -/

theorem boxRecord_eq (s : State) : boxRecord s =
    [0x24, 0x40, 0x01, s.capture.state.code, s.journal.state.code, boxFlags s]
      ++ wide16 (attentionReasons s).toNat ++ wide16 s.journal.head ++ wide16 s.journal.nextSeq.toNat
      ++ [BitVec.ofNat 8 (tailSector s), s.mirror.state.code, s.mirror.wel.code, 0x00]
      ++ sectorField s ++ programField s ++ eraseField s
      ++ [codeOr0 s.mirror.lastRefusal.code, stringOrFF s.mirror.lastRefusal.str, CmdClass.code s.mirror.lastRefusal.cls]
      ++ wide24 s.mirror.lastRefusal.addr
      ++ [s.journal.outcome.kind.code, s.journal.outcome.result.code] ++ wide24 s.journal.outcome.addr
      ++ [s.search.phase.code] ++ wide16 s.scan.boxScan.toNat ++ wide16 s.scan.bus ++ wideInt (s.scan.median.getD (-32768))
      ++ wide16 s.iso.value ++ [s.iso.status.code, s.search.result.code, BitVec.ofNat 8 s.search.suspects.length]
      ++ wide16 s.search.steps
      ++ [stringOrFF s.search.found, BitVec.ofNat 8 (grantsInUse s), BitVec.ofNat 8 s.arb.queue.length] := by
  rw [boxRecord, ← sectorField, progBytes_eq, eraseBytes_eq]
  simp only [hi_lo_cons, be16_eq, be24_eq, be16s_eq, refusalByte_eq, strByte_eq, List.append_assoc, List.cons_append, List.nil_append]

theorem length_boxRecord (s : State) : (boxRecord s).length = 64 := by
  simp only [boxRecord_eq, List.length_append, List.length_cons, List.length_nil, length_wide16, length_wide24, length_wideInt,
    length_sectorField, length_programField, length_eraseField]

theorem stringRecord_of_present {s : State} {i : Str} (hi : i.val < s.cfg.stringCount) : stringRecord s i =
    [BitVec.ofNat 8 i.val, 0x01, s.table[i].recorded.code, s.table[i].target.code, s.seqs[i].state.code,
      s.table[i].coherence.code, s.evid[i].latched, s.evid[i].present, s.evid[i].noted, codeOr0 s.table[i].lastRefusal]
    ++ wide16 (s.table[i].liveSlot.getD 0xFFFF) ++ [mark s.table[i].damaged, s.table[i].role.code]
    ++ wideInt s.meas[i].current ++ [mark s.meas[i].saturated] ++ wide16 s.meas[i].voltage ++ wide16 s.meas[i].scan.toNat
    ++ [BitVec.ofNat 8 s.seqs[i].probation, BitVec.ofNat 8 s.seqs[i].qual, BitVec.ofNat 8 s.evid[i].revCount,
      BitVec.ofNat 8 s.evid[i].ovcCount, BitVec.ofNat 8 s.evid[i].devWindows, 0, 0, 0, 0, 0, 0] := by
  rw [stringRecord, if_pos (isPresent_iff.mpr hi)]
  simp only [hi_lo_eq, be16_eq, be16s_eq, refusalByte_eq, flagByte_eq, List.append_assoc, List.cons_append, List.nil_append]
  rfl

theorem stringRecord_of_absent {s : State} {i : Str} (hi : s.cfg.stringCount ≤ i.val) :
    stringRecord s i = BitVec.ofNat 8 i.val :: List.replicate 31 0x00 := by
  rw [stringRecord, if_neg (isPresent_iff.not.mpr (Nat.not_lt.mpr hi))]

theorem length_stringRecord (s : State) (i : Str) : (stringRecord s i).length = 32 := by
  rcases Nat.lt_or_ge i.val s.cfg.stringCount with hi | hi
  · rw [stringRecord_of_present hi]
    rfl
  · rw [stringRecord_of_absent hi]
    rfl

/-! ## The code values -/

theorem codeValues : CodeValues where
  causes := rfl
  classes := rfl
  kinds := rfl
  configs := rfl
  journals := rfl
  sectors := rfl
  mirrors := rfl
  latches := rfl
  switches := rfl
  entries := ⟨rfl, rfl, rfl, rfl⟩
  results := ⟨rfl, rfl, rfl⟩
  commits := ⟨rfl, rfl⟩
  refusals := ⟨rfl, rfl, rfl, rfl⟩

/-- Settles O19: the box record is `boxRecord_eq`, with the tail that `isTail_iff` names, and a string's record is the one of a present
or of an absent string. -/
theorem windowRecords : Obligations.WindowRecords := by
  refine ⟨codeValues, fun s => ⟨?_, fun i => ⟨length_stringRecord s i, stringRecord_of_present, stringRecord_of_absent⟩⟩⟩
  exact ⟨boxFlags s, attentionReasons s, tailSector s, sectorField s, flags_boxFlags s, reasons_attentionReasons s,
    (isTail_iff s _).mpr rfl, length_sectorField s, fun _ _ => sectorField_of_sector, fun _ => sectorField_of_absent, boxRecord_eq s,
    length_boxRecord s⟩

end Sys2Proof.Claims

/-! The queue of commands (O1, O2): the command at its front runs, and every command answers a next state once its time has passed. -/

namespace Sys2Proof.Machine

/-! ## The clock and the queue of commands -/

/-- `t` stands at the time of `s` and has its queue of commands. -/
structure SameClock (s t : State) : Prop where
  now     : t.now = s.now := by rfl
  pending : t.pending = s.pending := by rfl

theorem SameClock.refl (s : State) : SameClock s s := {}

theorem SameClock.trans {a b c : State} (h : SameClock a b) (k : SameClock b c) : SameClock a c :=
  ⟨k.now.trans h.now, k.pending.trans h.pending⟩

theorem SameClock.ite {s a b : State} {p : Prop} [Decidable p] (ha : SameClock s a) (hb : SameClock s b) :
    SameClock s (if p then a else b) := by
  split
  · exact ha
  · exact hb

theorem Keeps.sameClock {s t : State} (h : Keeps s t) : SameClock s t := ⟨h.now, h.pending⟩

/-- The end of an event takes no time and moves no command. -/
theorem SameClock.finish {s t : State} (h : SameClock s t) (s₀ : State) : SameClock s (finish s₀ t) :=
  h.trans (keeps_finish s₀ t).sameClock

/-- An event that occurs where its condition holds; where it does not hold, nothing happens (log 2). -/
theorem SameClock.due {s t : State} (h : SameClock s t) (s₀ : State) (p : Prop) [Decidable p] :
    SameClock s (if p then Machine.finish s₀ t else s) :=
  .ite (h.finish s₀) (.refl s)

/-! ## The rows of the bus -/

theorem sameClock_unforwarded (s : State) (xs : List Xfer) (rel : Option Release) : SameClock s (unforwarded s xs rel) := by
  cases rel with
  | none => exact {}
  | some r => exact {}

theorem sameClock_latchNext (s : State) (t : Txn) : SameClock s (latchNext s t) := by
  obtain ⟨w, hw, _⟩ := latchNext_spec s t
  rw [hw]
  exact {}

theorem sameClock_exchange (s : State) (t : Txn) (x : Xfer) (b : Byte) : SameClock s ((s.setTxn t).exchange x b) := {}

theorem sameClock_passRead (s : State) (t : Txn) (x : Xfer) (b : Byte) : SameClock s (passRead s t x b) :=
  (sameClock_exchange s t x b).trans (sameClock_latchNext _ _)

theorem sameClock_readByte (s : State) (x : Xfer) : SameClock s (readByte s x) := by
  unfold readByte dataByte
  split
  · exact .refl s
  · exact .ite {} (.ite (sameClock_passRead ..) (.ite {} (.ite (sameClock_passRead ..) (sameClock_passRead ..))))

theorem sameClock_statusByte (s : State) (x : Xfer) : SameClock s (statusByte s x) := by
  unfold statusByte
  split
  · exact .refl s
  · next t _ => exact ((keeps_observe s t.cfg x.miso).sameClock.finish s).trans (sameClock_exchange ..)

theorem sameClock_passByte (s : State) (x : Xfer) : SameClock s (passByte s x) := by
  unfold passByte
  split
  · exact .refl s
  · exact {}

theorem sameClock_programByte (s : State) (x : Xfer) : SameClock s (programByte s x) := by
  unfold programByte
  split
  · exact .refl s
  · exact {}

theorem sameClock_eraseByte (s : State) (x : Xfer) : SameClock s (eraseByte s x) := by
  unfold eraseByte
  split
  · exact .refl s
  · exact {}

/-! ## The releases -/

theorem sameClock_release (s : State) (r : Release) (b : Byte) (e : MemEnd) : SameClock s (s.release r b e) := {}

theorem sameClock_endRead (s : State) (t : Txn) (r : Release) : SameClock s (endRead s t r) :=
  ((sameClock_release s r (readTail s t r) .asSent).trans (keeps_readEffects _ t).sameClock).finish s

theorem sameClock_setWel (s : State) (w : Wel) : SameClock s (s.setWel w) := {}

theorem sameClock_wrenMirror (s : State) : SameClock s (wrenMirror s) := by
  unfold wrenMirror
  split
  all_goals exact {}

theorem sameClock_resumeMirror (s : State) : SameClock s (resumeMirror s) := by
  unfold resumeMirror
  split
  · exact ((keeps_resumeErase s).trans (keeps_mirrorTo _ _)).sameClock
  all_goals exact .refl s

/-- A command without an address costs no time if its effect costs none. -/
theorem sameClock_endPlain {effect : State → State} (heffect : ∀ s, SameClock s (effect s)) (s : State) (t : Txn) (r : Release) :
    SameClock s (endPlain effect s t r) :=
  .ite ((sameClock_release s r r.x.miso .asSent).trans (heffect _)) {}

theorem sameClock_refuse (s : State) (t : Txn) (c : CmdClass) (r : Release) (code : RefusalCode) (str : Option Str) :
    SameClock s (refuse s t c r code str) := by
  cases str with
  | none => exact {}
  | some i => exact {}

theorem sameClock_forwardWrite (s : State) (t : Txn) (c : CmdClass) (r : Release) : SameClock s (forwardWrite s t c r) := by
  have hreleased : SameClock s (releasedMirror (s.release r r.x.miso .asSent) (isProtected s t c) c) := {}
  have hprogram := hreleased.trans (keeps_commitProgram _ t).sameClock
  have herase := hreleased.trans (keeps_commitErase _ t c).sameClock
  exact .ite (.ite hprogram herase) hreleased

theorem sameClock_endWrite (c : CmdClass) (s : State) (t : Txn) (r : Release) : SameClock s (endWrite c s t r) := by
  unfold endWrite
  split
  · split
    · exact sameClock_refuse ..
    · exact sameClock_forwardWrite ..
  · exact {}

theorem sameClock_endProgram (s : State) (t : Txn) (r : Release) : SameClock s (endProgram s t r) :=
  .ite ((sameClock_forwardWrite s t .program r).finish s) (sameClock_endWrite .program s t r)

theorem sameClock_endBlock (s : State) (t : Txn) (r : Release) : SameClock s (endBlock s t r) :=
  .ite (sameClock_release ..) (sameClock_refuse ..)

/-! ## Every command -/

/-- The outcome is a next state, at the time of `s` and with its queue of commands. -/
def AnswersNext (s : State) (o : Host.Outcome State Fault Refusal) : Prop := ∃ u, o = .next u ∧ SameClock s u

theorem SameClock.answers {s u : State} (h : SameClock s u) : AnswersNext s (.next u) := ⟨u, rfl, h⟩

/-- A bus row keeps the clock and the queue if its bytes and its release do. -/
theorem answersNext_row {mine : Option CmdClass → Bool} {byte : State → Xfer → State} {finally_ : State → Txn → Release → State}
    (bytes : ∀ s x, SameClock s (byte s x)) (ends : ∀ s t r, SameClock s (finally_ s t r)) (s : State) (xs : List Xfer)
    (rel : Option Release) : AnswersNext s (.next (busCommand s mine xs rel byte finally_)) :=
  (busCommand_rel SameClock.refl SameClock.trans (fun s xs rel _ => sameClock_unforwarded s xs rel) bytes (fun s t r _ => ends s t r)
    s xs rel).answers

section commands
variable (s : State) (dt : Nat)

theorem answersNext_chipSelectAssert (code : Option Xfer) : AnswersNext (s.advance dt) (execChipSelectAssert dt code s) :=
  (SameClock.ite {} {}).answers

theorem answersNext_resetDriveEnd (i : Str) : AnswersNext (s.advance dt) (execResetDriveEnd dt i s) := by
  unfold execResetDriveEnd
  simp only
  split
  · exact (SameClock.refl _).answers
  · next _ _ => exact (SameClock.ite {} (.ite {} (.refl _))).answers

theorem answersNext_scanCompletion (xs : Vector Sample 24) (bus : Int) : AnswersNext (s.advance dt) (execScanCompletion dt xs bus s) := by
  unfold execScanCompletion
  simp only
  split
  · exact (SameClock.refl _).answers
  · next job _ => exact ((keeps_completeScan _ job xs bus).sameClock.due _ _).answers

theorem answersNext_insulationCompletion (kohm : Nat) (inBand : Bool) :
    AnswersNext (s.advance dt) (execInsulationCompletion dt kohm inBand s) := by
  unfold execInsulationCompletion
  simp only
  split
  · exact (SameClock.refl _).answers
  · next job _ =>
    have hresult := (keeps_writeIso (s.advance dt) job kohm inBand).trans (keeps_startIso _)
    exact ((hresult.trans (keeps_searchOnCompletion _)).sameClock.due _ _).answers

theorem answersNext_shutdownRelease : AnswersNext (s.advance dt) (execShutdownRelease dt s) :=
  (((keeps_latchSnapshot _).trans (keeps_inputs _ _)).sameClock.due _ _).answers

theorem answersNext_closeSettleEnd (i : Str) : AnswersNext (s.advance dt) (execCloseSettleEnd dt i s) := by
  unfold execCloseSettleEnd
  simp only
  split
  · exact (SameClock.refl _).answers
  · next a _ => exact (SameClock.ite (keeps_pulse _ i a).sameClock (.refl _)).answers

theorem answersNext_openSettleEnd (i : Str) : AnswersNext (s.advance dt) (execOpenSettleEnd dt i s) := by
  unfold execOpenSettleEnd
  simp only
  split
  · exact (SameClock.refl _).answers
  · next a _ => exact (SameClock.ite (keeps_pulse _ i a).sameClock (.refl _)).answers

theorem answersNext_retryWaitEnd (i : Str) : AnswersNext (s.advance dt) (execRetryWaitEnd dt i s) := by
  unfold execRetryWaitEnd
  simp only
  split
  · exact (SameClock.refl _).answers
  · next a _ => exact (SameClock.ite (keeps_pulse _ i a).sameClock (.refl _)).answers

theorem answersNext_coilPulseEnd (i : Str) : AnswersNext (s.advance dt) (execCoilPulseEnd dt i s) := by
  unfold execCoilPulseEnd
  simp only
  split
  · exact (SameClock.refl _).answers
  · next a _ => exact ((keeps_endPulse _ i a).sameClock.due _ _).answers

theorem answersNext_feedbackLineChange (i : Str) (closed : Bool) :
    AnswersNext (s.advance dt) (execFeedbackLineChange dt i closed s) := by
  have hline : SameClock (s.advance dt) { s.advance dt with lines := s.lines.set i closed } := {}
  unfold execFeedbackLineChange
  simp only
  split
  · exact (SameClock.refl _).answers
  · split
    · exact hline.answers
    · next a _ =>
      have hseen := hline.trans (keeps_feedbackSeen _ i a).sameClock
      exact (SameClock.ite (.ite hseen (hseen.finish _)) hline).answers

theorem answersNext_closeTravelExpiry (i : Str) : AnswersNext (s.advance dt) (execCloseTravelExpiry dt i s) := by
  unfold execCloseTravelExpiry
  simp only
  split
  · exact (SameClock.refl _).answers
  · next _ _ => exact ((SameClock.ite (keeps_actuate _ i _).sameClock (keeps_failClose _ i).sameClock).due _ _).answers

theorem answersNext_openTravelExpiry (i : Str) : AnswersNext (s.advance dt) (execOpenTravelExpiry dt i s) := by
  unfold execOpenTravelExpiry
  simp only
  split
  · exact (SameClock.refl _).answers
  · next a _ =>
    have hfailed := (keeps_failSwitch (s.advance dt) i).sameClock
    have hwaits := (keeps_retryWait (s.advance dt) i a).sameClock
    exact ((SameClock.ite (keeps_actuate _ i _).sameClock (.ite hfailed hwaits)).due _ _).answers

theorem answersNext_grantReturn (i : Str) : AnswersNext (s.advance dt) (execGrantReturn dt i s) := by
  unfold execGrantReturn
  simp only
  split
  · exact ((keeps_setSeq _ i _).sameClock.due _ _).answers
  · exact (SameClock.refl _).answers
  · exact (SameClock.refl _).answers

theorem answersNext_programCommitTimeout : AnswersNext (s.advance dt) (execProgramCommitTimeout dt s) := by
  unfold execProgramCommitTimeout
  simp only
  split
  · exact (SameClock.refl _).answers
  · next _ _ => exact ((keeps_programTimeout _).sameClock.due _ _).answers

theorem answersNext_eraseCommitTimeout : AnswersNext (s.advance dt) (execEraseCommitTimeout dt s) := by
  unfold execEraseCommitTimeout
  simp only
  split
  · exact (SameClock.refl _).answers
  · next _ _ => exact (SameClock.ite ((keeps_failErase _ _).trans (keeps_mirrorTo _ _)).sameClock (.refl _)).answers

/-- Every command answers a next state, when its time has passed and with the queue of commands as it was. -/
theorem answersNext_exec (c : Instr) : AnswersNext (s.advance c.elapsed) (exec c s) := by
  cases c with
  | chipSelectAssert dt code => exact answersNext_chipSelectAssert s dt code
  | read dt xs rel => exact answersNext_row sameClock_readByte sameClock_endRead _ xs rel
  | readFast dt xs rel => exact answersNext_row sameClock_readByte sameClock_endRead _ xs rel
  | status dt xs rel => exact answersNext_row sameClock_statusByte (fun _ _ _ => sameClock_release ..) _ xs rel
  | wren dt xs rel => exact answersNext_row sameClock_passByte (sameClock_endPlain sameClock_wrenMirror) _ xs rel
  | wrdi dt xs rel => exact answersNext_row sameClock_passByte (sameClock_endPlain (sameClock_setWel · _)) _ xs rel
  | suspend dt xs rel => exact answersNext_row sameClock_passByte (sameClock_endPlain SameClock.refl) _ xs rel
  | resume dt xs rel => exact answersNext_row sameClock_passByte (sameClock_endPlain sameClock_resumeMirror) _ xs rel
  | program dt xs rel => exact answersNext_row sameClock_programByte sameClock_endProgram _ xs rel
  | erase4k dt xs rel => exact answersNext_row sameClock_eraseByte (sameClock_endWrite _) _ xs rel
  | erase64k dt xs rel => exact answersNext_row sameClock_eraseByte (sameClock_endWrite _) _ xs rel
  | eraseAll dt xs rel => exact answersNext_row sameClock_passByte (sameClock_endWrite _) _ xs rel
  | pass dt xs rel => exact answersNext_row sameClock_passByte (fun _ _ _ => sameClock_release ..) _ xs rel
  | block dt xs rel => exact answersNext_row sameClock_passByte sameClock_endBlock _ xs rel
  | powerOn edge => exact SameClock.answers {}
  | resetInput edge => exact SameClock.answers {}
  | resetDriveEnd dt i => exact answersNext_resetDriveEnd s dt i
  | resetRelease dt sel1 sel0 => exact (SameClock.ite {} (.refl _)).answers
  | scanStart dt => exact (SameClock.ite {} (.refl _)).answers
  | scanCompletion dt xs bus => exact answersNext_scanCompletion s dt xs bus
  | insulationCompletion dt kohm inBand => exact answersNext_insulationCompletion s dt kohm inBand
  | searchSettleExpiry dt => exact (SameClock.ite {} (.refl _)).answers
  | searchTimeout dt => exact ((carries_endSearch ..).keeps.sameClock.due _ _).answers
  | rearmTimerExpiry dt => exact (SameClock.ite {} (.refl _)).answers
  | shdnLevelChange dt level => exact (SameClock.ite (.refl _) (keeps_inputs _ _).sameClock).answers
  | shutdownActivation dt => exact ((keeps_inputs _ _).sameClock.due _ _).answers
  | shutdownRelease dt => exact answersNext_shutdownRelease s dt
  | maintLevelChange dt level => exact (SameClock.ite (.refl _) (keeps_inputs _ _).sameClock).answers
  | maintActivation dt => exact (SameClock.ite (keeps_inputs _ _).sameClock (.refl _)).answers
  | maintRelease dt => exact (SameClock.ite (keeps_inputs _ _).sameClock (.refl _)).answers
  | closeSettleEnd dt i => exact answersNext_closeSettleEnd s dt i
  | openSettleEnd dt i => exact answersNext_openSettleEnd s dt i
  | retryWaitEnd dt i => exact answersNext_retryWaitEnd s dt i
  | coilPulseEnd dt i => exact answersNext_coilPulseEnd s dt i
  | feedbackLineChange dt i closed => exact answersNext_feedbackLineChange s dt i closed
  | closeTravelExpiry dt i => exact answersNext_closeTravelExpiry s dt i
  | openTravelExpiry dt i => exact answersNext_openTravelExpiry s dt i
  | grantReturn dt i => exact answersNext_grantReturn s dt i
  | programCommitTimeout dt => exact answersNext_programCommitTimeout s dt
  | eraseCommitTimeout dt => exact answersNext_eraseCommitTimeout s dt

end commands

theorem step_of_pending {s : State} {c : Instr} {rest : List Instr} (h : s.pending = c :: rest) :
    step s = exec c { s with pending := rest } := by
  unfold step
  rw [h]

end Sys2Proof.Machine

namespace Sys2Proof.Claims

open Sys2Proof Sys2Proof.Machine

/-- Settles O1: the queue has a front, so the step takes its second branch. -/
theorem stepRunsFrontCommand : Obligations.StepRunsFrontCommand := fun _ _ _ => step_of_pending

/-- Settles O2: every command first lets its time pass, and neither its own work nor the end of its event touches the clock or the queue. -/
theorem everyCommandAnswersNext : Obligations.EveryCommandAnswersNext := by
  intro c s
  obtain ⟨u, hnext, hclock⟩ := answersNext_exec s c
  exact ⟨u, hnext, hclock.now, hclock.pending⟩

end Sys2Proof.Claims

/-! The release of a read that covers pages of the ring (R62, R176 to R179), for O40. -/

namespace Sys2Proof.Machine

open Sys2Proof.Claims (RingHeld)

/-! ## One page -/

/-- The summaries of a page's slots, judged by its bytes. -/
def pageSummaries (bs : List Byte) : List Summary := (upTo 32).map fun k => judgeSlot ((bs.drop (8 * k)).take 8)

theorem length_pageSummaries (bs : List Byte) : (pageSummaries bs).length = 32 := by
  rw [pageSummaries, List.length_map, upTo, List.length_range]

theorem getElem?_pageSummaries (bs : List Byte) {k : Nat} (hk : k < 32) :
    (pageSummaries bs)[k]? = some (judgeSlot ((bs.drop (8 * k)).take 8)) := by
  rw [pageSummaries, List.getElem?_map, upTo, List.getElem?_range hk, Option.map_some]

/-- The bytes of page `p` of the ring, if a read streamed over it whole. -/
def pageShown (s : State) (r : ReadStream) (p : Nat) : Option (List Byte) := r.bytes (ringBase s + 256 * p) 256

theorem coverPage_hidden {r : ReadStream} {s : State} {p : Nat} (h : pageShown s r p = none) : coverPage r s p = s := by
  unfold pageShown at h
  unfold coverPage
  rw [h]

theorem coverPage_shown {r : ReadStream} {s : State} {p : Nat} {bs : List Byte} (h : pageShown s r p = some bs) : coverPage r s p =
    { s with
      journal := { s.journal with slots := setMany (32 * p) (pageSummaries bs) s.journal.slots }
      capture := { s.capture with coverage := s.capture.coverage.set p true } } := by
  unfold pageShown at h
  unfold coverPage
  rw [h]
  rfl

/-- The slots of another page stand. -/
theorem pageSummaries_elsewhere {xs : List Summary} {bs : List Byte} {p q k : Nat} (hk : k < 32) (hpq : p ≠ q) :
    (setMany (32 * q) (pageSummaries bs) xs)[32 * p + k]? = xs[32 * p + k]? := by
  rw [getElem?_setMany, length_pageSummaries, if_neg (by omega)]

theorem pageSummaries_here {xs : List Summary} {bs : List Byte} {p k : Nat} (hk : k < 32) (hlt : 32 * p + 32 ≤ xs.length) :
    (setMany (32 * p) (pageSummaries bs) xs)[32 * p + k]? = some (judgeSlot ((bs.drop (8 * k)).take 8)) := by
  rw [getElem?_setMany, length_pageSummaries, if_pos (by omega), Nat.add_sub_cancel_left, getElem?_pageSummaries bs hk]

/-! ## The pages of the ring -/

/-- What a read makes of the first `n` pages of the ring, from `s` to `m` (R176). -/
structure PagesCovered (s : State) (r : ReadStream) (n : Nat) (m : State) : Prop where
  frame : ∃ slots cov, m = { s with journal := { s.journal with slots := slots }, capture := { s.capture with coverage := cov } }
  size  : m.journal.slots.length = s.journal.slots.length
  pages : m.capture.coverage.length = s.capture.coverage.length
  shown : ∀ p < n, ∀ bs, pageShown s r p = some bs → m.capture.coverage[p]? = some true
    ∧ ∀ k < 32, m.journal.slots[32 * p + k]? = some (judgeSlot ((bs.drop (8 * k)).take 8))
  stays : ∀ p, pageShown s r p = none ∨ n ≤ p → m.capture.coverage[p]? = s.capture.coverage[p]?
    ∧ ∀ k < 32, m.journal.slots[32 * p + k]? = s.journal.slots[32 * p + k]?

theorem PagesCovered.zero (s : State) (r : ReadStream) : PagesCovered s r 0 s :=
  ⟨⟨_, _, rfl⟩, rfl, rfl, fun _ hp => absurd hp (Nat.not_lt_zero _), fun _ _ => ⟨rfl, fun _ _ => rfl⟩⟩

theorem PagesCovered.hidden {s m : State} {r : ReadStream} {n : Nat} (h : PagesCovered s r n m) (hn : pageShown s r n = none) :
    PagesCovered s r (n + 1) m := by
  refine ⟨h.frame, h.size, h.pages, fun p hp bs hbs => ?_, fun p hp => h.stays p (hp.imp_right fun hle => by omega)⟩
  refine h.shown p ?_ bs hbs
  rcases Nat.lt_succ_iff_lt_or_eq.mp hp with hlt | rfl
  · exact hlt
  · rw [hn] at hbs
    cases hbs

theorem PagesCovered.next {s m : State} {r : ReadStream} {n : Nat} (h : PagesCovered s r n m)
    (hslots : 32 * n + 32 ≤ s.journal.slots.length) (hpages : n < s.capture.coverage.length) : PagesCovered s r (n + 1) (coverPage r m n) := by
  have hpage : pageShown m r n = pageShown s r n := by
    obtain ⟨_, _, rfl⟩ := h.frame
    rfl
  cases hbytes : pageShown s r n with
  | none =>
    rw [coverPage_hidden (hpage.trans hbytes)]
    exact h.hidden hbytes
  | some bs =>
    rw [coverPage_shown (hpage.trans hbytes)]
    refine ⟨?_, (length_setMany ..).trans h.size, List.length_set.trans h.pages, fun p hp bs' hbs' => ?_, fun p hp => ?_⟩
    · obtain ⟨_, _, rfl⟩ := h.frame
      exact ⟨_, _, rfl⟩
    · rcases Nat.lt_succ_iff_lt_or_eq.mp hp with hlt | rfl
      · obtain ⟨hcov, hjudged⟩ := h.shown p hlt bs' hbs'
        exact ⟨(List.getElem?_set_ne (Nat.ne_of_gt hlt)).trans hcov,
          fun k hk => (pageSummaries_elsewhere hk (Nat.ne_of_lt hlt)).trans (hjudged k hk)⟩
      · cases Option.some.inj (hbytes.symm.trans hbs')
        exact ⟨List.getElem?_set_self (by rw [h.pages]; exact hpages), fun k hk => pageSummaries_here hk (by rw [h.size]; exact hslots)⟩
    · have hne : p ≠ n := by
        rintro rfl
        rw [hbytes] at hp
        exact hp.elim nofun fun hle => absurd hle (Nat.not_succ_le_self _)
      obtain ⟨hcov, hsame⟩ := h.stays p (hp.imp_right fun hle => by omega)
      exact ⟨(List.getElem?_set_ne hne.symm).trans hcov, fun k hk => (pageSummaries_elsewhere hk hne).trans (hsame k hk)⟩

theorem pagesCovered_fold (s : State) (r : ReadStream) (n : Nat) (hslots : 32 * n ≤ s.journal.slots.length)
    (hpages : n ≤ s.capture.coverage.length) : PagesCovered s r n ((upTo n).foldl (coverPage r) s) := by
  induction n with
  | zero => exact .zero s r
  | succ n ih =>
    rw [upTo, List.range_succ, List.foldl_append]
    exact (ih (by omega) (by omega)).next (by omega) (by omega)

/-- The ring as a read has covered it, before the attempt at an adoption. -/
def ringCovered (s : State) (r : ReadStream) : State := (upTo (16 * ringSectors s)).foldl (coverPage r) s

theorem coverRead_eq (s : State) (r : ReadStream) : coverRead s r = attemptAdoption (ringCovered s r) := rfl

theorem pagesCovered_ring {s : State} (h : RingHeld s) (r : ReadStream) : PagesCovered s r (16 * ringSectors s) (ringCovered s r) := by
  have hslots := h.slots
  unfold ringSlots at hslots
  exact pagesCovered_fold s r _ (by omega) h.pages

end Sys2Proof.Machine

/-! The release of a read while the journal is NOT_ADOPTED or INCONSISTENT (R62, R176 to R179): O40. -/

namespace Sys2Proof.Claims

open Sys2Proof Sys2Proof.Machine

/-- The end of a read's event, as far as an attempt at an adoption is concerned: a block that it captures as well changes none of it. -/
theorem attemptEnds_read {s s₀ m m' : State} (hq : m.seqs = s.seqs) (hc : m.cfg = s.cfg) (hx : m.search = s.search)
    (h : Captures (attemptAdoption m) m') : AttemptEnds s (attemptAdoption m) (finish s₀ m') := by
  have hsame := (covers_attemptAdoption m).same
  obtain ⟨hjournal, hcoverage, hevid, hrecord⟩ := h.finish s₀
  refine ⟨hjournal, hcoverage, hevid, hrecord, fun hn i hi _ => ?_⟩
  have hcount : m'.cfg.stringCount = s.cfg.stringCount := by rw [h.count, hsame.cfg, hc]
  have hseqs : m'.seqs = s.seqs := by
    obtain ⟨_, _, _, rfl⟩ := h.frame
    exact (attemptAdoption_seqs m).trans hq
  have hsearch : m'.search = s.search := by
    obtain ⟨_, _, _, rfl⟩ := h.frame
    exact hsame.search.trans hx
  rw [← hseqs]
  exact finish_takesTarget (targetsStand_of_noTest hsearch hn) (by rw [hcount]; exact hi)

theorem journalRead_covers {s : State} {t : Txn} (hring : journalRegion t.cfg ≠ none)
    (hstate : s.journal.state = .notAdopted ∨ s.journal.state = .inconsistent) :
    journalRead s t = attemptAdoption (ringCovered s t.readStream) := by
  unfold journalRead
  cases hregion : journalRegion t.cfg with
  | none => exact absurd hregion hring
  | some region => rcases hstate with hs | hs <;> rw [hs] <;> exact coverRead_eq ..

/-- The pages covered, the attempt, the captured block, and the end of the event. -/
theorem exec_read_covers {s m : State} {t : Txn} {c : CmdClass} {r : Release} {dt : Nat} (hends : ReadEnds s t c r)
    (hm : journalRead (readReleased s dt t r) t = attemptAdoption m) (hadopted : m.capture.adopted = true) :
    ∃ m', Captures (attemptAdoption m) m' ∧ exec (row c dt [] (some r)) s = .next (finish (s.advance dt) m') := by
  obtain ⟨_, _, hread, _⟩ := exec_row_release hends.txn hends.cls dt r
  refine ⟨configRead (attemptAdoption m) t, captures_configRead _ t ((covers_attemptAdoption m).same.adopted.trans hadopted),
    (hread hends.kind).trans ?_⟩
  rw [← hm]
  rfl

/-- Settles O40: the pages are covered one by one, and the attempt at an adoption and the end of the event do the rest. -/
theorem ringIsAdopted : Obligations.RingIsAdopted := by
  intro c dt r s t hends hring hstate hadopted hheld
  have hcover := journalRead_covers (s := readReleased s dt t r) hring hstate
  have hpages := pagesCovered_ring (s := readReleased s dt t r) ⟨hheld.sectors, hheld.slots, hheld.pages⟩ t.readStream
  generalize ringCovered (readReleased s dt t r) t.readStream = m at hcover hpages
  obtain ⟨hframe, hsize, hmarks, hshows, hstays⟩ := hpages
  have hframe : m.capture.adopted = true ∧ m.seqs = s.seqs ∧ m.cfg = s.cfg ∧ m.search = s.search
      ∧ RingShown s m m.journal.slots m.capture.coverage := by
    obtain ⟨_, _, rfl⟩ := hframe
    exact ⟨hadopted, rfl, rfl, rfl, rfl, rfl, rfl, rfl, rfl, rfl, rfl, rfl, hheld, hsize, hmarks⟩
  obtain ⟨hm, hseqs, hcfg, hsearch, hshown⟩ := hframe
  obtain ⟨m', hcaptures, hexec⟩ := exec_read_covers hends hcover hm
  exact ⟨_, m.journal.slots, m.capture.coverage, hexec, hshows, hstays,
    attempted_of_ends hshown (attemptEnds_read hseqs hcfg hsearch hcaptures) hstate⟩

end Sys2Proof.Claims

/-! The segments that a read captures, the block that they hold, and its judgement (R170 to R175), for O38. -/

namespace Sys2Proof.Claims

open Sys2Proof Sys2Proof.Machine

/-! ## Segments -/

/-- The state with the segment buffers `segs`. -/
def withSegments (s : State) (segs : Vector Segment 8) : State := { s with capture := { s.capture with segments := segs } }

theorem withSegments_self (s : State) : withSegments s s.capture.segments = s := rfl

theorem segmentAfter_shown {s : State} {t : Txn} {j : Fin 8} {bs : List Byte} (h : t.readStream.at (s.cfgBase + 32 * j.val) 32 = some bs) :
    segmentAfter s t j = ⟨true, bs⟩ := by
  unfold segmentAfter
  rw [h]

theorem segmentAfter_hidden {s : State} {t : Txn} {j : Fin 8} (h : t.readStream.at (s.cfgBase + 32 * j.val) 32 = none) :
    segmentAfter s t j = s.capture.segments[j] := by
  unfold segmentAfter
  rw [h]

theorem captureSegment_eq (s : State) (t : Txn) (j : Fin 8) :
    captureSegment t.readStream s j = withSegments s (s.capture.segments.set j (segmentAfter s t j)) := by
  unfold captureSegment
  cases hat : t.readStream.at (s.cfgBase + 32 * j.val) 32 with
  | none =>
    rw [segmentAfter_hidden hat]
    exact (withSegments_self s).symm.trans (congrArg (withSegments s) (Vector.set_getElem_self _).symm)
  | some bs =>
    rw [segmentAfter_shown hat]
    rfl

/-- A segment is captured alike whatever was captured before, and twice as once. -/
theorem segmentAfter_withSegments {s : State} {t : Txn} {j : Fin 8} {segs : Vector Segment 8}
    (h : segs[j] = s.capture.segments[j] ∨ segs[j] = segmentAfter s t j) : segmentAfter (withSegments s segs) t j = segmentAfter s t j := by
  cases hat : t.readStream.at (s.cfgBase + 32 * j.val) 32 with
  | none =>
    have hidden := segmentAfter_hidden hat
    rw [hidden, or_self] at h
    exact (segmentAfter_hidden (s := withSegments s segs) hat).trans (h.trans hidden.symm)
  | some bs => exact (segmentAfter_shown (s := withSegments s segs) hat).trans (segmentAfter_shown hat).symm

theorem captureSegments_spec (s : State) (t : Txn) (js : List (Fin 8)) :
    ∃ segs, js.foldl (captureSegment t.readStream) s = withSegments s segs
      ∧ ∀ k : Fin 8, segs[k] = if k ∈ js then segmentAfter s t k else s.capture.segments[k] := by
  induction js using List.reverseRecOn with
  | nil => exact ⟨_, (withSegments_self s).symm, fun k => (if_neg List.not_mem_nil).symm⟩
  | append_singleton js j ih =>
    obtain ⟨segs, hfold, hsegs⟩ := ih
    have hj : segmentAfter (withSegments s segs) t j = segmentAfter s t j := by
      refine segmentAfter_withSegments ?_
      rw [hsegs]
      split
      · exact .inr rfl
      · exact .inl rfl
    refine ⟨segs.set j (segmentAfter s t j), ?_, fun k => ?_⟩
    · rw [List.foldl_append, hfold, List.foldl_cons, List.foldl_nil, captureSegment_eq, hj]
      rfl
    · by_cases hk : k = j
      · subst hk
        rw [if_pos (by simp)]
        exact Vector.getElem_set_self _
      · have hne : j.val ≠ k.val := fun he => hk (Fin.ext he.symm)
        refine (Vector.getElem_set_ne _ _ hne).trans ((hsegs k).trans ?_)
        simp [hk]

/-- The segment buffers after a read. -/
def segmentsAfter (s : State) (t : Txn) : Vector Segment 8 := Vector.ofFn (segmentAfter s t)

theorem get_segmentsAfter (s : State) (t : Txn) (j : Fin 8) : (segmentsAfter s t)[j] = segmentAfter s t j := by
  simp [segmentsAfter]

theorem captureSegments_eq (s : State) (t : Txn) :
    (List.finRange 8).foldl (captureSegment t.readStream) s = withSegments s (segmentsAfter s t) := by
  obtain ⟨segs, hfold, hsegs⟩ := captureSegments_spec s t (List.finRange 8)
  rw [hfold]
  refine congrArg (withSegments s) (Vector.ext fun k hk => ?_)
  have hget := (hsegs ⟨k, hk⟩).trans (if_pos (List.mem_finRange _))
  exact hget.trans (get_segmentsAfter s t ⟨k, hk⟩).symm

/-- The segment buffers once their marks are cleared (R172). -/
def segmentsCleared (s : State) (t : Txn) : Vector Segment 8 := Vector.ofFn fun j => { segmentAfter s t j with valid := false }

theorem valid_segmentsCleared (s : State) (t : Txn) (j : Fin 8) : (segmentsCleared s t)[j].valid = false := by
  simp [segmentsCleared]

theorem clearSegments_captured (s : State) (t : Txn) :
    clearSegments (withSegments s (segmentsAfter s t)) = withSegments s (segmentsCleared s t) := by
  refine congrArg (withSegments s) (congrArg Vector.ofFn (funext fun j => ?_))
  exact congrArg (fun x : Segment => { x with valid := false }) (get_segmentsAfter s t j)

theorem capturedBlock_captured (s : State) (t : Txn) : capturedBlock (withSegments s (segmentsAfter s t)) = blockAfter s t := by
  unfold capturedBlock blockAfter
  congr 1
  exact funext fun j => congrArg Segment.bytes (get_segmentsAfter s t j)

theorem allSegmentsValid_captured (s : State) (t : Txn) :
    allSegmentsValid (withSegments s (segmentsAfter s t)) = true ↔ ∀ j, (segmentAfter s t j).valid = true := by
  have hget (j : Fin 8) : ((withSegments s (segmentsAfter s t)).capture.segments[j]).valid = (segmentAfter s t j).valid :=
    congrArg Segment.valid (get_segmentsAfter s t j)
  unfold allSegmentsValid
  simp only [List.all_eq_true, List.mem_finRange, true_implies, hget]

/-! ## The judgement of the block -/

/-- The capture unit once the block of a read has been judged and its marks cleared (R172). -/
def blockJudged (s : State) (t : Txn) : State := withSegments s (segmentsCleared s t)

theorem configRead_eq (s : State) (t : Txn) : configRead s t =
    if allSegmentsValid (withSegments s (segmentsAfter s t)) then judgeBlock (withSegments s (segmentsAfter s t))
    else withSegments s (segmentsAfter s t) := by
  unfold configRead
  rw [captureSegments_eq]

/-- A block that is not whole is not judged. -/
theorem configRead_partial {s : State} {t : Txn} (h : ∃ j, (segmentAfter s t j).valid = false) :
    configRead s t = withSegments s (segmentsAfter s t) := by
  obtain ⟨j, hj⟩ := h
  rw [configRead_eq, if_neg]
  rw [allSegmentsValid_captured]
  exact fun hall => Bool.false_ne_true (hj.symm.trans (hall j))

section whole
variable {s : State} {t : Txn} (hwhole : ∀ j, (segmentAfter s t j).valid = true)
include hwhole

theorem configRead_whole : configRead s t =
    if blockOk (s.cfgBase / 4096) (blockAfter s t) then
      if s.capture.adopted then laterAdoption (blockJudged s t) (parseBlock (blockAfter s t))
      else firstAdoption (blockJudged s t) (parseBlock (blockAfter s t))
    else { blockJudged s t with capture := { (blockJudged s t).capture with state := .bad } } := by
  rw [configRead_eq, if_pos ((allSegmentsValid_captured s t).mpr hwhole)]
  unfold judgeBlock
  rw [capturedBlock_captured, clearSegments_captured]
  rfl

/-- A block that fails (R172, R175). -/
theorem configRead_bad (hbad : ¬ BlockPasses (s.cfgBase / 4096) (blockAfter s t)) :
    configRead s t = { blockJudged s t with capture := { (blockJudged s t).capture with state := .bad } } := by
  rw [configRead_whole hwhole, if_neg (mt (blockOk_iff ..).mp hbad)]

theorem configRead_later (hok : BlockPasses (s.cfgBase / 4096) (blockAfter s t)) (hadopted : s.capture.adopted = true) :
    configRead s t = laterAdoption (blockJudged s t) (parseBlock (blockAfter s t)) := by
  rw [configRead_whole hwhole, if_pos ((blockOk_iff ..).mpr hok), if_pos hadopted]

theorem configRead_first (hok : BlockPasses (s.cfgBase / 4096) (blockAfter s t)) (hadopted : s.capture.adopted = false) :
    configRead s t = firstAdoption (blockJudged s t) (parseBlock (blockAfter s t)) := by
  rw [configRead_whole hwhole, if_pos ((blockOk_iff ..).mpr hok), hadopted]
  rfl

end whole

end Sys2Proof.Claims

/-! What the end of an event makes of a number of grants that has just been adopted (R79), and of a search when no field of 5.1 or one of
them has changed (R100), for O38. -/

namespace Sys2Proof.Machine

/-! ## The number of grants -/

/-- The number of grants `k` is active, and no more are in use. -/
structure KActive (k : Nat) (s : State) : Prop where
  pending : s.arb.kPending = none
  active  : s.arb.k = k
  within  : grantsInUse s ≤ k

/-- The number of grants `k` is pending, with `k₀` active (R79). -/
structure KWaits (k₀ k : Nat) (s : State) : Prop where
  pending : s.arb.kPending = some k
  active  : s.arb.k = k₀

section active
variable {k : Nat} {s : State} (h : KActive k s)
include h

theorem KActive.works {t : State} (hw : Works s t) : KActive k t :=
  ⟨by rw [hw.arb, h.pending], by rw [hw.arb, h.active], (grantsInUse_le hw.grant).trans h.within⟩

theorem KActive.applyPendingK : KActive k (applyPendingK s) := by
  unfold Machine.applyPendingK
  rw [h.pending]
  exact h

theorem KActive.giveGrant (hslot : slotFree s = true) (i : Str) (c : Coil) : KActive k (giveGrant s i c) :=
  ⟨h.pending, h.active, (grantsInUse_giveGrant_le hslot i c).trans (Nat.le_of_eq h.active)⟩

theorem KActive.setQueue (queue : List QEntry) : KActive k { s with arb := { s.arb with queue := queue } } :=
  ⟨h.pending, h.active, h.within⟩

theorem KActive.request (i : Str) : KActive k (request s i) := by
  unfold Machine.request
  split
  · exact h
  · split
    · split
      · next hfree => exact h.giveGrant (Bool.and_eq_true_iff.mp hfree).1 i _
      · exact h.setQueue _
    · exact h

omit h in
theorem KActive.requestAll {s : State} (h : KActive k s) : KActive k (requestAll s) := by
  unfold Machine.requestAll
  induction allStrings generalizing s with
  | nil => exact h
  | cons i is ih => exact ih (h.request i)

omit h in
theorem KActive.grantHeads (n : Nat) {s : State} (h : KActive k s) : KActive k (grantHeads n s) := by
  induction n generalizing s with
  | zero => exact h
  | succ n ih =>
    unfold Machine.grantHeads
    split
    · exact h
    · next e rest _ =>
      split
      · next hslot => exact ih ((h.setQueue rest).giveGrant hslot e.str e.kind)
      · exact h

theorem KActive.grants : KActive k (Machine.grantHeads (Machine.requestAll s).arb.queue.length (Machine.requestAll s)) :=
  h.requestAll.grantHeads _

theorem KActive.arbitrate : KActive k (arbitrate s) := by
  have hw : KActive k (withdraw s) := h.setQueue _
  unfold Machine.arbitrate
  exact hw.applyPendingK.grants

end active

/-- The number of grants `k` has been adopted over `k₀`: it is active or pending. -/
def KAdopted (k₀ k : Nat) (s : State) : Prop := KActive k s ∨ KWaits k₀ k s

theorem kAdopted_adoptK (s : State) (k : Nat) : KAdopted s.arb.k k (adoptK s k) := by
  unfold adoptK
  split
  · next hk => exact .inl ⟨rfl, rfl, hk⟩
  · exact .inr ⟨rfl, rfl⟩

theorem kActive_adoptK {s : State} {k : Nat} (h : grantsInUse s ≤ k) : KActive k (adoptK s k) := by
  unfold adoptK
  rw [if_pos h]
  exact ⟨rfl, rfl, h⟩

theorem request_k (s : State) (i : Str) : (request s i).arb.k = s.arb.k := by
  unfold request
  repeat' split
  all_goals rfl

theorem requestAll_k (s : State) : (requestAll s).arb.k = s.arb.k := by
  unfold requestAll
  induction allStrings generalizing s with
  | nil => rfl
  | cons i is ih => exact (ih _).trans (request_k s i)

/-- While K is pending no grant is given, so none is counted towards it. -/
theorem KWaits.grants {k₀ k : Nat} {s : State} (h : KWaits k₀ k s) :
    KWaits k₀ k (grantHeads (requestAll s).arb.queue.length (requestAll s)) := by
  obtain ⟨_, hpending⟩ := requestAll_pending s h.pending
  rw [grantHeads_pending _ _ hpending]
  exact ⟨hpending, (requestAll_k s).trans h.active⟩

theorem KWaits.applyPendingK {k₀ k : Nat} {s : State} (h : KWaits k₀ k s) : KAdopted k₀ k (applyPendingK s) := by
  rw [applyPendingK_of_pending h.pending]
  split
  · next hk => exact .inl ⟨rfl, rfl, hk⟩
  · exact .inr h

section adopted
variable {k₀ k : Nat} {s : State} (h : KAdopted k₀ k s)
include h

theorem KAdopted.works {t : State} (hw : Works s t) : KAdopted k₀ k t :=
  h.imp (fun ha => ha.works hw) fun hp => ⟨by rw [hw.arb, hp.pending], by rw [hw.arb, hp.active]⟩

theorem KAdopted.arbitrate : KAdopted k₀ k (arbitrate s) := by
  rcases h with ha | hp
  · exact .inl ha.arbitrate
  · have hw : KWaits k₀ k (withdraw s) := ⟨hp.pending, hp.active⟩
    unfold Machine.arbitrate
    exact hw.applyPendingK.imp KActive.grants KWaits.grants

end adopted

theorem works_refreshPins (s : State) : Works s (refreshPins s) := {}

/-- What works keep and the arbiter keeps stands at the end of an event. -/
theorem finish_of_works {P : State → Prop} (hworks : ∀ {s}, P s → ∀ {t}, Works s t → P t) (harbiter : ∀ {s}, P s → P (arbitrate s))
    {s₁ : State} (s₀ : State) (h : P s₁) : P (finish s₀ s₁) := by
  have hcarry {s : State} (hs : P s) : P (carryOut s) := by
    unfold carryOut
    exact harbiter (hworks (hworks hs (works_recompute s)) (works_reconcile _))
  have hreact := hworks h (searches_searchReact s₀ s₁).works
  unfold finish
  exact hworks (hcarry (hworks (hcarry hreact) (searches_judgeSwitchWait _).works)) (works_refreshPins _)

/-- R79: K at the end of the event that adopts it. -/
theorem adoptedK_finish {s s₀ s₁ : State} {k : Nat} (h : KAdopted s.arb.k k s₁) (hfew : grantsInUse s ≤ k → KActive k s₁) :
    Claims.AdoptedK s (finish s₀ s₁) k := by
  have hrests := finish_rests s₀ s₁
  have hadopted := finish_of_works (P := KAdopted s.arb.k k) KAdopted.works KAdopted.arbitrate s₀ h
  refine ⟨hadopted.imp (fun ha => ⟨ha.pending, ha.active, ha.within, ?_⟩)
      fun hp => ⟨hp.pending, hp.active, hrests.pending k hp.pending⟩,
    fun hle => (finish_of_works (P := KActive k) KActive.works KActive.arbitrate s₀ (hfew hle)).pending⟩
  have hheads := hrests.heads ha.pending
  rwa [ha.active] at hheads

/-! ## Searches -/

theorem result_nextTest {s : State} (xs : List Str) (h : s.search.result ≠ .abortedConfig) :
    (nextTest s xs).search.result ≠ .abortedConfig := by
  unfold nextTest
  split
  · split <;> exact nofun
  · exact h

theorem result_notConfirmed {s : State} (h : s.search.result ≠ .abortedConfig) : (notConfirmed s).search.result ≠ .abortedConfig := by
  unfold notConfirmed enterSweep
  simp only
  split
  · split
    · exact nofun
    · exact h
  · exact nofun

theorem result_beginStep {s : State} (xs : List Str) (h : s.search.result ≠ .abortedConfig) :
    (beginStep s xs).search.result ≠ .abortedConfig := by
  unfold beginStep
  split
  · exact result_notConfirmed h
  · exact h
  · exact h

theorem result_takeOvertaken {s : State} (gone : List Str) (h : s.search.result ≠ .abortedConfig) :
    (takeOvertaken s gone).search.result ≠ .abortedConfig := by
  unfold takeOvertaken
  simp only
  split
  · exact h
  · split
    · exact nofun
    · exact h
  · exact result_beginStep _ h
  · exact result_notConfirmed h
  · split
    · split
      · exact result_nextTest _ h
      · exact h
    · split
      · exact nofun
      · exact h

theorem searchConfigDiffers_iff {a b : Config} : searchConfigDiffers a b = true ↔ Claims.SearchFieldsDiffer a b := by
  unfold searchConfigDiffers Claims.SearchFieldsDiffer
  simp only [Bool.or_eq_true, bne_iff_ne, ne_eq, Prod.mk.injEq, Classical.not_and_iff_not_or_not, or_assoc]

/-- R100: only a change of a field of 5.1 ends a search ABORTED_CONFIG. -/
theorem result_finish {s₀ s₁ : State} (hsame : ¬ Claims.SearchFieldsDiffer s₀.cfg s₁.cfg) (h : s₁.search.result ≠ .abortedConfig) :
    (finish s₀ s₁).search.result ≠ .abortedConfig := by
  have hreact : (searchReact s₀ s₁).search.result ≠ .abortedConfig := by
    unfold searchReact
    rw [Bool.eq_false_iff.mpr (mt searchConfigDiffers_iff.mp hsame)]
    simp only
    repeat' split
    · exact h
    · exact nofun
    · exact nofun
    · contradiction
    · exact h
    · exact result_takeOvertaken _ h
  have hcarried : (carryOut (searchReact s₀ s₁)).search.result ≠ .abortedConfig := by rwa [carryOut_search]
  rw [finish_search]
  generalize carryOut (searchReact s₀ s₁) = m at hcarried
  unfold judgeSwitchWait
  split
  · split
    · split <;> exact hcarried
    · exact result_nextTest _ hcarried
    all_goals exact hcarried
  · exact hcarried

/-- R99: no switch has entered FAILED, and no shutdown has become active. -/
structure NoAbort (s₀ s₁ : State) : Prop where
  switches : ∀ i : Str, s₁.seqs[i].state = .failed → s₀.seqs[i].state = .failed
  shutdown : s₁.inputs.shdnActive = s₀.inputs.shdnActive

theorem NoAbort.failedEntry {s₀ s₁ : State} (h : NoAbort s₀ s₁) : failedEntry s₀ s₁ = false := by
  unfold Machine.failedEntry
  rw [List.any_eq_false]
  intro i _ hi
  simp only [Bool.and_eq_true, bne_iff_ne, beq_iff_eq] at hi
  obtain ⟨⟨_, hnot⟩, hfailed⟩ := hi
  exact hnot (h.switches i hfailed)

/-- R100: a change of a field of 5.1 ends an active search. -/
theorem NoAbort.searchReact_config {s₀ s₁ : State} (h : NoAbort s₀ s₁) (hactive : s₁.search.phase ≠ .idle)
    (hdiffer : Claims.SearchFieldsDiffer s₀.cfg s₁.cfg) : searchReact s₀ s₁ = endSearch s₁ .abortedConfig none := by
  unfold searchReact
  rw [if_neg hactive, h.failedEntry, h.shutdown, Bool.not_and_self, searchConfigDiffers_iff.mpr hdiffer]
  rfl

/-- R100, log 32: the search as the end of that event leaves it. -/
theorem NoAbort.searchEnds {s s₀ s₁ : State} (h : NoAbort s₀ s₁) (hsearch : s₁.search = s.search) (hactive : s.search.phase ≠ .idle)
    (hdiffer : Claims.SearchFieldsDiffer s₀.cfg s₁.cfg) :
    Claims.SearchEnds { s with cfg := s₁.cfg } (finish s₀ s₁) s₁.now .abortedConfig none :=
  Claims.searchEnds_of_endSearch (h.searchReact_config (by rwa [hsearch]) hdiffer) hsearch rfl

end Sys2Proof.Machine

/-! The strings that leave presence at a first adoption (R2, R30, R56, R81), and the attention reasons of the capture unit, for O38. -/

namespace Sys2Proof.Machine

open Sys2Proof.Claims (leftPresence LeavesPresence NotQueued)

/-! ## Attention reasons -/

/-- R165: a block that failed is an attention reason. -/
theorem attentionReasons_of_bad {s : State} (h : s.capture.state = .bad) : attentionReasons s ≠ 0 := by
  intro hz
  have hbit := congrArg (fun w : Half => w.getLsbD 3) hz
  unfold attentionReasons at hbit
  rw [h] at hbit
  simp [reasonBit] at hbit

/-- R165: a configuration adopted and a ring that is not is an attention reason. -/
theorem attentionReasons_of_notAdopted {s : State} (hj : s.journal.state = .notAdopted) (hc : s.capture.adopted = true) :
    attentionReasons s ≠ 0 := by
  intro hz
  have hbit := congrArg (fun w : Half => w.getLsbD 4) hz
  unfold attentionReasons at hbit
  rw [hj, hc] at hbit
  simp [reasonBit] at hbit

/-- R166: ATTN is low at the end of an event that leaves an attention reason. -/
theorem attnLow_finish {s₀ s₁ : State} (h : attentionReasons (finish s₀ s₁) ≠ 0) : (finish s₀ s₁).pins.attnLow = true := by
  have hpins : (finish s₀ s₁).pins.attnLow = (attentionReasons (finish s₀ s₁) != 0) := congrArg Pins.attnLow (finish_pins s₀ s₁)
  rw [hpins, bne_iff_ne]
  exact h

/-! ## A string that leaves presence -/

theorem leave_state (q : Seq) (now : Nat) : (q.leave now).state = .unfound := by
  unfold Seq.leave
  repeat' split
  all_goals rfl

theorem leave_eq (s : State) (dt : Nat) (q : Seq) : q.leave (s.now + dt) = leftPresence s dt q := by
  obtain ⟨state, act, retry, probation, qual, mismatch, offAt, endedAt, grant⟩ := q
  cases act with
  | none => rfl
  | some a =>
    obtain ⟨coil, phase, seen, until_, travelEnd, tPulse, tTravel, tRch⟩ := a
    cases phase with
    | settle => rfl
    | pulse => rfl
    | travel => cases grant <;> rfl
    | retryWait => cases grant <;> rfl

/-- What each block drops for a string that leaves presence, and what the adoption leaves of it. -/
structure Dropped (s t : State) (i : Str) : Prop where
  entry    : t.table[i] = s.table[i].leave
  evidence : t.evid[i] = Evidence.reset
  record   : t.meas[i] = Meas.invalid
  snapshot : i ∉ t.inputs.snapshot
  seq      : t.seqs[i] = s.seqs[i].leave s.now

theorem dropped_dropLeaving {s : State} {n : Nat} {i : Str} (h : leaves s n i = true) : Dropped s (dropLeaving s n) i := by
  have htable : (dropLeaving s n).table[i] = if leaves s n i then s.table[i].leave else s.table[i] := mapAll_get _ s.table i
  have hevid : (dropLeaving s n).evid[i] = if leaves s n i then Evidence.reset else s.evid[i] := mapAll_get _ s.evid i
  have hmeas : (dropLeaving s n).meas[i] = if leaves s n i then Meas.invalid else s.meas[i] := mapAll_get _ s.meas i
  have hseqs : (dropLeaving s n).seqs[i] = if leaves s n i then s.seqs[i].leave s.now else s.seqs[i] := mapAll_get _ s.seqs i
  rw [if_pos h] at htable hevid hmeas hseqs
  refine ⟨htable, hevid, hmeas, fun hm => ?_, hseqs⟩
  have hstays : (!leaves s n i) = true := (List.mem_filter.mp hm).2
  rw [h] at hstays
  cases hstays

theorem dropped_leavePresence {s : State} {n : Nat} {i : Str} (h : leaves s n i = true) : Dropped s (leavePresence s n) i := by
  have hd := dropped_dropLeaving h
  unfold leavePresence
  split
  · exact ⟨hd.entry, hd.evidence, hd.record, hd.snapshot, hd.seq⟩
  · exact hd

theorem dropped_firstAdoption {s : State} {c : Config} {i : Str} (h : leaves s c.stringCount i = true) : Dropped s (firstAdoption s c) i := by
  have hd := dropped_leavePresence h
  obtain ⟨arb, hk⟩ := Claims.adoptK_frame (leavePresence s c.stringCount) c.grants
  unfold firstAdoption
  rw [hk]
  exact ⟨hd.entry, hd.evidence, hd.record, hd.snapshot, hd.seq⟩

/-! ## A string that is not present, at the end of an event -/

theorem carryOut_absent {s : State} {i : Str} (h : isPresent s i = false) : (carryOut s).table[i] = s.table[i] := by
  have hget : (recompute s).table[i] = if isPresent s i then { s.table[i] with target := targetOf s i, coherence := coherenceOf s i }
      else s.table[i] := mapAll_get _ s.table i
  rw [carryOut_table, hget, if_neg (by rw [h]; simp)]

/-- R78: a string that is not present and waits for no grant has no entry. -/
theorem carryOut_notQueued {s : State} {i : Str} (h : isPresent s i = false) (hw : s.seqs[i].waitsFor = none) : NotQueued (carryOut s) i := by
  rintro e he rfl
  unfold carryOut at he
  have hqueue := (arbitrate_arbitrated (reconcile (recompute s))).queue e he
  rw [reconcile_seq, isPresent_recompute, h, recompute_seqs] at hqueue
  exact absurd (hqueue.symm.trans hw) (by simp)

/-- An event that finds no search under way carries its targets out, twice. -/
theorem finish_noSearch {s₀ s₁ : State} (hp : s₁.search.phase = .idle) (hs : s₁.search.stage = .none) :
    finish s₀ s₁ = refreshPins (carryOut (carryOut s₁)) := by
  have hreact : searchReact s₀ s₁ = s₁ := if_pos hp
  unfold finish
  rw [hreact, Claims.judgeSwitchWait_none (by rw [carryOut_search, hs])]

theorem unfound_waitsFor {q : Seq} (h : q.state = .unfound) : q.waitsFor = none := by rw [Seq.waitsFor, h]

theorem unfound_takeTarget {q : Seq} (h : q.state = .unfound) (t : Target) (now : Nat) : q.takeTarget t now = q := by
  cases t <;> simp only [Seq.takeTarget, h]

theorem finish_unfound {s₀ s₁ : State} {i : Str} (h : s₁.seqs[i].state = .unfound) : (finish s₀ s₁).seqs[i] = s₁.seqs[i] :=
  finish_rest s₀ rfl (unfound_waitsFor h) (unfound_takeTarget h)

/-- R2, R81 at the end of the event. -/
theorem Dropped.leavesPresence {s s₀ s₁ y : State} {dt : Nat} {i : Str} (h : Dropped y s₁ i) (habsent : isPresent s₁ i = false)
    (hp : s₁.search.phase = .idle) (hs : s₁.search.stage = .none) (htable : y.table = s.table) (hseqs : y.seqs = s.seqs)
    (hnow : y.now = s.now + dt) : LeavesPresence s (finish s₀ s₁) dt i := by
  have hc := carries_finish s₀ s₁
  have hfound : s₁.seqs[i].state = .unfound := by rw [h.seq, leave_state]
  have habsent' : isPresent (carryOut s₁) i = false := (isPresent_congr (carries_carryOut s₁).cfg i).trans habsent
  have hcarried : (carryOut s₁).seqs[i] = s₁.seqs[i] :=
    carryOut_rest rfl (unfound_waitsFor hfound) fun _ => unfound_takeTarget hfound _ _
  refine ⟨?_, by rw [hc.evid, h.evidence]; rfl, by rw [hc.meas, h.record]; rfl, by rw [hc.inputs]; exact h.snapshot, ?_, ?_⟩
  · rw [finish_noSearch hp hs, refreshPins_table, carryOut_absent habsent', carryOut_absent habsent, h.entry, htable]
    rfl
  · unfold NotQueued
    rw [finish_noSearch hp hs, refreshPins_arb]
    exact carryOut_notQueued habsent' (by rw [hcarried]; exact unfound_waitsFor hfound)
  · rw [finish_unfound hfound, h.seq, hseqs, hnow, leave_eq]

end Sys2Proof.Machine

/-! What a read's release leaves to the adoption of a block (R172 to R175), and the release itself: O38. -/

namespace Sys2Proof.Machine

/-! ## No switch fails -/

/-- No switch has entered FAILED. -/
def NoFailure (s t : State) : Prop := ∀ i : Str, t.seqs[i].state = .failed → s.seqs[i].state = .failed

theorem noFailure_of_seqs {s t : State} (h : t.seqs = s.seqs) : NoFailure s t := fun i hi => by rwa [h] at hi

theorem NoFailure.trans {a b c : State} (h : NoFailure a b) (k : NoFailure b c) : NoFailure a c := fun i hi => h i (k i hi)

/-- R75: records take switches out of FAILED only. -/
theorem noFailure_applyRecords (s : State) (rs : List (Nat × Record)) : NoFailure s (applyRecords s rs) := by
  intro i hi
  rw [applyRecords_seq] at hi
  split at hi
  · unfold unwelded at hi
    split at hi
    · next hf => exact hf
    · exact hi
  · exact hi

theorem noFailure_resolveDoubt (s : State) (d : Doubt) (seen : List Summary) : NoFailure s (resolveDoubt s d seen) := by
  unfold resolveDoubt
  simp only
  exact (noFailure_of_seqs (freeSlots_seqs (s.setSlots _ _) d _)).trans (noFailure_applyRecords _ _)

theorem noFailure_compareRead (s : State) (r : ReadStream) : NoFailure s (compareRead s r) := by
  have hmarks := seqs_foldl markDamage (fun _ _ => rfl) ((upTo (ringSlots s)).filter fun k => slotDamaged (slotAt s k) (readSlot s r k)) s
  have herased := fun t => seqs_foldl sectorErased sectorErased_seqs ((upTo (ringSectors s)).filter (readErased s r)) t
  have hmarked := noFailure_of_seqs ((herased _).trans hmarks)
  unfold compareRead
  simp only
  generalize Option.bind _ _ = doubt
  cases doubt with
  | none =>
    simp only
    split
    · exact noFailure_of_seqs rfl
    · exact hmarked
  | some shown =>
    simp only
    split
    · exact noFailure_of_seqs rfl
    · exact hmarked.trans (noFailure_resolveDoubt _ _ _)

theorem noFailure_journalRead (s : State) (t : Txn) : NoFailure s (journalRead s t) := by
  unfold journalRead
  repeat' split
  · exact noFailure_of_seqs rfl
  · exact noFailure_of_seqs (coverRead_seqs ..)
  · exact noFailure_of_seqs (coverRead_seqs ..)
  · exact noFailure_compareRead _ _
  · exact noFailure_compareRead _ _

theorem noFailure_leavePresence (s : State) (n : Nat) : NoFailure s (leavePresence s n) := by
  intro i hi
  rw [leavePresence_seq] at hi
  split at hi
  · rw [leave_state] at hi
    cases hi
  · exact hi

end Sys2Proof.Machine

namespace Sys2Proof.Claims

open Sys2Proof Sys2Proof.Machine

/-! ## Up to the adoption -/

/-- What the work of a read's release, up to the adoption of a block, leaves of the state `s` in which it began `dt` later. -/
structure ReadWork (s y : State) (dt : Nat) : Prop where
  now      : y.now = s.now + dt
  search   : y.search = s.search
  shutdown : y.inputs.shdnActive = s.inputs.shdnActive
  arb      : y.arb = s.arb
  grant    : ∀ i : Str, s.seqs[i].grant = .none → y.seqs[i].grant = .none
  switches : NoFailure s y

theorem readWork_journalRead (s : State) (dt : Nat) (t : Txn) (r : Release) :
    ReadWork s (journalRead (readReleased s dt t r) t) dt := by
  have hsame := (covers_journalRead (readReleased s dt t r) t).same
  exact ⟨hsame.now, hsame.search, congrArg Inputs.shdnActive hsame.inputs, hsame.arb, (works_journalRead (readReleased s dt t r) t).grant,
    noFailure_journalRead (readReleased s dt t r) t⟩

theorem ReadWork.judged {s y : State} {dt : Nat} (h : ReadWork s y dt) (t : Txn) : ReadWork s (blockJudged y t) dt :=
  ⟨h.now, h.search, h.shutdown, h.arb, h.grant, h.switches⟩

theorem ReadWork.leavePresence {s y : State} {dt : Nat} (h : ReadWork s y dt) (n : Nat) : ReadWork s (leavePresence y n) dt := by
  refine ⟨(keeps_leavePresence y n).now.trans h.now, (leavePresence_search y n).trans h.search, ?_, (leavePresence_arb y n).trans h.arb,
    fun i hi => ?_, NoFailure.trans h.switches (noFailure_leavePresence y n)⟩
  · refine Eq.trans ?_ h.shutdown
    unfold Machine.leavePresence
    split <;> rfl
  · rw [leavePresence_seq]
    split
    · exact leave_grant (h.grant i hi) _
    · exact h.grant i hi

/-- The same once `k` grants have been adopted (R79). -/
structure GrantsTaken (s x : State) (dt k : Nat) : Prop where
  now     : x.now = s.now + dt
  search  : x.search = s.search
  noAbort : NoAbort (s.advance dt) x
  adopted : KAdopted s.arb.k k x
  few     : grantsInUse s ≤ k → KActive k x

theorem ReadWork.adoptK {s y x : State} {dt k : Nat} (h : ReadWork s y dt)
    (hx : ∃ cfg capture, x = { Machine.adoptK y k with cfg := cfg, capture := capture }) : GrantsTaken s x dt k := by
  have hadopted := kAdopted_adoptK y k
  have hfew := kActive_adoptK (s := y) (k := k)
  rw [h.arb] at hadopted
  obtain ⟨_, _, rfl⟩ := hx
  refine ⟨(keeps_adoptK y k).now.trans h.now, (adoptK_search y k).trans h.search, ⟨fun i hi => ?_, ?_⟩, ?_, fun hle => ?_⟩
  · change (Machine.adoptK y k).seqs[i].state = .failed at hi
    rw [adoptK_seqs] at hi
    exact h.switches i hi
  · obtain ⟨_, hk⟩ := adoptK_frame y k
    rw [hk]
    exact h.shutdown
  · exact hadopted.imp (fun ha => ⟨ha.pending, ha.active, ha.within⟩) fun hp => ⟨hp.pending, hp.active⟩
  · have ha := hfew ((grantsInUse_le h.grant).trans hle)
    exact ⟨ha.pending, ha.active, ha.within⟩

theorem ReadWork.laterAdoption {s y : State} {dt : Nat} (h : ReadWork s y dt) (c : Config) :
    GrantsTaken s (laterAdoption y c) dt c.grants := h.adoptK ⟨_, _, rfl⟩

theorem ReadWork.firstAdoption {s y : State} {dt : Nat} (h : ReadWork s y dt) (c : Config) :
    GrantsTaken s (firstAdoption y c) dt c.grants := (h.leavePresence c.stringCount).adoptK ⟨_, _, rfl⟩

/-- R79, R100: K and the search at the end of the event. -/
theorem GrantsTaken.finish {s x : State} {dt k : Nat} (h : GrantsTaken s x dt k) :
    AdoptedK s (finish (s.advance dt) x) k
    ∧ (s.search.phase ≠ .idle → SearchFieldsDiffer s.cfg (finish (s.advance dt) x).cfg →
        SearchEnds { s with cfg := (finish (s.advance dt) x).cfg } (finish (s.advance dt) x) (s.now + dt) .abortedConfig none)
    ∧ (¬ SearchFieldsDiffer s.cfg (finish (s.advance dt) x).cfg → s.search.result ≠ .abortedConfig →
        (finish (s.advance dt) x).search.result ≠ .abortedConfig) := by
  have hcfg := (carries_finish (s.advance dt) x).cfg
  refine ⟨adoptedK_finish h.adopted h.few, fun hactive hdiffer => ?_, fun hsame hresult => ?_⟩
  · rw [hcfg] at hdiffer ⊢
    rw [← h.now]
    exact h.noAbort.searchEnds h.search hactive hdiffer
  · rw [hcfg] at hsame
    exact result_finish hsame (by rwa [h.search])

end Sys2Proof.Claims

/-! The release of a read that captures segments (R170, R172 to R176, R181 to R183): O38. -/

namespace Sys2Proof.Claims

open Sys2Proof Sys2Proof.Machine

/-! ## The release -/

/-- The state that the journal's part of a read's release leaves to the capture unit. -/
def journalDone (s : State) (dt : Nat) (t : Txn) (r : Release) : State := journalRead (readReleased s dt t r) t

/-- What the capture unit finds is what the read found. -/
structure CaptureFinds (s y : State) : Prop where
  cfg      : y.cfg = s.cfg
  base     : y.cfgBase = s.cfgBase
  segments : y.capture.segments = s.capture.segments
  state    : y.capture.state = s.capture.state
  deferred : y.capture.deferred = s.capture.deferred
  adopted  : y.capture.adopted = s.capture.adopted

theorem captureFinds_journalDone (s : State) (dt : Nat) (t : Txn) (r : Release) : CaptureFinds s (journalDone s dt t r) := by
  have hsame := (covers_journalRead (readReleased s dt t r) t).same
  exact ⟨hsame.cfg, hsame.cfgBase, hsame.segments, hsame.captureState, hsame.deferred, hsame.adopted⟩

theorem CaptureFinds.segment {s y : State} (h : CaptureFinds s y) (t : Txn) (j : Fin 8) :
    segmentAfter y t j = segmentAfter s t j := by
  unfold segmentAfter
  rw [h.base, h.segments]

theorem CaptureFinds.block {s y : State} (h : CaptureFinds s y) (t : Txn) : blockAfter y t = blockAfter s t := by
  unfold blockAfter
  congr 1
  exact funext fun j => congrArg Segment.bytes (h.segment t j)

theorem exec_read_captures {s : State} {t : Txn} {c : CmdClass} {r : Release} (dt : Nat) (hends : ReadEnds s t c r) :
    exec (row c dt [] (some r)) s = .next (finish (s.advance dt) (configRead (journalDone s dt t r) t)) := by
  obtain ⟨_, _, hread, _⟩ := exec_row_release hends.txn hends.cls dt r
  exact hread hends.kind

/-- R107: a transaction under a map without a ring has no part in the journal. -/
theorem journalDone_noRing {s : State} {dt : Nat} {t : Txn} {r : Release} (h : t.cfg.regions = []) :
    journalDone s dt t r = readReleased s dt t r := by
  have hring : journalRegion t.cfg = none := by
    unfold journalRegion
    rw [h]
    rfl
  unfold journalDone journalRead
  rw [hring]

/-- The capture unit touches neither the journal nor the mirror. -/
theorem finish_configRead_tracks (s₀ y : State) (t : Txn) :
    (finish s₀ (configRead y t)).journal = y.journal ∧ (finish s₀ (configRead y t)).mirror = y.mirror := by
  have hc := carries_finish s₀ (configRead y t)
  have htracks : (configRead y t).journal = y.journal ∧ (configRead y t).mirror = y.mirror := by
    obtain ⟨_, _, _, _, _, _, _, _, _, hx⟩ := adopts_configRead y t
    rw [hx]
    exact ⟨rfl, rfl⟩
  exact ⟨hc.journal.trans htracks.1, hc.mirror.trans htracks.2⟩

/-! ## What an adoption writes of the capture unit and the configuration -/

theorem leavePresence_capture (s : State) (n : Nat) : (leavePresence s n).capture = s.capture := by
  unfold leavePresence
  split
  · simp only [disturb_capture, dropLeaving]
  · simp only [dropLeaving]

theorem firstAdoption_capture (s : State) (c : Config) : (firstAdoption s c).capture =
    { s.capture with state := .adopted, deferred := false, adopted := true, coverage := List.replicate 128 false } := by
  unfold firstAdoption
  simp only [adoptK_capture, leavePresence_capture]

theorem laterAdoption_capture (s : State) (c : Config) : (laterAdoption s c).capture =
    { s.capture with
      state := .adopted
      deferred := !(c.stringCount == s.cfg.stringCount && c.memSize == s.cfg.memSize && c.regions == s.cfg.regions) } := by
  unfold laterAdoption
  simp only [adoptK_capture]

theorem laterAdoption_cfg (s : State) (c : Config) : (laterAdoption s c).cfg =
    { c with stringCount := s.cfg.stringCount, memSize := s.cfg.memSize, regions := s.cfg.regions } := by
  unfold laterAdoption
  simp only [adoptK_cfg]

/-- R174: the deferred flag says whether one of the fields that a later adoption leaves differs. -/
theorem deferred_iff (a b : Config) :
    (!(a.stringCount == b.stringCount && a.memSize == b.memSize && a.regions == b.regions)) = true ↔
      a.stringCount ≠ b.stringCount ∨ a.memSize ≠ b.memSize ∨ a.regions ≠ b.regions := by
  simp only [Bool.not_eq_true', Bool.and_eq_false_iff, beq_eq_false_iff_ne, or_assoc, ne_eq]

section captures
variable {s y : State} {t : Txn} (hy : CaptureFinds s y) (s₀ : State)
include hy

/-! ## A block that is not adopted -/

theorem finish_partial (hpartial : ∃ j, (segmentAfter s t j).valid = false) :
    (finish s₀ (configRead y t)).cfg = s.cfg ∧ (finish s₀ (configRead y t)).capture.state = s.capture.state
      ∧ (finish s₀ (configRead y t)).capture.adopted = s.capture.adopted
      ∧ (finish s₀ (configRead y t)).capture.deferred = s.capture.deferred
      ∧ ∀ j : Fin 8, (finish s₀ (configRead y t)).capture.segments[j] = segmentAfter s t j := by
  obtain ⟨j, hj⟩ := hpartial
  have hc := carries_finish s₀ (configRead y t)
  rw [configRead_partial ⟨j, by rw [hy.segment, hj]⟩] at hc ⊢
  generalize finish s₀ (withSegments y (segmentsAfter y t)) = u at hc
  rw [hc.cfg, hc.capture]
  exact ⟨hy.cfg, hy.state, hy.adopted, hy.deferred, fun j => (get_segmentsAfter y t j).trans (hy.segment t j)⟩

variable (hwhole : ∀ j, (segmentAfter s t j).valid = true)
include hwhole

theorem CaptureFinds.whole : ∀ j, (segmentAfter y t j).valid = true := fun j => by rw [hy.segment, hwhole]

omit hwhole in
theorem CaptureFinds.passes_iff :
    BlockPasses (y.cfgBase / 4096) (blockAfter y t) ↔ BlockPasses (s.cfgBase / 4096) (blockAfter s t) := by
  rw [hy.base, hy.block]

theorem finish_bad (hbad : ¬ BlockPasses (s.cfgBase / 4096) (blockAfter s t)) :
    (finish s₀ (configRead y t)).cfg = s.cfg ∧ (finish s₀ (configRead y t)).capture.state = .bad
      ∧ (finish s₀ (configRead y t)).capture.adopted = s.capture.adopted
      ∧ (finish s₀ (configRead y t)).capture.deferred = s.capture.deferred
      ∧ (finish s₀ (configRead y t)).pins.attnLow = true := by
  have hc := carries_finish s₀ (configRead y t)
  have hattn := attnLow_finish (s₀ := s₀) (s₁ := configRead y t)
  rw [configRead_bad (hy.whole hwhole) (mt hy.passes_iff.mp hbad)] at hc hattn ⊢
  generalize finish s₀ _ = u at *
  exact ⟨hc.cfg.trans hy.cfg, congrArg Capture.state hc.capture, (congrArg Capture.adopted hc.capture).trans hy.adopted,
    (congrArg Capture.deferred hc.capture).trans hy.deferred, hattn (attentionReasons_of_bad (congrArg Capture.state hc.capture))⟩

/-- R172: every mark is cleared, whether the block passes or not. -/
theorem finish_cleared (j : Fin 8) : (finish s₀ (configRead y t)).capture.segments[j].valid = false := by
  have hsegments : (configRead y t).capture.segments = segmentsCleared y t := by
    rw [configRead_whole (hy.whole hwhole)]
    split
    · split
      · rw [laterAdoption_capture]
        rfl
      · rw [firstAdoption_capture]
        rfl
    · rfl
  rw [(carries_finish s₀ (configRead y t)).capture, hsegments]
  exact valid_segmentsCleared y t j

/-! ## A block that is adopted -/

variable (hok : BlockPasses (s.cfgBase / 4096) (blockAfter s t))
include hok

theorem CaptureFinds.later (hadopted : s.capture.adopted = true) :
    configRead y t = laterAdoption (blockJudged y t) (parseBlock (blockAfter s t)) := by
  rw [configRead_later (hy.whole hwhole) (hy.passes_iff.mpr hok) (hy.adopted.trans hadopted), hy.block]

theorem CaptureFinds.first (hadopted : s.capture.adopted = false) :
    configRead y t = firstAdoption (blockJudged y t) (parseBlock (blockAfter s t)) := by
  rw [configRead_first (hy.whole hwhole) (hy.passes_iff.mpr hok) (hy.adopted.trans hadopted), hy.block]

theorem CaptureFinds.grantsTaken {dt : Nat} (hw : ReadWork s y dt) :
    GrantsTaken s (configRead y t) dt (parseBlock (blockAfter s t)).grants := by
  cases hadopted : s.capture.adopted with
  | true =>
    rw [hy.later hwhole hok hadopted]
    exact (hw.judged t).laterAdoption _
  | false =>
    rw [hy.first hwhole hok hadopted]
    exact (hw.judged t).firstAdoption _

theorem finish_adopted :
    (finish s₀ (configRead y t)).capture.state = .adopted ∧ (finish s₀ (configRead y t)).capture.adopted = true := by
  rw [(carries_finish s₀ (configRead y t)).capture]
  cases hadopted : s.capture.adopted with
  | true =>
    rw [hy.later hwhole hok hadopted, laterAdoption_capture]
    exact ⟨rfl, hy.adopted.trans hadopted⟩
  | false =>
    rw [hy.first hwhole hok hadopted, firstAdoption_capture]
    exact ⟨rfl, rfl⟩

/-- R174: a later adoption leaves the string count, the memory size and the region map, and marks a difference. -/
theorem finish_later (hadopted : s.capture.adopted = true) :
    (finish s₀ (configRead y t)).cfg = { parseBlock (blockAfter s t) with
        stringCount := s.cfg.stringCount, memSize := s.cfg.memSize, regions := s.cfg.regions }
      ∧ ((finish s₀ (configRead y t)).capture.deferred = true ↔
          (parseBlock (blockAfter s t)).stringCount ≠ s.cfg.stringCount ∨ (parseBlock (blockAfter s t)).memSize ≠ s.cfg.memSize
            ∨ (parseBlock (blockAfter s t)).regions ≠ s.cfg.regions) := by
  have hc := carries_finish s₀ (configRead y t)
  have hcfg : (blockJudged y t).cfg = s.cfg := hy.cfg
  rw [hc.cfg, hc.capture, hy.later hwhole hok hadopted, laterAdoption_cfg, laterAdoption_capture, hcfg]
  exact ⟨rfl, deferred_iff ..⟩

/-- R173, R176: a first adoption takes every field, and coverage starts empty. -/
theorem finish_first (hadopted : s.capture.adopted = false) :
    (finish s₀ (configRead y t)).cfg = parseBlock (blockAfter s t) ∧ (finish s₀ (configRead y t)).capture.deferred = false
      ∧ (finish s₀ (configRead y t)).capture.coverage = List.replicate 128 false := by
  have hc := carries_finish s₀ (configRead y t)
  rw [hc.cfg, hc.capture, hy.first hwhole hok hadopted, firstAdoption_capture]
  exact ⟨rfl, rfl, rfl⟩

/-- R2, R81: the strings at and above the new count leave presence. -/
theorem finish_leaves {dt : Nat} {i : Str} (hadopted : s.capture.adopted = false) (hw : ReadWork s y dt) (htable : y.table = s.table)
    (hseqs : y.seqs = s.seqs) (hidle : s.search.phase = .idle) (hstage : s.search.stage = .none)
    (hnew : (parseBlock (blockAfter s t)).stringCount ≤ i.val) (hold : i.val < s.cfg.stringCount) :
    LeavesPresence s (finish s₀ (configRead y t)) dt i := by
  have hsearch := ((hy.grantsTaken hwhole hok hw).search)
  have hleaves : leaves (blockJudged y t) (parseBlock (blockAfter s t)).stringCount i = true := by
    have hpresent : isPresent (blockJudged y t) i = true := by
      refine isPresent_iff.mpr ?_
      change i.val < y.cfg.stringCount
      rwa [hy.cfg]
    rw [leaves, hpresent, decide_eq_true hnew]
    rfl
  rw [hy.first hwhole hok hadopted] at hsearch ⊢
  exact (dropped_firstAdoption hleaves).leavesPresence (decide_eq_false (Nat.not_lt.mpr hnew)) (by rw [hsearch, hidle])
    (by rw [hsearch, hstage]) htable hseqs hw.now

end captures

/-! ## The settlement -/

/-- What a block that passes makes of the part (R79, R100, R173, R174, R176), clause by clause. -/
theorem read_adopts {s : State} {t : Txn} {r : Release} (dt : Nat) (hwhole : ∀ j, (segmentAfter s t j).valid = true)
    (hok : BlockPasses (s.cfgBase / 4096) (blockAfter s t)) :
    let new := parseBlock (blockAfter s t)
    let u := finish (s.advance dt) (configRead (journalDone s dt t r) t)
    (s.capture.adopted = true →
      u.cfg = { new with stringCount := s.cfg.stringCount, memSize := s.cfg.memSize, regions := s.cfg.regions }
      ∧ (u.capture.deferred = true ↔
          new.stringCount ≠ s.cfg.stringCount ∨ new.memSize ≠ s.cfg.memSize ∨ new.regions ≠ s.cfg.regions))
    ∧ (s.capture.adopted = false → u.cfg = new ∧ u.capture.deferred = false
      ∧ u.capture.coverage = List.replicate 128 false
      ∧ (t.cfg.regions = [] → s.search.phase = .idle → s.search.stage = .none →
          ∀ i : Str, new.stringCount ≤ i.val → i.val < s.cfg.stringCount → LeavesPresence s u dt i)
      ∧ (t.cfg.regions = [] → s.journal.state = .notAdopted → u.pins.attnLow = true)) := by
  have hfinds := captureFinds_journalDone s dt t r
  have hwork : ReadWork s (journalDone s dt t r) dt := readWork_journalRead s dt t r
  obtain ⟨hjournal, _⟩ := finish_configRead_tracks (s.advance dt) (journalDone s dt t r) t
  obtain ⟨_, hstands⟩ := finish_adopted hfinds (s.advance dt) hwhole hok
  refine ⟨finish_later hfinds _ hwhole hok, fun hadopted => ?_⟩
  obtain ⟨hcfg, hdeferred, hcoverage⟩ := finish_first hfinds (s.advance dt) hwhole hok hadopted
  refine ⟨hcfg, hdeferred, hcoverage, fun hregions hidle hstage i hnew hold => ?_, fun hregions hstate => ?_⟩
  · have hdone : journalDone s dt t r = readReleased s dt t r := journalDone_noRing hregions
    exact finish_leaves hfinds _ hwhole hok hadopted hwork (by rw [hdone]; rfl) (by rw [hdone]; rfl) hidle hstage hnew hold
  · refine attnLow_finish (attentionReasons_of_notAdopted ?_ hstands)
    rw [hjournal, journalDone_noRing hregions]
    exact hstate

/-- Settles O38: the block is whole or not, passes or not, and is the first since reset or a later one. -/
theorem configurationsAdopted : Obligations.ConfigurationsAdopted := by
  intro c dt r s t hends
  have hfinds := captureFinds_journalDone s dt t r
  refine ⟨_, exec_read_captures dt hends, finish_partial hfinds _,
    fun hwhole => ⟨finish_cleared hfinds _ hwhole, finish_bad hfinds _ hwhole, fun hok => ?_, fun _ hregions => ?_⟩⟩
  · obtain ⟨hk, hconfig, hgoes⟩ := (hfinds.grantsTaken hwhole hok (readWork_journalRead s dt t r)).finish
    obtain ⟨hstate, hadopted⟩ := finish_adopted hfinds (s.advance dt) hwhole hok
    obtain ⟨hlater, hfirst⟩ := read_adopts (r := r) dt hwhole hok
    exact ⟨parseBlock (blockAfter s t), holdsConfig_parseBlock hok, hstate, hadopted, hk, hconfig, hgoes, hlater, hfirst⟩
  · obtain ⟨hjournal, hmirror⟩ := finish_configRead_tracks (s.advance dt) (journalDone s dt t r) t
    rw [journalDone_noRing hregions] at hjournal hmirror ⊢
    exact ⟨hjournal, hmirror⟩

end Sys2Proof.Claims
